-- ==== Sys2Proof/Word.lean ====
section
/-! DEFINITION. The machine's plain words: scalar, vector and predicate registers, parcels and bytes (06 R112, 00 R6). -/

namespace Sys2Proof

/-- A scalar register (06 R112) or any 64-bit word. -/
abbrev Word := BitVec 64
/-- A byte of any memory. -/
abbrev Byte := BitVec 8
/-- A parcel of code (00 R6). -/
abbrev Parcel := BitVec 32
/-- A vector register (06 R112). -/
abbrev VReg := BitVec 4096
/-- A predicate register, one bit per byte of a vector register (06 R112). -/
abbrev PReg := BitVec 512
/-- A table entry or shape register (07 R149, 12 R231). -/
abbrev Wide := BitVec 512

end Sys2Proof
end

