-- ==== Sys2Proof/Syntax.lean ====
section
/-! DEFINITION. The abstract syntax: operand forms, and Instr with one constructor per row of the opcode table
(bundle syllables, near-memory microinstructions, and the device's commands and events). -/

namespace Sys2Proof

/-- Condition codes 0 to 11 (05 R92). -/
inductive Cond where
  | eq | ne | lt | ge | ltu | geu | le | gt | leu | gtu | un | ord
  deriving DecidableEq, Repr

/-- Element types (02 R37, 05 R92): the eight of page 0, then pages 1 and 2. -/
inductive ETy where
  | i8 | n8 | i16 | n16 | bf16 | f16 | f32 | f64 | i32 | n32 | i64 | n64
  deriving DecidableEq, Repr

/-- The two copy engines of a core, and the slots that select them (12 R229). -/
inductive Eng where
  | a | b
  deriving DecidableEq, Repr

/-- Scopes of atomics (11 R220, 15 R306). -/
inductive Scope where
  | gang | die | dev | grp
  deriving DecidableEq, Repr

/-- The nine slots in bundle order (05 R82, R83). -/
inductive Slot where
  | s | va | vb | mx | ld | st | ca | cb | k
  deriving DecidableEq, Repr

/-- The second source of a vector integer instruction: a register, or imm11 with I = 1 (05 R93). -/
inductive VSrc where
  | reg (n : Nat)
  | imm (k : Int)
  deriving DecidableEq, Repr

/-- The count of BINIT, BEXPECT and BARRIVE (15 R299). -/
inductive BCount where
  | const (n : Nat)
  | reg (n : Nat)
  deriving DecidableEq, Repr

/-- Binary vector form (08 R159). -/
structure VBin where
  ty : ETy
  vd : Nat
  va : Nat
  b : VSrc
  pg : Nat
  z : Bool
  deriving DecidableEq, Repr

/-- Unary vector form (08 R159). -/
structure VUn where
  ty : ETy
  vd : Nat
  va : Nat
  pg : Nat
  z : Bool
  deriving DecidableEq, Repr

/-- Vector form with three register fields (08 R159, R167; 09 R186, R187): the description says which field
names a vector and which a scalar. -/
structure VTer where
  ty : ETy
  vd : Nat
  va : Nat
  vb : Nat
  vc : Nat
  pg : Nat
  z : Bool
  deriving DecidableEq, Repr

/-- Compare form (08 R159, R165). -/
structure VCmp where
  ty : ETy
  cc : Cond
  pd : Nat
  va : Nat
  vb : Nat
  pg : Nat
  z : Bool
  deriving DecidableEq, Repr

/-- VCVT (09 R174): destination type, source type, part and `.rtz`. -/
structure VCvtOp where
  dst : ETy
  src : ETy
  vd : Nat
  va : Nat
  q : Nat
  rtz : Bool
  pg : Nat
  z : Bool
  deriving DecidableEq, Repr

/-- MMA and MMAU (05 R94, 10 R198). -/
structure MmaOp where
  acc : Nat
  tA : Nat
  tB : Nat
  kn : Nat
  sbar : Nat
  stok : Nat
  soffA : Nat
  soffB : Nat
  z : Bool
  c : Bool
  deriving DecidableEq, Repr

/-- Loads and stores (05 R95, 11 R219): `size` is the code in [1:0]. -/
structure LsOp where
  reg : Nat
  sbase : Nat
  sidx : Nat
  imm : Int
  dist : Nat
  pg : Nat
  size : Nat
  deriving DecidableEq, Repr

/-- Atomics (11 R225). -/
structure AtOp where
  reg : Nat
  sbase : Nat
  sidx : Nat
  imm : Int
  dist : Nat
  scope : Scope
  deriving DecidableEq, Repr

/-- PREF, FLUSH, DISCARD, REARM (11 R227). -/
structure RgOp where
  sbase : Nat
  sidx : Nat
  imm : Int
  deriving DecidableEq, Repr

/-- A copy syllable and the engine its slot selects (05 R96, 12 R229). -/
structure CpOp where
  eng : Eng
  sh : Nat
  tsrc : Nat
  tdst : Nat
  sbar : Nat
  deriving DecidableEq, Repr

/-- Fields of a near-memory microinstruction (05 R100, 16 R314). -/
structure NmOp where
  nd : Nat
  na : Nat
  nb : Nat
  nc : Nat
  i32 : Bool
  deriving DecidableEq, Repr

/-- The head of a command frame as it arrives (03 R53, R54), and whether its tag checks, its head is well formed
and its payload is (R58). -/
structure FrameHead where
  session : Nat
  seq : Nat
  reqId : Nat
  ack : Nat
  mgmt : Bool
  tagOk : Bool
  headOk : Bool
  payloadOk : Bool
  deriving DecidableEq, Repr

/-- STEP-OPEN's payload (03 R64). -/
structure OpenReq where
  flags : BitVec 8
  expected : Nat
  step : Word
  seed : Word
  cursors : List Word
  counters : List (BitVec 32)
  threshold : BitVec 32
  deriving DecidableEq, Repr

/-- PAGE's payload (03 R60) without the operation. -/
structure PageReq where
  type : Nat
  flags : BitVec 8
  tier : Nat
  ipa : Nat
  va : Word
  count : Nat
  deriving DecidableEq, Repr

/-- A flit as it crosses a link: 128 header bits and 64 payload bytes (17 R327). -/
structure Flit where
  hdr : BitVec 128
  payload : List Byte
  deriving DecidableEq, Repr

/-- A Halyard message (20 R386). -/
structure HalMsg where
  kind : Nat
  verdict : Nat
  word : BitVec 16
  attempt : Nat
  count : Nat
  reservedZero : Bool
  deriving DecidableEq, Repr

/-- A write packet (23 R404). -/
structure WritePkt where
  src : Nat
  ipa : Nat
  data : List Byte
  core : Nat
  eng : Eng
  step : Bool
  arrivals : Bool
  barrier : Nat
  deriving DecidableEq, Repr

/-- The device that acknowledges a write packet, and the IPA that it acknowledges (23 R405). -/
structure WriteAck where
  src : Nat
  ipa : Nat
  deriving DecidableEq, Repr

/-- Where a datagram goes: an address and its UDP port (17 R337). -/
structure UdpEnd where
  addr : BitVec 128
  port : Nat
  deriving DecidableEq, Repr

/-- What another member of a communicator brings to a collective (17 R343, R344). -/
structure Peer where
  rank : Nat
  seqNo : Nat
  tuple : List Nat
  step : Word
  data : List Byte
  deriving DecidableEq, Repr

/-- The record of a plan that a REMOTE-SET names, and the device and IPA of its payload, which a clear carries too (23 R403). -/
structure RemoteTarget where
  record : Nat
  dev : Nat
  ipa : Nat
  deriving DecidableEq, Repr

/-- What happened to storage or to the products of a matrix engine (18 R362, 10 R195 to R197). -/
inductive SoftErr where
  | corrected
  | uncorrectableAccess (core : Nat) (id : Nat) (elem : Nat)
  | uncorrectableEngine (core : Nat) (eng : Eng)
  | product (core : Nat) (index : Nat) (again : Bool)
  | accumulator (core : Nat) (acc : Nat)
  | uncorrectableNear (core : Nat) (ord : Nat) (elem : Nat)
  | uncorrectableFetch (core : Nat)
  | uncorrectableRow (u : Nat)
  | uncorrectableBlock (run : Nat)
  | uncorrectableColl (core : Nat) (id : Nat)
  | uncorrectableRemote (n : Nat)
  | uncorrectableMatrix (core : Nat) (ord : Nat) (off : Nat)
  | uncorrectableRegister (core : Nat) (slot : Nat)
  deriving DecidableEq, Repr

/-- What a module reset finds: straps, self-test, and whether the staged image verified (21 R398, R400, 17 R324). -/
structure BootIn where
  straps : BitVec 16
  failed : List Nat
  deriving DecidableEq, Repr

/-- The steps of the part, one constructor per row of spec/opcode_table.json:
syllables and microinstructions first, then the device's commands and events, then the rows without operands. -/
inductive Instr where
  -- issue and landing
  | nop (sp le : Bool) (guard : Nat)
  | dataLanding (core id : Nat) (unit : Option Nat)
  | storeAcknowledge (core id : Nat) (unit : Option Nat)
  | memTimeout (core id : Nat)
  | softError (e : SoftErr)
  -- S slot (06)
  | add (sd sa sb : Nat)
  | sub (sd sa sb : Nat)
  | mul (sd sa sb : Nat)
  | mulh (sd sa sb : Nat)
  | mulhu (sd sa sb : Nat)
  | div (sd sa sb : Nat)
  | divu (sd sa sb : Nat)
  | rem (sd sa sb : Nat)
  | remu (sd sa sb : Nat)
  | and (sd sa sb : Nat)
  | or (sd sa sb : Nat)
  | xor (sd sa sb : Nat)
  | shl (sd sa sb : Nat)
  | shr (sd sa sb : Nat)
  | sar (sd sa sb : Nat)
  | sel (sd sa sb pn : Nat)
  | addi (sd sa : Nat) (imm : Int)
  | andi (sd sa : Nat) (imm : Int)
  | ori (sd sa : Nat) (imm : Int)
  | xori (sd sa : Nat) (imm : Int)
  | shli (sd sa count : Nat)
  | shri (sd sa count : Nat)
  | sari (sd sa count : Nat)
  | min (sd sa sb : Nat)
  | max (sd sa sb : Nat)
  | minu (sd sa sb : Nat)
  | maxu (sd sa sb : Nat)
  | clz (sd sa : Nat)
  | popc (sd sa : Nat)
  | movj (sd jn : Nat)
  | movp (sd pn : Nat)
  | cmpCc (cc : Cond) (pd sa sb : Nat)
  | cmpiCc (cc : Cond) (pd sa : Nat) (imm : Int)
  | li (sd : Nat) (imm : Int)
  | lih (sd : Nat) (imm : Nat)
  | fadd (f32 : Bool) (sd sa sb : Nat)
  | fsub (f32 : Bool) (sd sa sb : Nat)
  | fmul (f32 : Bool) (sd sa sb : Nat)
  | ffma (f32 : Bool) (sd sa sb : Nat)
  | fdiv (f32 : Bool) (sd sa sb : Nat)
  | fsqrt (f32 : Bool) (sd sa : Nat)
  | fcmpCc (cc : Cond) (f32 : Bool) (pd sa sb : Nat)
  | fcvt (dst src : ETy) (sd sa : Nat)
  | br (disp : Int)
  | brc (pt : Nat) (ng : Bool) (disp : Int)
  | jr (sa : Nat)
  | call (disp : Int)
  | loop (nd sa : Nat) (rot : Bool) (e : Nat)
  | loopx (nd sa : Nat) (rot : Bool) (n0 : Nat)
  -- VA and VB slots (08)
  | vadd (o : VBin)
  | vsub (o : VBin)
  | vmul (o : VBin)
  | vmulh (o : VBin)
  | vmac (o : VBin)
  | vabs (o : VUn)
  | vneg (o : VUn)
  | vmin (o : VBin)
  | vmax (o : VBin)
  | vand (o : VBin)
  | vor (o : VBin)
  | vxor (o : VBin)
  | vshl (o : VBin)
  | vshr (o : VBin)
  | vsar (o : VBin)
  | vadds (o : VBin)
  | vsubs (o : VBin)
  | vavg (o : VBin)
  | vclz (o : VUn)
  | vpopc (o : VUn)
  | vcmpCc (o : VCmp)
  | vsel (o : VTer)
  | vfadd (o : VTer)
  | vfsub (o : VTer)
  | vfmul (o : VTer)
  | vfma (o : VTer)
  | vfnma (o : VTer)
  | vfmin (o : VTer)
  | vfmax (o : VTer)
  | vfabs (o : VUn)
  | vfneg (o : VUn)
  | vfclass (o : VUn)
  | vfcmpCc (o : VCmp)
  | vmov (o : VUn)
  | vbcast (o : VUn)
  | vext (ty : ETy) (sd va sb imm : Nat)
  | vins (ty : ETy) (vd sa sb imm : Nat)
  | vperm (o : VTer)
  | vshuf (o : VUn) (pat : BitVec 8)
  | vrot (o : VTer)
  | vzip (o : VTer)
  | vunzip (o : VTer)
  | vslide (o : VTer)
  -- VA and VB slots (09)
  | vcvt (o : VCvtOp)
  | vnanpay (o : VUn)
  | vnanmk (o : VUn)
  | vnarrowT (o : VTer)
  | vwidenT (o : VTer)
  | vscaleT (o : VTer)
  | vfdiv (o : VTer)
  | vfsqrt (o : VUn)
  | vfrcp (o : VUn)
  | vfrsq (o : VUn)
  | vfexp2 (o : VUn)
  | vflog2 (o : VUn)
  | vfsinpi (o : VUn)
  | vfcospi (o : VUn)
  | vrsum (o : VUn)
  | vrmax (o : VUn)
  | vrmin (o : VUn)
  | vfrsum (o : VUn)
  | vfrmax (o : VUn)
  | vrngu (o : VTer)
  | vrngn (o : VTer)
  | vrngb (o : VTer)
  | vdrop (o : VTer)
  -- MX slot (10)
  | mzero (acc : Nat)
  | mma (o : MmaOp)
  | mmau (o : MmaOp) (u : Nat)
  | mdrain (acc tD soffB sbar stok e : Nat)
  | mload (acc tS soffA sbar stok : Nat)
  | mcksum (acc sd : Nat)
  | mstat (acc sd : Nat)
  -- LD and ST slots (11)
  | ld (o : LsOp)
  | vld (o : LsOp)
  | vlds (o : LsOp)
  | vgath (o : LsOp)
  | lsld (o : LsOp)
  | lqpop (vec : Bool) (reg q : Nat)
  | pref (o : RgOp)
  | aadd (o : AtOp)
  | amin (o : AtOp)
  | amax (o : AtOp)
  | aand (o : AtOp)
  | aor (o : AtOp)
  | axor (o : AtOp)
  | aswap (o : AtOp)
  | acas (o : AtOp)
  | afadd (o : AtOp)
  | aaddNr (o : AtOp)
  | aminNr (o : AtOp)
  | amaxNr (o : AtOp)
  | aandNr (o : AtOp)
  | aorNr (o : AtOp)
  | axorNr (o : AtOp)
  | aswapNr (o : AtOp)
  | afaddNr (o : AtOp)
  | st (o : LsOp)
  | vst (o : LsOp)
  | vsts (o : LsOp)
  | vscat (o : LsOp)
  | lsst (o : LsOp)
  | lqpsh (vec : Bool) (reg q : Nat)
  | flush (o : RgOp)
  | discard (o : RgOp)
  | rearm (o : RgOp)
  | lqTimeout (core : Nat)
  | wosWait (core id : Nat)
  -- CA and CB slots (12)
  | copy (o : CpOp)
  | copyt (o : CpOp)
  | copy2 (o : CpOp)
  | copyr (o : CpOp)
  | gathc (o : CpOp)
  | copyx (o : CpOp)
  | copyRetire (core : Nat) (eng : Eng)
  | copyFailure (core : Nat) (eng : Eng) (code : Nat)
  | writePacket (p : WritePkt)
  | writePacketAck (ack : WriteAck) (code core : Nat) (eng : Eng)
  -- K slot
  | layer (id : Nat)
  | sysrd (sd sel : Nat)
  | pand (pd pa pb : Nat)
  | por (pd pa pb : Nat)
  | pxor (pd pa pb : Nat)
  | pnot (pd pa : Nat)
  | pset (pd sa w : Nat)
  | shw (eng : Eng) (n sa mask : Nat)
  | kShr (sd : Nat) (eng : Eng) (n k : Nat)
  | ttw (t sa mask : Nat)
  | ttr (sd t k : Nat)
  | binit (sb : Nat) (n : BCount)
  | bexpect (sb : Nat) (n : BCount)
  | barrive (sb : Nat) (n : BCount)
  | bwait (sd sb st : Nat)
  | btoken (sd sb : Nat)
  | barrierUpdate (core id : Nat)
  | barTimeout (core : Nat)
  | fence (before after : Nat)
  | fencex (p1 p2 : Nat)
  | clock (sd : Nat)
  | nmrun (sp sb prog : Nat)
  | nmRunStart (run : Nat)
  | nmRunRetire (run : Nat)
  | coll (sd sb comm : Nat)
  | collStart (core id : Nat) (peers : List Peer)
  | collRetire (core id : Nat)
  | collTimeout (core id : Nat)
  | steprd (sd sel : Nat)
  | stepwr (sel sa : Nat)
  | curadv (sd k sa : Nat)
  | seqnext (sd c : Nat)
  | losschk (pd sa : Nat)
  | pennon (n : Nat) (veto : Bool)
  | hrd (hd sel : Nat)
  | hwr (sel ha : Nat)
  | hpage (hd ha op : Nat)
  | hpageTimeout (core : Nat)
  | hfreeze (ha : Nat)
  | trap (n : Nat)
  -- near-memory microinstructions (16)
  | nld (qd stream : Nat)
  | nst (stream qa : Nat)
  | nparam (qd k : Nat)
  | nadd (o : NmOp)
  | nsub (o : NmOp)
  | nmul (o : NmOp)
  | nfma (o : NmOp)
  | ndiv (o : NmOp)
  | nsqrt (o : NmOp)
  | nrsq (o : NmOp)
  | nmax (o : NmOp)
  | nmin (o : NmOp)
  | nabs (o : NmOp)
  | ncmp (o : NmOp) (cc : Cond)
  | nsel (o : NmOp)
  | nclamp (o : NmOp)
  | ncvt (kind qd qa : Nat)
  | nloop (target : Nat)
  -- decode faults (05)
  | illBundle (target : Bool) (parcel : Parcel)
  | illInstr (slot : Slot) (word : Word)
  -- steps of the schedulers and of memory that the machine starts by itself
  | taskStart (launch node : Nat)
  | taskRestore (launch node : Nat)
  | safePoint (launch node : Nat)
  | taskSave (launch node : Nat)
  | taskRetire (launch node : Nat)
  | killComplete (launch node : Nat)
  | pageMoveEnd (ipa : Nat)
  | shootdownComplete (index : Nat)
  -- commands of the host (03 R60, R61) and management requests
  | hello (f : FrameHead) (payload : List Byte)
  | attest (f : FrameHead) (challenge : List Byte)
  | loadContainer (f : FrameHead) (handle total offset : Nat) (data : List Byte) (ipas : List Nat)
  | unloadContainer (f : FrameHead) (handle : Nat)
  | patch (f : FrameHead) (handle index : Nat) (value : Word)
  | launch (f : FrameHead) (handle graph : Nat)
  | stepOpen (f : FrameHead) (o : OpenReq)
  | stepClose (f : FrameHead) (attempt : Nat)
  | stepStatus (f : FrameHead) (attempt : Nat) (supplied : Bool) (verdict : Nat) (word : BitVec 16)
  | veto (f : FrameHead) (attempt : Nat) (soft : BitVec 8)
  | read (f : FrameHead) (ipaSpace : Bool) (handle len addr : Nat)
  | write (f : FrameHead) (ipaSpace : Bool) (handle len addr : Nat) (data : List Byte)
  | pageMap (f : FrameHead) (r : PageReq)
  | pageUnmap (f : FrameHead) (r : PageReq)
  | pageSetType (f : FrameHead) (r : PageReq)
  | pageShootDown (f : FrameHead) (r : PageReq)
  | pageDemote (f : FrameHead) (r : PageReq)
  | pagePromote (f : FrameHead) (r : PageReq)
  | kill (f : FrameHead) (launch node : Nat)
  | firmware (f : FrameHead) (total offset : Nat) (data : List Byte)
  | resetWork (f : FrameHead) (force : Bool)
  | resetModule (f : FrameHead) (force : Bool)
  | telemetry (f : FrameHead) (mask : Word) (period : Nat)
  | xfer (f : FrameHead) (id offset len : Nat) (last : Bool) (data : List Byte)
  | schedSet (f : FrameHead) (word : Word)
  | carveSet (f : FrameHead) (die ways : Nat)
  | tierSet (f : FrameHead) (tier : Nat) (word : BitVec 128)
  | linkSet (f : FrameHead) (link : Nat) (word : Word)
  | fabricSet (f : FrameHead) (word pre : Word)
  | commSet (f : FrameHead) (c : Nat) (word : Word)
  | halyardSet (f : FrameHead) (word : BitVec 256)
  | powerSet (f : FrameHead) (word : Word)
  | margin (f : FrameHead)
  | remoteSetBind (f : FrameHead) (handle rec dev ipa : Nat)
  | remoteSetClear (f : FrameHead) (handle : Nat) (t : RemoteTarget)
  | boardSet (f : FrameHead) (word : Word)
  | icmpv6Echo (data : List Byte)
  | neighbourDiscovery (data : List Byte)
  | moduleReset (b : BootIn)
  -- the schedulers (04, 19)
  | queuePromotion (launch node : Nat)
  | gangReservation (launch node : Nat)
  | escalationTimeout (launch node : Nat)
  -- the step group (20)
  | halyardVote (src : Nat) (m : HalMsg)
  | halyardDecide (src : Nat) (m : HalMsg)
  | inDoubt (routeLost : Bool)
  | halyardQuery (src : Nat) (m : HalMsg)
  | halyardAnswer (src : Nat) (m : HalMsg)
  -- links (17)
  | dataFlit (link : Nat) (fl : Flit)
  | idleFlit (link : Nat) (fl : Flit)
  | nakFlit (link : Nat) (fl : Flit)
  | tagFlit (link : Nat) (fl : Flit)
  | trainingFlit (link speed : Nat) (fl : Flit)
  | replayTimeout (link : Nat)
  | tagGroupClose (link vc : Nat)
  | tagFailureLimit (link vc : Nat)
  | laneFailure (link lane : Nat)
  | linkPartnerAppears (link : Nat)
  | trainingDisagreementLimit (link : Nat)
  | linkPartnerTimeout (link : Nat)
  | scaleOutDatagram (port : Nat) (dst : UdpEnd) (src : BitVec 128) (flits : List Flit)
  | flowSilenceTimeout (port dev : Nat)
  -- memory services (13)
  | scrubberVisit (block : Nat)
  | tierDemotion (tier die : Nat)
  | warmPromotion (ipa : Nat)
  | pageLost (ipa : Nat)
  | demotionAbandoned (transfer : Nat)
  -- power and ageing (21)
  | powerManagerTick (mw : Nat) (dieMw : List Nat)
  | thermalHold (die milliC : Nat)
  | thermalRelease (die milliC : Nat)
  | thermalShutdown (die milliC : Nat) (b : BootIn)
  | boardLimit (cause reading : Nat)
  -- the rest of the memory side
  | remoteReadRequest (src ipa len : Nat) (step : Bool)
  -- rows without operands
  | ret
  | endTask
  | stepend
  | eret
  | nend
  | stepOpenCompletion
  | packetDropped
  | eventRepeat
  | telemetryPush
  | schedulerRound
  | stepVote
  | rootSilenceTimeout
  | inDoubtQuery
  | warmDecay
  | boardLimitClear
  | marginReplan
  | attemptTableCommit
  deriving DecidableEq, Repr

end Sys2Proof
end

