-- ==== Sys2Proof/WellFormed.lean ====
section
/-! DEFINITION. Which instructions an encoding can hold: the field ranges and forms of 05 R90 to R100 and of
each instruction's own description. Commands and events carry what arrives and are checked by their meanings. -/

namespace Sys2Proof

/-- Floating element types (07 R131). -/
def ETy.isFloat : ETy → Bool
  | .bf16 | .f16 | .f32 | .f64 => true
  | _ => false

/-- Signed integer types. -/
def ETy.isSigned : ETy → Bool
  | .i8 | .i16 | .i32 | .i64 => true
  | _ => false

/-- Integer element types. -/
def ETy.isInt (t : ETy) : Bool := !t.isFloat

/-- Types of opcode page 0 (05 R93). -/
def ETy.page0 : ETy → Bool
  | .i32 | .n32 | .i64 | .n64 => false
  | _ => true

/-- Element width in bytes (08 R154). -/
def ETy.width : ETy → Nat
  | .i8 | .n8 => 1
  | .i16 | .n16 | .bf16 | .f16 => 2
  | .i32 | .n32 | .f32 => 4
  | .i64 | .n64 | .f64 => 8

/-- Condition codes that integer compares accept (05 R92). -/
def Cond.forInt : Cond → Bool
  | .un | .ord => false
  | _ => true

/-- Condition codes that floating compares accept (05 R92). -/
def Cond.forFloat : Cond → Bool
  | .ltu | .geu | .leu | .gtu => false
  | _ => true

def sOk (n : Nat) : Bool := n < 64
def vOk (n : Nat) : Bool := n < 1536
def pOk (n : Nat) : Bool := n < 32
def tOk (n : Nat) : Bool := n < 256
def immIn (lo hi k : Int) : Bool := lo ≤ k && k ≤ hi

/-- 05 R93, 08 R159: the second source. -/
def VSrc.ok : VSrc → Bool
  | .reg n => vOk n
  | .imm k => immIn (-1024) 1023 k

def VBin.ok (o : VBin) : Bool := o.ty.isInt && vOk o.vd && vOk o.va && o.b.ok && pOk o.pg
def VUn.regs (o : VUn) : Bool := vOk o.vd && vOk o.va && pOk o.pg
def VTer.bin (o : VTer) : Bool := vOk o.vd && vOk o.va && vOk o.vb && o.vc == 0 && pOk o.pg
def VTer.tri (o : VTer) : Bool := vOk o.vd && vOk o.va && vOk o.vb && vOk o.vc && pOk o.pg
def VTer.fbin (o : VTer) : Bool := o.ty.isFloat && o.bin
def VCmp.regs (o : VCmp) : Bool := pOk o.pd && vOk o.va && vOk o.vb && pOk o.pg

/-- Types that a float can hold exactly (09 R174): the pairs on which `.rtz` is illegal. -/
def neverRounds (dst src : ETy) : Bool :=
  if dst.isInt then src.isInt
  else match src with
    | .i8 | .n8 => true
    | .i16 | .n16 => dst == .f32 || dst == .f64
    | .i32 | .n32 => dst == .f64
    | _ => false

def VCvtOp.ok (o : VCvtOp) : Bool :=
  vOk o.vd && vOk o.va && pOk o.pg && !(o.rtz && neverRounds o.dst o.src) &&
  o.q < (Nat.max o.dst.width o.src.width) / (Nat.min o.dst.width o.src.width)

def MmaOp.ok (o : MmaOp) : Bool :=
  o.acc < 8 && tOk o.tA && tOk o.tB && o.kn < 16 && sOk o.sbar && sOk o.stok && sOk o.soffA && sOk o.soffB &&
  (o.sbar != 0 || o.stok == 0)

def barOk (sbar stok : Nat) : Bool := sOk sbar && sOk stok && (sbar != 0 || stok == 0)

def LsOp.addr (o : LsOp) : Bool := sOk o.sbase && sOk o.sidx && immIn (-32768) 32767 o.imm && o.dist < 1024
def LsOp.scalar (o : LsOp) : Bool := o.addr && sOk o.reg && o.pg == 0 && o.size < 4
def LsOp.vector (o : LsOp) : Bool := o.addr && vOk o.reg && pOk o.pg && o.size < 4
def AtOp.ok (o : AtOp) : Bool := sOk o.reg && sOk o.sbase && sOk o.sidx && immIn (-32768) 32767 o.imm && o.dist < 1024
def RgOp.ok (o : RgOp) : Bool := sOk o.sbase && sOk o.sidx && immIn (-32768) 32767 o.imm
def CpOp.ok (o : CpOp) : Bool := o.sh < 16 && tOk o.tsrc && tOk o.tdst && sOk o.sbar

def BCount.ok : BCount → Bool
  | .const n => n < 131072
  | .reg n => sOk n

def NmOp.regs (o : NmOp) : Bool := o.nd < 64 && o.na < 64 && o.nb < 64 && o.nc < 64
def NmOp.two (o : NmOp) : Bool := o.regs && o.nc == 0
def NmOp.one (o : NmOp) : Bool := o.regs && o.nb == 0 && o.nc == 0

/-- Index of the highest set bit of a mask from 1 to 255 (12 R233). -/
def highBit (mask : Nat) : Nat := Nat.log2 mask

/-- The selectors of SYSRD (06 R128). -/
def sysrdSel (sel : Nat) : Bool := sel ≤ 8 || (0x10 ≤ sel && sel ≤ 0x1C)

/-- Types of the scalar conversion (05 R92). -/
def ETy.scalarCvt : ETy → Bool
  | .i8 | .n8 | .i16 | .n16 => false
  | _ => true

/-- The instructions that a syllable or microinstruction can encode; every command and event is well formed as
syntax. -/
def Instr.wf : Instr → Bool
  | .nop _ _ g => pOk g
  | .add d a b | .sub d a b | .mul d a b | .mulh d a b | .mulhu d a b | .div d a b | .divu d a b | .rem d a b
  | .remu d a b | .and d a b | .or d a b | .xor d a b | .shl d a b | .shr d a b | .sar d a b | .min d a b
  | .max d a b | .minu d a b | .maxu d a b => sOk d && sOk a && sOk b
  | .sel d a b n => sOk d && sOk a && sOk b && pOk n
  | .addi d a k | .andi d a k | .ori d a k | .xori d a k => sOk d && sOk a && immIn (-2048) 2047 k
  | .shli d a k | .shri d a k | .sari d a k => sOk d && sOk a && k < 64
  | .clz d a | .popc d a => sOk d && sOk a
  | .movj d n => sOk d && n < 6
  | .movp d n => sOk d && pOk n
  | .cmpCc cc p a b => cc.forInt && pOk p && sOk a && sOk b
  | .cmpiCc cc p a k => cc.forInt && pOk p && sOk a && immIn (-2048) 2047 k
  | .li d k => sOk d && immIn (-131072) 131071 k
  | .lih d k => sOk d && k < 262144
  | .fadd _ d a b | .fsub _ d a b | .fmul _ d a b | .ffma _ d a b | .fdiv _ d a b => sOk d && sOk a && sOk b
  | .fsqrt _ d a => sOk d && sOk a
  | .fcmpCc cc _ p a b => cc.forFloat && pOk p && sOk a && sOk b
  | .fcvt t u d a => t.scalarCvt && u.scalarCvt && sOk d && sOk a
  | .br k | .call k => immIn (-8388608) 8388607 k
  | .brc p _ k => pOk p && immIn (-131072) 131071 k
  | .jr a => sOk a
  | .loop nd sa rot e => 1 ≤ nd && nd ≤ 6 && sOk (sa + nd - 1) && e < 16384 && (rot || e == 0)
  | .loopx nd sa _ n0 =>
      1 ≤ nd && nd ≤ 6 && 1 ≤ n0 && n0 < 16384 && (if nd == 1 then sa == 0 else sOk (sa + nd - 2))
  | .vadd o | .vsub o | .vmul o | .vmulh o | .vmac o | .vmin o | .vmax o | .vand o | .vor o | .vxor o | .vshl o
  | .vshr o | .vadds o | .vsubs o | .vavg o => o.ok
  | .vsar o => o.ok && o.ty.isSigned
  | .vabs o => o.regs && o.ty.isSigned
  | .vneg o | .vclz o | .vpopc o => o.regs && o.ty.isInt
  | .vcmpCc o => o.regs && o.ty.isInt && o.cc.forInt
  | .vsel o => vOk o.vd && vOk o.va && vOk o.vb && pOk o.vc && pOk o.pg
  | .vfadd o | .vfsub o | .vfmul o | .vfmin o | .vfmax o | .vfdiv o => o.fbin
  | .vfma o | .vfnma o => o.ty.isFloat && o.tri
  | .vfabs o | .vfneg o | .vfclass o | .vnanpay o | .vnanmk o | .vfsqrt o | .vfrcp o | .vfrsq o | .vfexp2 o
  | .vflog2 o | .vfsinpi o | .vfcospi o => o.regs && o.ty.isFloat
  | .vfcmpCc o => o.regs && o.ty.isFloat && o.cc.forFloat
  | .vmov o => o.regs
  | .vbcast o => vOk o.vd && sOk o.va && pOk o.pg
  | .vext _ d a b k => sOk d && vOk a && sOk b && k < 2048
  | .vins _ d a b k => vOk d && sOk a && sOk b && k < 2048
  | .vperm o => o.bin
  | .vshuf o _ => o.regs
  | .vrot o => vOk o.vd && vOk o.va && sOk o.vb && o.vc == 0 && pOk o.pg
  | .vzip o | .vunzip o => vOk o.vd && vOk o.va && vOk o.vb && o.vc ≤ 1 && pOk o.pg
  | .vslide o => vOk o.vd && vOk o.va && sOk o.vb && vOk o.vc && pOk o.pg
  | .vcvt o => o.ok
  | .vnarrowT o | .vscaleT o =>
      o.ty.isFloat && !o.z && vOk o.vd && vOk o.va && sOk o.vb && tOk o.vc && pOk o.pg
  | .vwidenT o => o.ty.page0 && vOk o.vd && vOk o.va && o.vb == 0 && tOk o.vc && pOk o.pg
  | .vrsum o | .vrmax o | .vrmin o => o.regs && o.ty.isInt && !o.z
  | .vfrsum o | .vfrmax o => o.regs && o.ty.isFloat && !o.z
  | .vrngu o | .vrngn o => o.ty == .f32 && vOk o.vd && sOk o.va && sOk o.vb && sOk o.vc && pOk o.pg
  | .vrngb o => o.ty.page0 && pOk o.vd && sOk o.va && o.vb == 0 && sOk o.vc && pOk o.pg
  | .vdrop o => o.ty.isFloat && vOk o.vd && vOk o.va && sOk o.vb && sOk o.vc && pOk o.pg
  | .mzero a => a < 8
  | .mma o => o.ok
  | .mmau o u => o.ok && 1 ≤ u && u ≤ 4 && o.soffA != 0 && o.soffA != 63
  | .mdrain a t f b k e => a < 8 && tOk t && sOk f && barOk b k && e ≤ 3
  | .mload a t f b k => a < 8 && tOk t && sOk f && barOk b k
  | .mcksum a d | .mstat a d => a < 8 && sOk d
  | .ld o => o.scalar
  | .vld o | .vlds o => o.vector
  | .vgath o => o.vector && 2 ≤ o.size
  | .lsld o => o.vector && o.size == 2 && o.dist == 0
  | .lqpop v r q | .lqpsh v r q => (if v then vOk r else sOk r) && q < 6
  | .pref o | .flush o | .discard o | .rearm o => o.ok
  | .aadd o | .amin o | .amax o | .aand o | .aor o | .axor o | .aswap o | .acas o | .afadd o => o.ok
  | .aaddNr o | .aminNr o | .amaxNr o | .aandNr o | .aorNr o | .axorNr o | .aswapNr o | .afaddNr o =>
      o.ok && o.dist == 0
  | .st o => o.scalar && o.dist == 0
  | .vst o | .vsts o => o.vector && o.dist == 0
  | .vscat o => o.vector && o.dist == 0 && 2 ≤ o.size && o.reg != 1535
  | .lsst o => o.vector && o.dist == 0 && o.size == 2 && o.reg != 1535
  | .copy o | .copyt o | .copy2 o | .copyr o | .gathc o | .copyx o => o.ok
  | .layer n => n < 1024
  | .sysrd d n => sOk d && sysrdSel n
  | .pand d a b | .por d a b | .pxor d a b => pOk d && pOk a && pOk b
  | .pnot d a => pOk d && pOk a
  | .pset d a w => pOk d && sOk a && w ≤ 3
  | .shw _ n a m => n < 16 && 1 ≤ m && m < 256 && sOk a && sOk (a + highBit m)
  | .kShr d _ n k => sOk d && n < 16 && k ≤ 9 && (k < 8 || n == 0)
  | .ttw t a m => tOk t && 1 ≤ m && m < 256 && sOk a && sOk (a + highBit m)
  | .ttr d t k => sOk d && tOk t && k ≤ 7
  | .binit b n | .bexpect b n | .barrive b n => sOk b && n.ok
  | .bwait d b t => sOk d && sOk b && sOk t
  | .btoken d b => sOk d && sOk b
  | .fence b a => 1 ≤ b && b ≤ 3 && 1 ≤ a && a ≤ 3
  | .fencex p q => p ≤ 6 && q ≤ 6 && q != 3
  | .clock d => sOk d
  | .nmrun p b n => sOk p && sOk b && n < 256
  | .coll d b c => sOk d && sOk b && c < 16
  | .steprd d n => sOk d && n ≤ 29
  | .stepwr n a => 1 ≤ n && n ≤ 24 && sOk a
  | .curadv d k a => sOk d && k < 8 && sOk a
  | .seqnext d c => sOk d && c < 16
  | .losschk p a => pOk p && sOk a
  | .pennon n _ => n < 256
  | .hrd d n => d < 16 && n ≤ 0x44
  | .hwr n a => n < 64 && a < 16
  | .hpage d a k => d < 16 && a < 16 && k ≤ 1
  | .hfreeze a => a < 16
  | .trap n => n < 65536
  | .nld d k => d < 64 && k < 8
  | .nst k a => k < 8 && a < 64
  | .nparam d k => d < 64 && k < 32
  | .nadd o | .nsub o | .nmul o | .nmax o | .nmin o => o.two
  | .nfma o | .nsel o => o.regs && !o.i32
  | .ndiv o => o.two && !o.i32
  | .nsqrt o | .nrsq o => o.one && !o.i32
  | .nabs o => o.one
  | .ncmp o cc => o.two && (if o.i32 then cc.forInt else cc.forFloat)
  | .nclamp o => o.regs
  | .ncvt k d a => k < 3 && d < 64 && a < 64
  | .nloop t => t < 1024
  | .ret | .endTask | .stepend | .eret | .nend => true
  | _ => true

end Sys2Proof
end

