-- ==== Sys2Proof/Decode.lean ====
section
/-! DEFINITION. The decoder of headers, syllables and near-memory microinstructions (05 R82 to R100), written from
the opcode maps of R98 and R100 and the formats of R91 to R97, and after it the encoder from the same tables.
A word is a natural number, bit 0 its least significant bit; a 64-bit syllable has its first parcel in [31:0]. -/

namespace Sys2Proof

/-- Why a word is no instruction. `emptyCode`: the map of the slot leaves the code empty (05 R98). `reserved`: a
reserved or unused field is not zero (05 R90). `form`: a field holds a value that the mnemonic does not accept.
`header`: no marker; `headerZero`: a header whose bits [11:0] are not zero (05 R84). -/
inductive DecodeErr where
  | emptyCode
  | reserved
  | form
  | header
  | headerZero
  deriving DecidableEq, Repr

/-- Bits [hi:lo] of a word. -/
def fld (w hi lo : Nat) : Nat := w / 2 ^ lo % 2 ^ (hi + 1 - lo)

/-- The two's-complement value of an n-bit field. -/
def sx (n w : Nat) : Int := if w < 2 ^ (n - 1) then w else (w : Int) - 2 ^ n

/-- The n-bit field of a value. -/
def ux (n : Nat) (k : Int) : Nat := (k % 2 ^ n).toNat

/-- Condition codes (05 R92). -/
def condOf : Nat → Option Cond
  | 0 => some .eq | 1 => some .ne | 2 => some .lt | 3 => some .ge | 4 => some .ltu | 5 => some .geu
  | 6 => some .le | 7 => some .gt | 8 => some .leu | 9 => some .gtu | 10 => some .un | 11 => some .ord
  | _ => none

/-- Type codes of FCVT (05 R92). -/
def scalarTyOf : Nat → Option ETy
  | 0 => some .i64 | 1 => some .n64 | 2 => some .i32 | 3 => some .n32
  | 4 => some .f64 | 5 => some .f32 | 6 => some .f16 | 7 => some .bf16
  | _ => none

/-- The element type of an opcode page and an etype field (02 R37, 05 R93). -/
def etyOf (page et : Nat) : Option ETy :=
  match page, et with
  | 0, 0 => some .i8 | 0, 1 => some .n8 | 0, 2 => some .i16 | 0, 3 => some .n16
  | 0, 4 => some .bf16 | 0, 5 => some .f16 | 0, 6 => some .f32 | 0, 7 => some .f64
  | 1, 0 => some .i32 | 1, 1 => some .n32
  | 2, 0 => some .i64 | 2, 1 => some .n64
  | _, _ => none

/-- The scopes of atomics (11 R220). -/
def scopeOf : Nat → Option Scope
  | 0 => some .gang | 1 => some .die | 2 => some .dev | 3 => some .grp
  | _ => none

/-- Accepts an instruction whose unused fields are zero and whose fields are all in range. -/
def accept (zeros : Bool) (i : Instr) : Except DecodeErr Instr :=
  if !zeros then .error .reserved else if i.wf then .ok i else .error .form

/-- Accepts through a field that has its own table of codes. -/
def acceptVia {α : Type} (x : Option α) (zeros : Bool) (f : α → Instr) : Except DecodeErr Instr :=
  match x with
  | some v => accept zeros (f v)
  | none => .error .form

/-- The S map (05 R91, R98). -/
def decodeS (w : Nat) : Except DecodeErr Instr :=
  let d := fld w 23 18
  let a := fld w 17 12
  let b := fld w 11 6
  let f := fld w 5 0
  let i12 := fld w 11 0
  let imm := sx 12 i12
  match fld w 31 24 with
  | 0x00 => accept (f == 0) (.add d a b)
  | 0x01 => accept (f == 0) (.sub d a b)
  | 0x02 => accept (f == 0) (.mul d a b)
  | 0x03 => accept (f == 0) (.mulh d a b)
  | 0x04 => accept (f == 0) (.mulhu d a b)
  | 0x05 => accept (f == 0) (.div d a b)
  | 0x06 => accept (f == 0) (.divu d a b)
  | 0x07 => accept (f == 0) (.rem d a b)
  | 0x08 => accept (f == 0) (.remu d a b)
  | 0x0C => accept (f == 0) (.shl d a b)
  | 0x0D => accept (f == 0) (.shr d a b)
  | 0x0E => accept (f == 0) (.sar d a b)
  | 0x17 => accept (f == 0) (.min d a b)
  | 0x18 => accept (f == 0) (.max d a b)
  | 0x19 => accept (f == 0) (.minu d a b)
  | 0x1A => accept (f == 0) (.maxu d a b)
  | 0x09 => accept (f == 0) (.and d a b)
  | 0x0A => accept (f == 0) (.or d a b)
  | 0x0B => accept (f == 0) (.xor d a b)
  | 0x0F => accept (f < 32) (.sel d a b f)
  | 0x10 => accept true (.addi d a imm)
  | 0x11 => accept true (.andi d a imm)
  | 0x12 => accept true (.ori d a imm)
  | 0x13 => accept true (.xori d a imm)
  | 0x14 => accept (i12 < 64) (.shli d a i12)
  | 0x15 => accept (i12 < 64) (.shri d a i12)
  | 0x16 => accept (i12 < 64) (.sari d a i12)
  | 0x1B => accept (b == 0 && f == 0) (.clz d a)
  | 0x1C => accept (b == 0 && f == 0) (.popc d a)
  | 0x1D => accept (b == 0 && f == 0) (.movj d a)
  | 0x1E => accept (b == 0 && f == 0) (.movp d a)
  | 0x1F => acceptVia (condOf (fld w 3 0)) (fld w 5 4 == 0) (fun cc => .cmpCc cc d a b)
  | 0x20 => accept true (.cmpiCc .eq d a imm)
  | 0x21 => accept true (.cmpiCc .ne d a imm)
  | 0x22 => accept true (.cmpiCc .lt d a imm)
  | 0x23 => accept true (.cmpiCc .ge d a imm)
  | 0x24 => accept true (.cmpiCc .ltu d a imm)
  | 0x25 => accept true (.cmpiCc .geu d a imm)
  | 0x26 => accept true (.cmpiCc .le d a imm)
  | 0x27 => accept true (.cmpiCc .gt d a imm)
  | 0x28 => accept true (.cmpiCc .leu d a imm)
  | 0x29 => accept true (.cmpiCc .gtu d a imm)
  | 0x2A => accept true (.li d (sx 18 (fld w 17 0)))
  | 0x2B => accept true (.lih d (fld w 17 0))
  | 0x30 => accept (f < 2) (.fadd (f == 1) d a b)
  | 0x31 => accept (f < 2) (.fsub (f == 1) d a b)
  | 0x32 => accept (f < 2) (.fmul (f == 1) d a b)
  | 0x33 => accept (f < 2) (.ffma (f == 1) d a b)
  | 0x34 => accept (f < 2) (.fdiv (f == 1) d a b)
  | 0x35 => accept (b == 0 && f < 2) (.fsqrt (f == 1) d a)
  | 0x36 => acceptVia (condOf (fld w 4 1)) (fld w 5 5 == 0) (fun cc => .fcmpCc cc (fld w 0 0 == 1) d a b)
  | 0x37 => acceptVia (scalarTyOf (fld w 5 3)) (b == 0)
      (fun dst => .fcvt dst ((scalarTyOf (fld w 2 0)).getD .i64) d a)
  | 0x40 => accept true (.br (sx 24 (fld w 23 0)))
  | 0x41 => accept true (.brc (fld w 23 19) (fld w 18 18 == 1) (sx 18 (fld w 17 0)))
  | 0x42 => accept (d == 0 && b == 0 && f == 0) (.jr a)
  | 0x43 => accept true (.call (sx 24 (fld w 23 0)))
  | 0x44 => accept (fld w 23 0 == 0) .ret
  | 0x45 => accept true (.loop (fld w 23 21) (fld w 20 15) (fld w 14 14 == 1) (fld w 13 0))
  | 0x46 => accept true (.loopx (fld w 23 21) (fld w 20 15) (fld w 14 14 == 1) (fld w 13 0))
  | _ => .error .emptyCode

/-- A binary integer syllable (05 R93, 08 R159): with I = 1 the second source is imm11 and vb is zero. -/
def vbinOf (w : Nat) (ty : ETy) (f : VBin → Instr) : Except DecodeErr Instr :=
  let vb := fld w 31 21
  let vc := fld w 20 10
  if fld w 0 0 == 1 then
    accept (vb == 0) (f ⟨ty, fld w 53 43, fld w 42 32, .imm (sx 11 vc), fld w 9 5, fld w 1 1 == 1⟩)
  else
    accept (vc == 0) (f ⟨ty, fld w 53 43, fld w 42 32, .reg vb, fld w 9 5, fld w 1 1 == 1⟩)

/-- A unary syllable: vb, vc and mod [0] are zero. -/
def vunOf (w : Nat) (ty : ETy) (f : VUn → Instr) : Except DecodeErr Instr :=
  accept (fld w 31 10 == 0 && fld w 0 0 == 0) (f ⟨ty, fld w 53 43, fld w 42 32, fld w 9 5, fld w 1 1 == 1⟩)

/-- A syllable with three register fields: mod [0] is zero. -/
def vterOf (w : Nat) (ty : ETy) (f : VTer → Instr) : Except DecodeErr Instr :=
  accept (fld w 0 0 == 0)
    (f ⟨ty, fld w 53 43, fld w 42 32, fld w 31 21, fld w 20 10, fld w 9 5, fld w 1 1 == 1⟩)

/-- A compare: vc [13:10] is the condition and vc [20:14] is zero (08 R165). -/
def vcmpOf (w : Nat) (ty : ETy) (f : VCmp → Instr) : Except DecodeErr Instr :=
  acceptVia (condOf (fld w 13 10)) (fld w 20 14 == 0 && fld w 0 0 == 0)
    (fun cc => f ⟨ty, cc, fld w 53 43, fld w 42 32, fld w 31 21, fld w 9 5, fld w 1 1 == 1⟩)

/-- VCVT's source type: vb [25:24] the page, vb [23:21] the etype (09 R174). -/
def vcvtOf (w : Nat) (ty : ETy) : Except DecodeErr Instr :=
  acceptVia (etyOf (fld w 25 24) (fld w 23 21)) (fld w 31 26 == 0 && fld w 20 14 == 0 && fld w 0 0 == 0)
    (fun src => .vcvt ⟨ty, src, fld w 53 43, fld w 42 32, fld w 12 10, fld w 13 13 == 1, fld w 9 5, fld w 1 1 == 1⟩)

/-- The vector map (05 R93, R98). The codes of pages 1 and 2 are those of page 0 whose instructions accept the
types of these pages. -/
def decodeV (w : Nat) : Except DecodeErr Instr :=
  match etyOf (fld w 63 62) (fld w 4 2) with
  | none => .error .form
  | some ty =>
    match fld w 61 54 with
    | 0x00 => vbinOf w ty .vadd
    | 0x01 => vbinOf w ty .vsub
    | 0x02 => vbinOf w ty .vmul
    | 0x03 => vbinOf w ty .vmulh
    | 0x04 => vbinOf w ty .vmac
    | 0x07 => vbinOf w ty .vmin
    | 0x08 => vbinOf w ty .vmax
    | 0x09 => vbinOf w ty .vand
    | 0x0A => vbinOf w ty .vor
    | 0x0B => vbinOf w ty .vxor
    | 0x0C => vbinOf w ty .vshl
    | 0x0D => vbinOf w ty .vshr
    | 0x0E => vbinOf w ty .vsar
    | 0x0F => vbinOf w ty .vadds
    | 0x10 => vbinOf w ty .vsubs
    | 0x11 => vbinOf w ty .vavg
    | 0x05 => vunOf w ty .vabs
    | 0x06 => vunOf w ty .vneg
    | 0x12 => vunOf w ty .vclz
    | 0x13 => vunOf w ty .vpopc
    | 0x27 => vunOf w ty .vfabs
    | 0x28 => vunOf w ty .vfneg
    | 0x29 => vunOf w ty .vfclass
    | 0x30 => vunOf w ty .vmov
    | 0x31 => vunOf w ty .vbcast
    | 0x41 => vunOf w ty .vnanpay
    | 0x42 => vunOf w ty .vnanmk
    | 0x51 => vunOf w ty .vfsqrt
    | 0x52 => vunOf w ty .vfrcp
    | 0x53 => vunOf w ty .vfrsq
    | 0x54 => vunOf w ty .vfexp2
    | 0x55 => vunOf w ty .vflog2
    | 0x56 => vunOf w ty .vfsinpi
    | 0x57 => vunOf w ty .vfcospi
    | 0x60 => vunOf w ty .vrsum
    | 0x61 => vunOf w ty .vrmax
    | 0x62 => vunOf w ty .vrmin
    | 0x63 => vunOf w ty .vfrsum
    | 0x64 => vunOf w ty .vfrmax
    | 0x15 => vterOf w ty .vsel
    | 0x20 => vterOf w ty .vfadd
    | 0x21 => vterOf w ty .vfsub
    | 0x22 => vterOf w ty .vfmul
    | 0x23 => vterOf w ty .vfma
    | 0x24 => vterOf w ty .vfnma
    | 0x25 => vterOf w ty .vfmin
    | 0x26 => vterOf w ty .vfmax
    | 0x34 => vterOf w ty .vperm
    | 0x36 => vterOf w ty .vrot
    | 0x37 => vterOf w ty .vzip
    | 0x38 => vterOf w ty .vunzip
    | 0x39 => vterOf w ty .vslide
    | 0x48 => vterOf w ty .vnarrowT
    | 0x49 => vterOf w ty .vwidenT
    | 0x4A => vterOf w ty .vscaleT
    | 0x50 => vterOf w ty .vfdiv
    | 0x70 => vterOf w ty .vrngu
    | 0x71 => vterOf w ty .vrngn
    | 0x72 => vterOf w ty .vrngb
    | 0x73 => vterOf w ty .vdrop
    | 0x14 => vcmpOf w ty .vcmpCc
    | 0x2A => vcmpOf w ty .vfcmpCc
    | 0x32 => accept (fld w 9 5 == 0 && fld w 1 0 == 0) (.vext ty (fld w 53 43) (fld w 42 32) (fld w 31 21) (fld w 20 10))
    | 0x33 => accept (fld w 9 5 == 0 && fld w 1 0 == 0) (.vins ty (fld w 53 43) (fld w 42 32) (fld w 31 21) (fld w 20 10))
    | 0x35 => accept (fld w 31 21 == 0 && fld w 20 18 == 0 && fld w 0 0 == 0)
        (.vshuf ⟨ty, fld w 53 43, fld w 42 32, fld w 9 5, fld w 1 1 == 1⟩ (BitVec.ofNat 8 (fld w 17 10)))
    | 0x40 => vcvtOf w ty
    | _ => .error .emptyCode

/-- The fields of a product (05 R94). -/
def mmaOf (w : Nat) : MmaOp :=
  ⟨fld w 55 53, fld w 52 45, fld w 44 37, fld w 36 33, fld w 32 27, fld w 26 21, fld w 20 15, fld w 14 9,
    fld w 8 8 == 1, fld w 7 7 == 1⟩

/-- The MX map (05 R94, R98; 10 R198). -/
def decodeMX (w : Nat) : Except DecodeErr Instr :=
  let acc := fld w 55 53
  let tA := fld w 52 45
  let tB := fld w 44 37
  match fld w 63 56 with
  | 0x00 => accept (fld w 52 0 == 0) (.mzero acc)
  | 0x01 => accept (fld w 6 0 == 0) (.mma (mmaOf w))
  | 0x02 => accept (fld w 3 0 == 0) (.mmau (mmaOf w) (fld w 6 4))
  | 0x03 => accept (tA == 0 && fld w 36 33 == 0 && fld w 20 15 == 0 && fld w 8 4 == 0)
      (.mdrain acc tB (fld w 14 9) (fld w 32 27) (fld w 26 21) (fld w 3 0))
  | 0x04 => accept (tB == 0 && fld w 36 33 == 0 && fld w 14 0 == 0)
      (.mload acc tA (fld w 20 15) (fld w 32 27) (fld w 26 21))
  | 0x05 => accept (fld w 44 0 == 0) (.mcksum acc tA)
  | 0x06 => accept (fld w 44 0 == 0) (.mstat acc tA)
  | _ => .error .emptyCode

/-- The fields of a load or store (05 R95). -/
def lsOf (w : Nat) : LsOp :=
  ⟨fld w 55 45, fld w 44 39, fld w 38 33, sx 16 (fld w 32 17), fld w 16 7, fld w 6 2, fld w 1 0⟩

/-- The fields of an atomic (05 R95, 11 R225): pg is zero and [1:0] is the scope. -/
def atOf (w : Nat) (f : AtOp → Instr) : Except DecodeErr Instr :=
  acceptVia (scopeOf (fld w 1 0)) (fld w 6 2 == 0)
    (fun sc => f ⟨fld w 55 45, fld w 44 39, fld w 38 33, sx 16 (fld w 32 17), fld w 16 7, sc⟩)

/-- The fields of PREF, FLUSH, DISCARD and REARM (11 R219): reg, landing, pg and [1:0] are zero. -/
def rgOf (w : Nat) (f : RgOp → Instr) : Except DecodeErr Instr :=
  accept (fld w 55 45 == 0 && fld w 16 0 == 0) (f ⟨fld w 44 39, fld w 38 33, sx 16 (fld w 32 17)⟩)

/-- The fields of LQPOP and LQPSH (05 R95): the queue in sbase [41:39]. -/
def lqOf (w : Nat) (f : Bool → Nat → Nat → Instr) : Except DecodeErr Instr :=
  accept (fld w 44 42 == 0 && fld w 38 2 == 0 && fld w 1 0 < 2) (f (fld w 1 0 == 1) (fld w 55 45) (fld w 41 39))

/-- The LD map (05 R95, R98; 11 R219). -/
def decodeLD (w : Nat) : Except DecodeErr Instr :=
  match fld w 63 56 with
  | 0x00 => accept true (.ld (lsOf w))
  | 0x01 => accept true (.vld (lsOf w))
  | 0x02 => accept true (.vlds (lsOf w))
  | 0x03 => accept true (.vgath (lsOf w))
  | 0x04 => accept true (.lsld (lsOf w))
  | 0x05 => lqOf w .lqpop
  | 0x08 => rgOf w .pref
  | 0x10 => atOf w .aadd
  | 0x11 => atOf w .amin
  | 0x12 => atOf w .amax
  | 0x13 => atOf w .aand
  | 0x14 => atOf w .aor
  | 0x15 => atOf w .axor
  | 0x16 => atOf w .aswap
  | 0x17 => atOf w .acas
  | 0x18 => atOf w .afadd
  | 0x20 => atOf w .aaddNr
  | 0x21 => atOf w .aminNr
  | 0x22 => atOf w .amaxNr
  | 0x23 => atOf w .aandNr
  | 0x24 => atOf w .aorNr
  | 0x25 => atOf w .axorNr
  | 0x26 => atOf w .aswapNr
  | 0x28 => atOf w .afaddNr
  | _ => .error .emptyCode

/-- The ST map (05 R95, R98; 11 R219). -/
def decodeST (w : Nat) : Except DecodeErr Instr :=
  match fld w 63 56 with
  | 0x00 => accept true (.st (lsOf w))
  | 0x01 => accept true (.vst (lsOf w))
  | 0x02 => accept true (.vsts (lsOf w))
  | 0x03 => accept true (.vscat (lsOf w))
  | 0x04 => accept true (.lsst (lsOf w))
  | 0x05 => lqOf w .lqpsh
  | 0x08 => rgOf w .flush
  | 0x09 => rgOf w .discard
  | 0x0A => rgOf w .rearm
  | _ => .error .emptyCode

/-- The copy map (05 R96, R98); the slot selects the engine. -/
def decodeC (eng : Eng) (w : Nat) : Except DecodeErr Instr :=
  let o : CpOp := ⟨eng, fld w 25 22, fld w 21 14, fld w 13 6, fld w 5 0⟩
  match fld w 31 26 with
  | 0x00 => accept true (.copy o)
  | 0x01 => accept true (.copyt o)
  | 0x02 => accept true (.copy2 o)
  | 0x03 => accept true (.copyr o)
  | 0x04 => accept true (.gathc o)
  | 0x05 => accept true (.copyx o)
  | _ => .error .emptyCode

/-- Engine bit of SHW and SHR (12 R233). -/
def engOf (n : Nat) : Eng := if n == 1 then .b else .a

/-- The count field of BINIT, BEXPECT and BARRIVE (15 R299). -/
def bcountOf (w : Nat) (f : BCount → Instr) : Except DecodeErr Instr :=
  if fld w 17 17 == 1 then accept (fld w 16 6 == 0) (f (.reg (fld w 5 0))) else accept true (f (.const (fld w 16 0)))

/-- The K map (05 R97, R98), with the fields of 06 R127 to R130, 12 R233, 15 R298, 16 R320, 17 R340, 18 R355 and
20 R379. -/
def decodeK (w : Nat) : Except DecodeErr Instr :=
  let a := fld w 23 18
  let b := fld w 17 12
  let c := fld w 11 6
  let z := fld w 5 0 == 0
  let x := fld w 23 16
  let y := fld w 15 8
  let t := fld w 7 0
  match fld w 31 24 with
  | 0x00 => accept (fld w 23 0 == 0) .endTask
  | 0x01 => accept (fld w 23 10 == 0) (.layer (fld w 9 0))
  | 0x02 => accept (t == 0) (.sysrd x y)
  | 0x03 => accept z (.pand a b c)
  | 0x04 => accept z (.por a b c)
  | 0x05 => accept z (.pxor a b c)
  | 0x06 => accept (z && c == 0) (.pnot a b)
  | 0x07 => accept z (.pset a b c)
  | 0x10 => accept (fld w 23 21 == 0) (.shw (engOf (fld w 20 20)) (fld w 19 16) y t)
  | 0x11 => accept (fld w 15 13 == 0) (.kShr x (engOf (fld w 12 12)) (fld w 11 8) t)
  | 0x12 => accept true (.ttw x y t)
  | 0x13 => accept true (.ttr x y t)
  | 0x20 => bcountOf w (.binit a)
  | 0x21 => bcountOf w (.bexpect a)
  | 0x22 => bcountOf w (.barrive a)
  | 0x23 => accept z (.bwait a b c)
  | 0x24 => accept (z && c == 0) (.btoken a b)
  | 0x25 => accept (z && c == 0) (.fence a b)
  | 0x26 => accept (z && c == 0) (.fencex a b)
  | 0x27 => accept (fld w 17 0 == 0) (.clock a)
  | 0x30 => accept true (.nmrun x y t)
  | 0x31 => accept true (.coll x y t)
  | 0x40 => accept (z && c == 0) (.steprd a b)
  | 0x41 => accept (z && c == 0) (.stepwr a b)
  | 0x42 => accept z (.curadv a b c)
  | 0x43 => accept (z && c == 0) (.seqnext a b)
  | 0x44 => accept (z && c == 0) (.losschk a b)
  | 0x45 => accept (fld w 23 9 == 0) (.pennon (fld w 7 0) (fld w 8 8 == 1))
  | 0x46 => accept (fld w 23 0 == 0) .stepend
  | 0xF0 => accept (t == 0) (.hrd x y)
  | 0xF1 => accept (t == 0) (.hwr x y)
  | 0xF2 => accept true (.hpage x y t)
  | 0xF3 => accept (fld w 15 0 == 0) (.hfreeze x)
  | 0xF4 => accept (fld w 23 0 == 0) .eret
  | 0xF5 => accept (fld w 23 16 == 0) (.trap (fld w 15 0))
  | _ => .error .emptyCode

/-- Fields of a microinstruction whose type is 0 or 1 (16 R314). -/
def nmOf (w : Nat) (f : NmOp → Instr) : Except DecodeErr Instr :=
  accept (fld w 31 30 == 0 && fld w 28 0 == 0)
    (f ⟨fld w 55 50, fld w 49 44, fld w 43 38, fld w 37 32, fld w 29 29 == 1⟩)

/-- The near-memory map (05 R100, 16 R314, R315). -/
def decodeNM (w : Nat) : Except DecodeErr Instr :=
  let nd := fld w 55 50
  let na := fld w 49 44
  match fld w 63 56 with
  | 0x00 => accept (fld w 49 3 == 0) (.nld nd (fld w 2 0))
  | 0x01 => accept (nd == 0 && fld w 43 3 == 0) (.nst (fld w 2 0) na)
  | 0x02 => accept (fld w 49 5 == 0) (.nparam nd (fld w 4 0))
  | 0x10 => nmOf w .nadd
  | 0x11 => nmOf w .nsub
  | 0x12 => nmOf w .nmul
  | 0x13 => nmOf w .nfma
  | 0x14 => nmOf w .ndiv
  | 0x15 => nmOf w .nsqrt
  | 0x16 => nmOf w .nrsq
  | 0x17 => nmOf w .nmax
  | 0x18 => nmOf w .nmin
  | 0x19 => nmOf w .nabs
  | 0x1A => acceptVia (condOf (fld w 3 0)) (fld w 31 30 == 0 && fld w 28 4 == 0)
      (fun cc => .ncmp ⟨nd, na, fld w 43 38, fld w 37 32, fld w 29 29 == 1⟩ cc)
  | 0x1B => nmOf w .nsel
  | 0x1C => nmOf w .nclamp
  | 0x1D => accept (fld w 43 32 == 0 && fld w 28 0 == 0) (.ncvt (fld w 31 29) nd na)
  | 0x20 => accept (fld w 55 10 == 0) (.nloop (fld w 9 0))
  | 0x21 => accept (fld w 55 0 == 0) .nend
  | _ => .error .emptyCode

/-- The header of a bundle (05 R82). -/
structure Header where
  slots : List Slot
  sp : Bool
  le : Bool
  guard : Nat
  deriving DecidableEq, Repr

/-- Parcels of a slot's syllable (05 R83). -/
def slotParcels : Slot → Nat
  | .s | .ca | .cb | .k => 1
  | .va | .vb | .mx | .ld | .st => 2

/-- The slots of a mask, [27] S down to [19] K (05 R82, R83). -/
def slotsOf (w : Nat) : List Slot :=
  (if fld w 27 27 == 1 then [Slot.s] else []) ++ (if fld w 26 26 == 1 then [Slot.va] else []) ++
  (if fld w 25 25 == 1 then [Slot.vb] else []) ++ (if fld w 24 24 == 1 then [Slot.mx] else []) ++
  (if fld w 23 23 == 1 then [Slot.ld] else []) ++ (if fld w 22 22 == 1 then [Slot.st] else []) ++
  (if fld w 21 21 == 1 then [Slot.ca] else []) ++ (if fld w 20 20 == 1 then [Slot.cb] else []) ++
  (if fld w 19 19 == 1 then [Slot.k] else [])

/-- Whether a parcel carries the marker (05 R82). -/
def hasMarker (w : Nat) : Bool := fld w 31 28 == 0xD

/-- A header parcel (05 R82, R84). -/
def decodeHeader (w : Nat) : Except DecodeErr Header :=
  if !hasMarker w then .error .header
  else if fld w 11 0 != 0 then .error .headerZero
  else .ok ⟨slotsOf w, fld w 18 18 == 1, fld w 17 17 == 1, fld w 16 12⟩

/-- Parcels of a bundle after its header (05 R83). -/
def Header.parcels (h : Header) : Nat := (h.slots.map slotParcels).foldl (· + ·) 0

/-- Bundle length in bytes (05 R83). -/
def Header.bytes (h : Header) : Nat := 4 + 4 * h.parcels

/-- The syllable of a slot (05 R98). -/
def decodeSyl (sl : Slot) (w : Nat) : Except DecodeErr Instr :=
  match sl with
  | .s => decodeS w
  | .va | .vb => decodeV w
  | .mx => decodeMX w
  | .ld => decodeLD w
  | .st => decodeST w
  | .ca => decodeC .a w
  | .cb => decodeC .b w
  | .k => decodeK w

/-- The syllables of a bundle, with their slots, from the parcels that follow the header (05 R83). -/
def sylWords : List Slot → List Nat → List (Slot × Nat)
  | [], _ => []
  | sl :: rest, ps =>
    match slotParcels sl, ps with
    | 1, p :: q => (sl, p) :: sylWords rest q
    | 2, p :: q :: r => (sl, p + 2 ^ 32 * q) :: sylWords rest r
    | _, _ => []

/-- A bundle's syllables; a word that its slot's map rejects is the step ILL_INSTR (05 R98). -/
def sylInstr (sl : Slot) (w : Nat) : Instr :=
  match decodeSyl sl w with
  | .ok i => i
  | .error _ => .illInstr sl (BitVec.ofNat 64 w)

/-- The parcels of a list of bytes, each little-endian (00 R4). -/
def parcelsOf : Nat → Nat → List Nat
  | 0, _ => []
  | n + 1, w => w % 2 ^ 32 :: parcelsOf n (w / 2 ^ 32)

/-- What the decoder reads from a bundle whose bits are w: the empty bundle, or the one syllable it holds. The
table's only row with bits is the empty bundle (05 R84). -/
def decodeTableWord (nbits w : Nat) : Option Instr :=
  let v := w % 2 ^ nbits
  match parcelsOf 3 v with
  | h :: ps =>
    match decodeHeader h with
    | .error _ => none
    | .ok hd =>
      match sylWords hd.slots ps with
      | [] => if hd.slots.isEmpty then some (.nop hd.sp hd.le hd.guard) else none
      | [(sl, x)] => match decodeSyl sl x with
        | .ok i => if hd.slots.length == 1 then some i else none
        | .error _ => none
      | _ => none
  | [] => none

/-! The encoder, from the same tables. -/

/-- The code of a condition (05 R92). -/
def condCode : Cond → Nat
  | .eq => 0 | .ne => 1 | .lt => 2 | .ge => 3 | .ltu => 4 | .geu => 5
  | .le => 6 | .gt => 7 | .leu => 8 | .gtu => 9 | .un => 10 | .ord => 11

/-- The code of a scalar type (05 R92); the types that FCVT does not name have no code and give 0. -/
def scalarTyCode : ETy → Nat
  | .i64 => 0 | .n64 => 1 | .i32 => 2 | .n32 => 3 | .f64 => 4 | .f32 => 5 | .f16 => 6 | .bf16 => 7
  | .i8 | .n8 | .i16 | .n16 => 0

/-- Page and etype of an element type (02 R37, 05 R93). -/
def etyPage : ETy → Nat
  | .i8 | .n8 | .i16 | .n16 | .bf16 | .f16 | .f32 | .f64 => 0
  | .i32 | .n32 => 1
  | .i64 | .n64 => 2

def etyCode : ETy → Nat
  | .i8 => 0 | .n8 => 1 | .i16 => 2 | .n16 => 3 | .bf16 => 4 | .f16 => 5 | .f32 => 6 | .f64 => 7
  | .i32 => 0 | .n32 => 1 | .i64 => 0 | .n64 => 1

def scopeCode : Scope → Nat
  | .gang => 0 | .die => 1 | .dev => 2 | .grp => 3

def engCode : Eng → Nat
  | .a => 0
  | .b => 1

def bit (b : Bool) : Nat := if b then 1 else 0

/-- Format SR (05 R91). -/
def encSR (op d a b f : Nat) : Nat := op * 2 ^ 24 + d * 2 ^ 18 + a * 2 ^ 12 + b * 2 ^ 6 + f

/-- Format SI (05 R91). -/
def encSI (op d a i : Nat) : Nat := op * 2 ^ 24 + d * 2 ^ 18 + a * 2 ^ 12 + i

/-- An S syllable (05 R91). -/
def encodeS : Instr → Option Nat
  | .add d a b => some (encSR 0x00 d a b 0)
  | .sub d a b => some (encSR 0x01 d a b 0)
  | .mul d a b => some (encSR 0x02 d a b 0)
  | .mulh d a b => some (encSR 0x03 d a b 0)
  | .mulhu d a b => some (encSR 0x04 d a b 0)
  | .div d a b => some (encSR 0x05 d a b 0)
  | .divu d a b => some (encSR 0x06 d a b 0)
  | .rem d a b => some (encSR 0x07 d a b 0)
  | .remu d a b => some (encSR 0x08 d a b 0)
  | .shl d a b => some (encSR 0x0C d a b 0)
  | .shr d a b => some (encSR 0x0D d a b 0)
  | .sar d a b => some (encSR 0x0E d a b 0)
  | .min d a b => some (encSR 0x17 d a b 0)
  | .max d a b => some (encSR 0x18 d a b 0)
  | .minu d a b => some (encSR 0x19 d a b 0)
  | .maxu d a b => some (encSR 0x1A d a b 0)
  | .and d a b => some (encSR 0x09 d a b 0)
  | .or d a b => some (encSR 0x0A d a b 0)
  | .xor d a b => some (encSR 0x0B d a b 0)
  | .sel d a b n => some (encSR 0x0F d a b n)
  | .addi d a k => some (encSI 0x10 d a (ux 12 k))
  | .andi d a k => some (encSI 0x11 d a (ux 12 k))
  | .ori d a k => some (encSI 0x12 d a (ux 12 k))
  | .xori d a k => some (encSI 0x13 d a (ux 12 k))
  | .shli d a k => some (encSI 0x14 d a k)
  | .shri d a k => some (encSI 0x15 d a k)
  | .sari d a k => some (encSI 0x16 d a k)
  | .clz d a => some (encSR 0x1B d a 0 0)
  | .popc d a => some (encSR 0x1C d a 0 0)
  | .movj d n => some (encSR 0x1D d n 0 0)
  | .movp d n => some (encSR 0x1E d n 0 0)
  | .cmpCc cc p a b => some (encSR 0x1F p a b (condCode cc))
  | .cmpiCc cc p a k => some (encSI (0x20 + condCode cc) p a (ux 12 k))
  | .li d k => some (0x2A * 2 ^ 24 + d * 2 ^ 18 + ux 18 k)
  | .lih d k => some (0x2B * 2 ^ 24 + d * 2 ^ 18 + k)
  | .fadd f d a b => some (encSR 0x30 d a b (bit f))
  | .fsub f d a b => some (encSR 0x31 d a b (bit f))
  | .fmul f d a b => some (encSR 0x32 d a b (bit f))
  | .ffma f d a b => some (encSR 0x33 d a b (bit f))
  | .fdiv f d a b => some (encSR 0x34 d a b (bit f))
  | .fsqrt f d a => some (encSR 0x35 d a 0 (bit f))
  | .fcmpCc cc f p a b => some (encSR 0x36 p a b (condCode cc * 2 + bit f))
  | .fcvt t u d a => some (encSR 0x37 d a 0 (scalarTyCode t * 8 + scalarTyCode u))
  | .br k => some (0x40 * 2 ^ 24 + ux 24 k)
  | .brc p n k => some (0x41 * 2 ^ 24 + p * 2 ^ 19 + bit n * 2 ^ 18 + ux 18 k)
  | .jr a => some (encSR 0x42 0 a 0 0)
  | .call k => some (0x43 * 2 ^ 24 + ux 24 k)
  | .ret => some (0x44 * 2 ^ 24)
  | .loop nd a r e => some (0x45 * 2 ^ 24 + nd * 2 ^ 21 + a * 2 ^ 15 + bit r * 2 ^ 14 + e)
  | .loopx nd a r n => some (0x46 * 2 ^ 24 + nd * 2 ^ 21 + a * 2 ^ 15 + bit r * 2 ^ 14 + n)
  | _ => none

/-- A vector syllable (05 R93): the opcode is the page-0 code plus 0x100 for each page. -/
def encV (code : Nat) (ty : ETy) (vd va vb vc pg mod : Nat) : Nat :=
  (etyPage ty * 256 + code) * 2 ^ 54 + vd * 2 ^ 43 + va * 2 ^ 32 + vb * 2 ^ 21 + vc * 2 ^ 10 + pg * 2 ^ 5 +
    etyCode ty * 4 + mod

def encBin (code : Nat) (o : VBin) : Nat :=
  match o.b with
  | .reg n => encV code o.ty o.vd o.va n 0 o.pg (bit o.z * 2)
  | .imm k => encV code o.ty o.vd o.va 0 (ux 11 k) o.pg (bit o.z * 2 + 1)

def encUn (code : Nat) (o : VUn) : Nat := encV code o.ty o.vd o.va 0 0 o.pg (bit o.z * 2)

def encTer (code : Nat) (o : VTer) : Nat := encV code o.ty o.vd o.va o.vb o.vc o.pg (bit o.z * 2)

def encCmp (code : Nat) (o : VCmp) : Nat := encV code o.ty o.pd o.va o.vb (condCode o.cc) o.pg (bit o.z * 2)

/-- A VA or VB syllable (05 R93). -/
def encodeV : Instr → Option Nat
  | .vadd o => some (encBin 0x00 o)
  | .vsub o => some (encBin 0x01 o)
  | .vmul o => some (encBin 0x02 o)
  | .vmulh o => some (encBin 0x03 o)
  | .vmac o => some (encBin 0x04 o)
  | .vmin o => some (encBin 0x07 o)
  | .vmax o => some (encBin 0x08 o)
  | .vand o => some (encBin 0x09 o)
  | .vor o => some (encBin 0x0A o)
  | .vxor o => some (encBin 0x0B o)
  | .vshl o => some (encBin 0x0C o)
  | .vshr o => some (encBin 0x0D o)
  | .vsar o => some (encBin 0x0E o)
  | .vadds o => some (encBin 0x0F o)
  | .vsubs o => some (encBin 0x10 o)
  | .vavg o => some (encBin 0x11 o)
  | .vabs o => some (encUn 0x05 o)
  | .vneg o => some (encUn 0x06 o)
  | .vclz o => some (encUn 0x12 o)
  | .vpopc o => some (encUn 0x13 o)
  | .vfabs o => some (encUn 0x27 o)
  | .vfneg o => some (encUn 0x28 o)
  | .vfclass o => some (encUn 0x29 o)
  | .vmov o => some (encUn 0x30 o)
  | .vbcast o => some (encUn 0x31 o)
  | .vnanpay o => some (encUn 0x41 o)
  | .vnanmk o => some (encUn 0x42 o)
  | .vfsqrt o => some (encUn 0x51 o)
  | .vfrcp o => some (encUn 0x52 o)
  | .vfrsq o => some (encUn 0x53 o)
  | .vfexp2 o => some (encUn 0x54 o)
  | .vflog2 o => some (encUn 0x55 o)
  | .vfsinpi o => some (encUn 0x56 o)
  | .vfcospi o => some (encUn 0x57 o)
  | .vrsum o => some (encUn 0x60 o)
  | .vrmax o => some (encUn 0x61 o)
  | .vrmin o => some (encUn 0x62 o)
  | .vfrsum o => some (encUn 0x63 o)
  | .vfrmax o => some (encUn 0x64 o)
  | .vsel o => some (encTer 0x15 o)
  | .vfadd o => some (encTer 0x20 o)
  | .vfsub o => some (encTer 0x21 o)
  | .vfmul o => some (encTer 0x22 o)
  | .vfma o => some (encTer 0x23 o)
  | .vfnma o => some (encTer 0x24 o)
  | .vfmin o => some (encTer 0x25 o)
  | .vfmax o => some (encTer 0x26 o)
  | .vperm o => some (encTer 0x34 o)
  | .vrot o => some (encTer 0x36 o)
  | .vzip o => some (encTer 0x37 o)
  | .vunzip o => some (encTer 0x38 o)
  | .vslide o => some (encTer 0x39 o)
  | .vnarrowT o => some (encTer 0x48 o)
  | .vwidenT o => some (encTer 0x49 o)
  | .vscaleT o => some (encTer 0x4A o)
  | .vfdiv o => some (encTer 0x50 o)
  | .vrngu o => some (encTer 0x70 o)
  | .vrngn o => some (encTer 0x71 o)
  | .vrngb o => some (encTer 0x72 o)
  | .vdrop o => some (encTer 0x73 o)
  | .vcmpCc o => some (encCmp 0x14 o)
  | .vfcmpCc o => some (encCmp 0x2A o)
  | .vext ty d a b k => some (encV 0x32 ty d a b k 0 0)
  | .vins ty d a b k => some (encV 0x33 ty d a b k 0 0)
  | .vshuf o p => some (encV 0x35 o.ty o.vd o.va 0 p.toNat o.pg (bit o.z * 2))
  | .vcvt o => some (encV 0x40 o.dst o.vd o.va (etyPage o.src * 8 + etyCode o.src) (o.q + bit o.rtz * 8) o.pg
      (bit o.z * 2))
  | _ => none

/-- A matrix syllable (05 R94). -/
def encMX (op acc tA tB kn sbar stok soffA soffB z c u e : Nat) : Nat :=
  op * 2 ^ 56 + acc * 2 ^ 53 + tA * 2 ^ 45 + tB * 2 ^ 37 + kn * 2 ^ 33 + sbar * 2 ^ 27 + stok * 2 ^ 21 +
    soffA * 2 ^ 15 + soffB * 2 ^ 9 + z * 2 ^ 8 + c * 2 ^ 7 + u * 2 ^ 4 + e

def encMma (op : Nat) (o : MmaOp) (u : Nat) : Nat :=
  encMX op o.acc o.tA o.tB o.kn o.sbar o.stok o.soffA o.soffB (bit o.z) (bit o.c) u 0

/-- An MX syllable (05 R94, 10 R198). -/
def encodeMX : Instr → Option Nat
  | .mzero a => some (encMX 0x00 a 0 0 0 0 0 0 0 0 0 0 0)
  | .mma o => some (encMma 0x01 o 0)
  | .mmau o u => some (encMma 0x02 o u)
  | .mdrain a t f b k e => some (encMX 0x03 a 0 t 0 b k 0 f 0 0 0 e)
  | .mload a t f b k => some (encMX 0x04 a t 0 0 b k f 0 0 0 0 0)
  | .mcksum a d => some (encMX 0x05 a d 0 0 0 0 0 0 0 0 0 0)
  | .mstat a d => some (encMX 0x06 a d 0 0 0 0 0 0 0 0 0 0)
  | _ => none

/-- A load or store syllable (05 R95). -/
def encLS (op reg sbase sidx imm dist pg size : Nat) : Nat :=
  op * 2 ^ 56 + reg * 2 ^ 45 + sbase * 2 ^ 39 + sidx * 2 ^ 33 + imm * 2 ^ 17 + dist * 2 ^ 7 + pg * 2 ^ 2 + size

def encLs (op : Nat) (o : LsOp) : Nat := encLS op o.reg o.sbase o.sidx (ux 16 o.imm) o.dist o.pg o.size
def encAt (op : Nat) (o : AtOp) : Nat := encLS op o.reg o.sbase o.sidx (ux 16 o.imm) o.dist 0 (scopeCode o.scope)
def encRg (op : Nat) (o : RgOp) : Nat := encLS op 0 o.sbase o.sidx (ux 16 o.imm) 0 0 0
def encLq (v : Bool) (r q : Nat) : Nat := encLS 0x05 r q 0 0 0 0 (bit v)

/-- An LD syllable (05 R95). -/
def encodeLD : Instr → Option Nat
  | .ld o => some (encLs 0x00 o)
  | .vld o => some (encLs 0x01 o)
  | .vlds o => some (encLs 0x02 o)
  | .vgath o => some (encLs 0x03 o)
  | .lsld o => some (encLs 0x04 o)
  | .lqpop v r q => some (encLq v r q)
  | .pref o => some (encRg 0x08 o)
  | .aadd o => some (encAt 0x10 o)
  | .amin o => some (encAt 0x11 o)
  | .amax o => some (encAt 0x12 o)
  | .aand o => some (encAt 0x13 o)
  | .aor o => some (encAt 0x14 o)
  | .axor o => some (encAt 0x15 o)
  | .aswap o => some (encAt 0x16 o)
  | .acas o => some (encAt 0x17 o)
  | .afadd o => some (encAt 0x18 o)
  | .aaddNr o => some (encAt 0x20 o)
  | .aminNr o => some (encAt 0x21 o)
  | .amaxNr o => some (encAt 0x22 o)
  | .aandNr o => some (encAt 0x23 o)
  | .aorNr o => some (encAt 0x24 o)
  | .axorNr o => some (encAt 0x25 o)
  | .aswapNr o => some (encAt 0x26 o)
  | .afaddNr o => some (encAt 0x28 o)
  | _ => none

/-- An ST syllable (05 R95). -/
def encodeST : Instr → Option Nat
  | .st o => some (encLs 0x00 o)
  | .vst o => some (encLs 0x01 o)
  | .vsts o => some (encLs 0x02 o)
  | .vscat o => some (encLs 0x03 o)
  | .lsst o => some (encLs 0x04 o)
  | .lqpsh v r q => some (encLq v r q)
  | .flush o => some (encRg 0x08 o)
  | .discard o => some (encRg 0x09 o)
  | .rearm o => some (encRg 0x0A o)
  | _ => none

def encCp (op : Nat) (o : CpOp) : Nat := op * 2 ^ 26 + o.sh * 2 ^ 22 + o.tsrc * 2 ^ 14 + o.tdst * 2 ^ 6 + o.sbar

/-- A CA or CB syllable (05 R96). -/
def encodeC : Instr → Option Nat
  | .copy o => some (encCp 0x00 o)
  | .copyt o => some (encCp 0x01 o)
  | .copy2 o => some (encCp 0x02 o)
  | .copyr o => some (encCp 0x03 o)
  | .gathc o => some (encCp 0x04 o)
  | .copyx o => some (encCp 0x05 o)
  | _ => none

def encK8 (op x y t : Nat) : Nat := op * 2 ^ 24 + x * 2 ^ 16 + y * 2 ^ 8 + t
def encK6 (op a b c : Nat) : Nat := op * 2 ^ 24 + a * 2 ^ 18 + b * 2 ^ 12 + c * 2 ^ 6
def encKI (op a i : Nat) : Nat := op * 2 ^ 24 + a * 2 ^ 18 + i

def encCount : BCount → Nat
  | .const n => n
  | .reg n => 2 ^ 17 + n

/-- A K syllable (05 R97). -/
def encodeK : Instr → Option Nat
  | .endTask => some 0
  | .layer n => some (encKI 0x01 0 n)
  | .sysrd d n => some (encK8 0x02 d n 0)
  | .pand d a b => some (encK6 0x03 d a b)
  | .por d a b => some (encK6 0x04 d a b)
  | .pxor d a b => some (encK6 0x05 d a b)
  | .pnot d a => some (encK6 0x06 d a 0)
  | .pset d a k => some (encK6 0x07 d a k)
  | .shw e n a m => some (encK8 0x10 (engCode e * 16 + n) a m)
  | .kShr d e n k => some (encK8 0x11 d (engCode e * 16 + n) k)
  | .ttw t a m => some (encK8 0x12 t a m)
  | .ttr d t k => some (encK8 0x13 d t k)
  | .binit b n => some (encKI 0x20 b (encCount n))
  | .bexpect b n => some (encKI 0x21 b (encCount n))
  | .barrive b n => some (encKI 0x22 b (encCount n))
  | .bwait d b t => some (encK6 0x23 d b t)
  | .btoken d b => some (encK6 0x24 d b 0)
  | .fence b a => some (encK6 0x25 b a 0)
  | .fencex p q => some (encK6 0x26 p q 0)
  | .clock d => some (encK6 0x27 d 0 0)
  | .nmrun p b n => some (encK8 0x30 p b n)
  | .coll d b c => some (encK8 0x31 d b c)
  | .steprd d n => some (encK6 0x40 d n 0)
  | .stepwr n a => some (encK6 0x41 n a 0)
  | .curadv d k a => some (encK6 0x42 d k a)
  | .seqnext d c => some (encK6 0x43 d c 0)
  | .losschk p a => some (encK6 0x44 p a 0)
  | .pennon n v => some (encKI 0x45 0 (bit v * 256 + n))
  | .stepend => some (encK6 0x46 0 0 0)
  | .hrd d n => some (encK8 0xF0 d n 0)
  | .hwr n a => some (encK8 0xF1 n a 0)
  | .hpage d a k => some (encK8 0xF2 d a k)
  | .hfreeze a => some (encK8 0xF3 a 0 0)
  | .eret => some (encK8 0xF4 0 0 0)
  | .trap n => some (encKI 0xF5 0 n)
  | _ => none

def encNM (op nd na nb nc ty imm : Nat) : Nat :=
  op * 2 ^ 56 + nd * 2 ^ 50 + na * 2 ^ 44 + nb * 2 ^ 38 + nc * 2 ^ 32 + ty * 2 ^ 29 + imm

def encNmOp (op : Nat) (o : NmOp) : Nat := encNM op o.nd o.na o.nb o.nc (bit o.i32) 0

/-- A near-memory microinstruction (05 R100). -/
def encodeNM : Instr → Option Nat
  | .nld d k => some (encNM 0x00 d 0 0 0 0 k)
  | .nst k a => some (encNM 0x01 0 a 0 0 0 k)
  | .nparam d k => some (encNM 0x02 d 0 0 0 0 k)
  | .nadd o => some (encNmOp 0x10 o)
  | .nsub o => some (encNmOp 0x11 o)
  | .nmul o => some (encNmOp 0x12 o)
  | .nfma o => some (encNmOp 0x13 o)
  | .ndiv o => some (encNmOp 0x14 o)
  | .nsqrt o => some (encNmOp 0x15 o)
  | .nrsq o => some (encNmOp 0x16 o)
  | .nmax o => some (encNmOp 0x17 o)
  | .nmin o => some (encNmOp 0x18 o)
  | .nabs o => some (encNmOp 0x19 o)
  | .ncmp o cc => some (encNM 0x1A o.nd o.na o.nb o.nc (bit o.i32) (condCode cc))
  | .nsel o => some (encNmOp 0x1B o)
  | .nclamp o => some (encNmOp 0x1C o)
  | .ncvt k d a => some (encNM 0x1D d a 0 0 k 0)
  | .nloop t => some (encNM 0x20 0 0 0 0 0 t)
  | .nend => some (encNM 0x21 0 0 0 0 0 0)
  | _ => none

/-- The word of an instruction in a slot, where that slot's map holds it. -/
def encodeSyl (sl : Slot) (i : Instr) : Option Nat :=
  match sl with
  | .s => encodeS i
  | .va | .vb => encodeV i
  | .mx => encodeMX i
  | .ld => encodeLD i
  | .st => encodeST i
  | .ca | .cb => encodeC i
  | .k => encodeK i

/-- The header parcel (05 R82). -/
def encodeHeader (h : Header) : Nat :=
  0xD * 2 ^ 28 + bit (h.slots.contains .s) * 2 ^ 27 + bit (h.slots.contains .va) * 2 ^ 26 +
  bit (h.slots.contains .vb) * 2 ^ 25 + bit (h.slots.contains .mx) * 2 ^ 24 + bit (h.slots.contains .ld) * 2 ^ 23 +
  bit (h.slots.contains .st) * 2 ^ 22 + bit (h.slots.contains .ca) * 2 ^ 21 + bit (h.slots.contains .cb) * 2 ^ 20 +
  bit (h.slots.contains .k) * 2 ^ 19 + bit h.sp * 2 ^ 18 + bit h.le * 2 ^ 17 + h.guard * 2 ^ 12

/-- The parcels of one syllable (05 R83). -/
def sylParcels (sl : Slot) (w : Nat) : List Nat :=
  if slotParcels sl == 1 then [w] else [w % 2 ^ 32, w / 2 ^ 32]

end Sys2Proof
end

