-- ==== Sys2Proof/Config.lean ====
section
/-! DEFINITION. What the manual leaves open: free values (no body, so no proof can see one) and the
named standards that the manual uses without defining them. -/

namespace Sys2Proof.Config

/-- The bytes that the manual calls undefined per byte (00 R12), one for each index of State.fresh; log 3. -/
opaque freeByte : Nat → Byte
/-- An undefined 64-bit container (10 R206), one for each index of State.fresh; log 3. -/
opaque freeWord : Nat → Word

/-- ML-KEM-768 encapsulation (03 R56): ciphertext of 1,088 bytes for an encapsulation key and fresh randomness; log 6. -/
opaque mlKemCiphertext : List Byte → Nat → List Byte
/-- The shared secret of that encapsulation (03 R56); log 6. -/
opaque mlKemSecret : List Byte → Nat → List Byte
/-- The ML-DSA-65 signature by the device identity key (03 R56, 21 R399); log 6. -/
opaque identitySign : List Byte → List Byte
/-- The device nonce of a session (03 R56); log 6. -/
opaque deviceNonce : Nat → List Byte
/-- SHAKE256 digest of the device identity public key (21 R399); log 6. -/
opaque identityKeyDigest : List Byte
/-- Whether a staged firmware image carries a valid signature and digest (21 R398); log 6. -/
opaque imageVerifies : List Byte → Bool
/-- The security version that a firmware image carries (21 R398); log 6. -/
opaque imageVersion : List Byte → Nat
/-- The digest of a firmware image's body (21 R398); log 6. -/
opaque imageDigest : List Byte → List Byte
/-- The digest of the boot loader in module flash (21 R398); log 6. -/
opaque loaderDigest : List Byte
/-- The digest of the stage-2 image that the module ships with (21 R398); log 6. -/
opaque shippedDigest : List Byte
/-- The shadow-handler parcels that a firmware image carries (18 R354); log 6. -/
opaque imageHandler : List Byte → List Parcel
/-- The 16-byte tag of a flit group (17 R335): key number, group counter, authenticated data, payloads; log 6. -/
opaque groupTag : Nat → Nat → List Byte → List Byte → List Byte
/-- AES-256-GCM's key stream for a flit group (17 R335): key number, group counter, place in the group's payload; log 6. -/
opaque groupStream : Nat → Nat → Nat → Byte
/-- AES-256-GCM of a command frame (03 R54): the plaintext for key, nonce, additional data, ciphertext and tag, none when the tag
fails; log 6. -/
opaque gcmOpen : List Byte → List Byte → List Byte → List Byte → List Byte → Option (List Byte)
/-- The same, sealing: the ciphertext with the tag after it, for key, nonce, additional data and plaintext; log 6. -/
opaque gcmSeal : List Byte → List Byte → List Byte → List Byte → List Byte
/-- The values of a margin plan (21 R397), by the plan's number, the kind of value, and the die or link; log 23. -/
opaque marginPlan : Nat → Nat → Nat → Nat
/-- The link-layer address of the command port (03 R52); log 31. -/
opaque portMac : List Byte
/-- The 64-bit interface identifier of the command port's addresses (03 R52); log 31. -/
opaque portInterface : Nat

end Sys2Proof.Config
end

