-- ==== Sys2Proof/Machine/Num.lean ====
section
/-! DEFINITION. Number formats (07): exact values, the three roundings, NaN payloads, and the correctly rounded
functions of 09 R181. A code is a natural number; an exact value is a numerator, a denominator and a power of two. -/

namespace Sys2Proof.Machine

/-- A floating format (07 R131, R136): sign bits, exponent width, mantissa width, bias, and whether the all-ones
exponent holds infinities and NaNs. -/
structure Fmt where
  s : Nat
  e : Nat
  m : Nat
  bias : Int
  ieee : Bool
  deriving DecidableEq, Repr

def fmt64 : Fmt := ⟨1, 11, 52, 1023, true⟩
def fmt32 : Fmt := ⟨1, 8, 23, 127, true⟩
def fmt16 : Fmt := ⟨1, 5, 10, 15, true⟩
def fmtB16 : Fmt := ⟨1, 8, 7, 127, true⟩

/-- The format of a floating element type; the integer types do not reach it. -/
def fmtOf : ETy → Fmt
  | .f64 => fmt64
  | .f32 => fmt32
  | .f16 => fmt16
  | .bf16 => fmtB16
  | _ => fmt64

/-- Code width without the sign bit. -/
def Fmt.mag (f : Fmt) : Nat := 2 ^ (f.e + f.m)

/-- The value of a code: a NaN keeps its code; a finite value is ±m × 2^x (07 R131, R136). -/
inductive FV where
  | nan (code : Nat)
  | inf (neg : Bool)
  | num (neg : Bool) (m : Nat) (x : Int)
  deriving DecidableEq, Repr

/-- Decoding a code (07 R131, R136). -/
def fvOf (f : Fmt) (c : Nat) : FV :=
  let mm := c % 2 ^ f.m
  let ee := c / 2 ^ f.m % 2 ^ f.e
  let neg := f.s == 1 && c / 2 ^ (f.e + f.m) % 2 == 1
  if f.e == 0 then .num neg mm (-f.bias)
  else if f.ieee && ee == 2 ^ f.e - 1 then (if mm == 0 then .inf neg else .nan c)
  else if ee == 0 then .num neg mm (1 - f.bias - f.m)
  else .num neg (2 ^ f.m + mm) ((ee : Int) - f.bias - f.m)

def FV.isNan : FV → Bool
  | .nan _ => true
  | _ => false

def FV.isFinite : FV → Bool
  | .num _ _ _ => true
  | _ => false

/-- An exact real: n / d × 2^x, with the sign that a zero takes (08 R161). -/
structure Exact where
  n : Int
  d : Nat
  x : Int
  zneg : Bool
  deriving DecidableEq, Repr

/-- What an operation gives before rounding: invalid (a NaN is created), an infinity, or an exact value. -/
inductive Ex where
  | invalid
  | inf (neg : Bool)
  | val (e : Exact)
  deriving DecidableEq, Repr

/-- The exact value of a finite code. -/
def FV.exact : FV → Exact
  | .num neg m x => ⟨if neg then -(m : Int) else m, 1, x, neg⟩
  | _ => ⟨0, 1, 0, false⟩

/-- Exact sum. An exact zero is +0, except that a sum of two zeros of sign − is −0 (08 R161). -/
def Exact.add (a b : Exact) : Exact :=
  let x := min a.x b.x
  let n := a.n * 2 ^ (a.x - x).toNat * b.d + b.n * 2 ^ (b.x - x).toNat * a.d
  ⟨n, a.d * b.d, x, a.n == 0 && b.n == 0 && a.zneg && b.zneg⟩

def Exact.neg (a : Exact) : Exact := ⟨-a.n, a.d, a.x, !a.zneg⟩

/-- Whether the value is negative, with the sign of a zero. -/
def Exact.isNeg (a : Exact) : Bool := a.n < 0 || (a.n == 0 && a.zneg)

/-- Exact product; a zero takes the sign of the product (IEEE 754). -/
def Exact.mul (a b : Exact) : Exact := ⟨a.n * b.n, a.d * b.d, a.x + b.x, a.isNeg != b.isNeg⟩

/-- Exact quotient by a non-zero value. -/
def Exact.div (a b : Exact) : Exact :=
  ⟨a.n * b.d * b.n.sign, a.d * b.n.natAbs, a.x - b.x, a.isNeg != b.isNeg⟩

/-- An integer as an exact value. -/
def Exact.ofInt (k : Int) : Exact := ⟨k, 1, 0, false⟩

/-- Comparison of two exact values: the sign of a − b. -/
def Exact.cmp (a b : Exact) : Int := (a.add b.neg).n.sign

/-- A non-negative value as one fraction. -/
def Exact.frac (a : Exact) : Nat × Nat :=
  if a.x < 0 then (a.n.natAbs, a.d * 2 ^ (-a.x).toNat) else (a.n.natAbs * 2 ^ a.x.toNat, a.d)

/-- floor(log2(p / q)) for p, q > 0. -/
def floorLog2 (p q : Nat) : Int :=
  let l := (Nat.log2 p : Int) - Nat.log2 q
  if l < 0 then (if p * 2 ^ (-l).toNat < q then l - 1 else l)
  else (if p < q * 2 ^ l.toNat then l - 1 else l)

/-- The quantum exponent of a magnitude p / q in a format (07 R136). -/
def quantum (f : Fmt) (p q : Nat) : Int :=
  if f.e == 0 then -f.bias else max (floorLog2 p q) (1 - f.bias) - f.m

/-- The magnitude code of r quanta of exponent k; a carry passes into the next binade. -/
def magCode (f : Fmt) (k : Int) (r : Nat) : Nat :=
  if f.e == 0 then r else (k + f.m + f.bias - 1).toNat * 2 ^ f.m + r

/-- The codes below and above a magnitude, and the fraction of the way between them as p / q. -/
structure Bracket where
  lo : Nat
  p : Nat
  q : Nat
  deriving DecidableEq, Repr

def bracket (f : Fmt) (p q : Nat) : Bracket :=
  if p == 0 then ⟨0, 0, 1⟩
  else
    let k := quantum f p q
    let num := if k < 0 then p * 2 ^ (-k).toNat else p
    let den := if k < 0 then q else q * 2 ^ k.toNat
    ⟨magCode f k (num / den), num % den, den⟩

/-- Rounding modes of the architecture (07 R133); SR carries its draw (07 R135). -/
inductive Mode where
  | rne
  | rtz
  | sr (u : Nat)
  deriving DecidableEq, Repr

/-- The magnitude code that a mode chooses, before any limit (07 R133 to R135): a tie goes to the even code. -/
def roundMag (f : Fmt) (md : Mode) (p q : Nat) : Nat :=
  let b := bracket f p q
  if b.p == 0 then b.lo
  else match md with
    | .rtz => b.lo
    | .rne => if 2 * b.p < b.q then b.lo else if 2 * b.p > b.q then b.lo + 1 else b.lo + b.lo % 2
    | .sr u => if u * b.q < b.p * 2 ^ 24 then b.lo + 1 else b.lo

/-- The largest finite magnitude code (07 R131, R136). -/
def Fmt.maxMag (f : Fmt) : Nat := if f.ieee then (2 ^ f.e - 1) * 2 ^ f.m - 1 else f.mag - 1

/-- The code with a sign. -/
def Fmt.signed (f : Fmt) (neg : Bool) (mag : Nat) : Nat := if neg && f.s == 1 then f.mag + mag else mag

/-- Arithmetic rounding (07 R133): the code, and whether it overflowed. -/
def roundArith (f : Fmt) (md : Mode) (a : Exact) : Nat × Bool :=
  let (p, q) := a.frac
  let c := roundMag f md p q
  if c ≤ f.maxMag then (f.signed a.isNeg c, false)
  else match md with
    | .rtz => (f.signed a.isNeg f.maxMag, true)
    | _ => (f.signed a.isNeg (f.maxMag + 1), true)

/-- Narrowing rounding of a finite value (07 R133 to R135): it saturates, and a negative value into a format without a
sign gives +0. -/
def roundNarrow (f : Fmt) (md : Mode) (a : Exact) : Nat :=
  if f.s == 0 && a.isNeg then 0
  else
    let (p, q) := a.frac
    let mx := match fvOf f f.maxMag with | .num _ m x => (Exact.mk m 1 x false).frac | _ => (0, 1)
    if p * mx.2 > mx.1 * q then f.signed a.isNeg f.maxMag
    else f.signed a.isNeg (min (roundMag f md p q) f.maxMag)

/-! NaN payloads (07 R142 to R145). -/

/-- Quiet bit set (07 R131). -/
def quietNan (f : Fmt) (c : Nat) : Nat := if c / 2 ^ (f.m - 1) % 2 == 1 then c else c + 2 ^ (f.m - 1)

/-- Layer and step fields of a NaN (07 R142). -/
def nanFields (f : Fmt) (c : Nat) : Nat × Nat :=
  if f.m == 52 then (c / 2 ^ 40 % 1024, c / 2 ^ 28 % 4096)
  else if f.m == 23 then (c / 2 ^ 12 % 1024, c % 4096)
  else if f.m == 10 then (c % 512, 0)
  else (c % 64, 0)

/-- A quiet NaN from its fields (07 R142). -/
def nanMake (f : Fmt) (neg : Bool) (layer step : Nat) : Nat :=
  let top := (if neg then f.mag else 0) + (2 ^ f.e - 1) * 2 ^ f.m + 2 ^ (f.m - 1)
  if f.m == 52 then top + layer % 1024 * 2 ^ 40 + step % 4096 * 2 ^ 28
  else if f.m == 23 then top + layer % 1024 * 2 ^ 12 + step % 4096
  else if f.m == 10 then top + layer % 512
  else top + layer % 64

/-- Conversion of a NaN between formats (07 R145); within one format it is quieted only. -/
def convNan (src dst : Fmt) (c : Nat) : Nat :=
  if src = dst then quietNan dst c
  else
    let (l, st) := nanFields src c
    nanMake dst (c / src.mag % 2 == 1) l st

/-- A code whose NaN is quieted: what an operation over one operand gives (07 R144). -/
def quietCode (f : Fmt) (c : Nat) : Nat := if (fvOf f c).isNan then quietNan f c else c

/-- The NaN with the smaller payload, sign 0 before sign 1 (07 R144). -/
def nanLess (f : Fmt) (a b : Nat) : Bool :=
  let pa := a % 2 ^ (f.m - 1)
  let pb := b % 2 ^ (f.m - 1)
  pa < pb || (pa == pb && a / f.mag % 2 ≤ b / f.mag % 2)

/-- The NaN that an operation with NaN operands gives, from the codes in the result format (07 R144). -/
def pickNan (f : Fmt) : List Nat → Nat
  | [] => nanMake f false 0 0
  | [a] => quietNan f a
  | a :: b :: r =>
    let m := pickNan f (b :: r)
    let a := quietNan f a
    if nanLess f a m then a else m

/-- Layer and step for NaNs created by an instruction (07 R143). -/
structure NanCtx where
  layer : Nat
  step : Nat
  deriving DecidableEq, Repr

/-- A created NaN (07 R143). -/
def newNan (f : Fmt) (cx : NanCtx) : Nat := nanMake f false cx.layer cx.step

/-- The result of a floating operation: its code, and whether it is non-finite from finite operands (07 R146). -/
structure FRes where
  code : Nat
  ovf : Bool
  deriving DecidableEq, Repr

/-- A floating operation on codes of one format (07 R144, R143, R133, R146). -/
def fop (f : Fmt) (cx : NanCtx) (md : Mode) (ops : List Nat) (g : List FV → Ex) : FRes :=
  let vs := ops.map (fvOf f)
  if vs.any FV.isNan then ⟨pickNan f (ops.filter (fun c => (fvOf f c).isNan)), false⟩
  else
    let fin := vs.all FV.isFinite
    match g vs with
    | .invalid => ⟨newNan f cx, fin⟩
    | .inf neg => ⟨f.signed neg (f.maxMag + 1), fin⟩
    | .val e =>
      let (c, o) := roundArith f md e
      ⟨c, o && fin && md == .rne⟩

/-- Sum of two values that are not NaN. -/
def exAdd : FV → FV → Ex
  | .inf a, .inf b => if a == b then .inf a else .invalid
  | .inf a, _ => .inf a
  | _, .inf b => .inf b
  | a, b => .val (a.exact.add b.exact)

def FV.neg : FV → FV
  | .nan c => .nan c
  | .inf n => .inf (!n)
  | .num n m x => .num (!n) m x

def FV.sign : FV → Bool
  | .nan _ => false
  | .inf n => n
  | .num n _ _ => n

def FV.isZero : FV → Bool
  | .num _ m _ => m == 0
  | _ => false

/-- Product of two values that are not NaN; 0 × ∞ is invalid. -/
def exMul (a b : FV) : Ex :=
  match a, b with
  | .num _ _ _, .num _ _ _ => .val (a.exact.mul b.exact)
  | _, _ => if a.isZero || b.isZero then .invalid else .inf (a.sign != b.sign)

/-- a × b + c, exact until the one rounding. -/
def exFma (a b c : FV) : Ex :=
  match exMul a b with
  | .invalid => .invalid
  | .inf n => match c with | .inf m => if n == m then .inf n else .invalid | _ => .inf n
  | .val p => match c with | .inf m => .inf m | _ => .val (p.add c.exact)

/-- IEEE 754 division. -/
def exDiv (a b : FV) : Ex :=
  let neg := a.sign != b.sign
  match a, b with
  | .inf _, .inf _ => .invalid
  | .inf _, _ => .inf neg
  | _, .inf _ => .val ⟨0, 1, 0, neg⟩
  | _, _ =>
    if b.isZero then (if a.isZero then .invalid else .inf neg) else .val (a.exact.div b.exact)

/-! The integer square root, bit by bit. -/

def isqrtGo (n : Nat) : Nat → Nat → Nat
  | 0, r => r
  | k + 1, r => let t := r + 2 ^ k; isqrtGo n k (if t * t ≤ n then t else r)

def isqrt (n : Nat) : Nat := isqrtGo n (Nat.log2 n / 2 + 1) 0

/-- An irrational result known to lie strictly between k / 2^p and (k + 1) / 2^p. -/
def between (k : Nat) (p : Nat) (x : Int) (neg : Bool) : Exact :=
  let n := 2 * k + 1
  ⟨if neg then -(n : Int) else n, 1, x - p - 1, neg⟩

/-- The square root of p / q with 140 bits: exact, or strictly between two neighbours far closer than any format's
rounding boundaries. -/
def sqrtFrac (p q : Nat) : Exact :=
  let sh := 280 + 2 * Nat.log2 q
  let y := p * 2 ^ sh / q
  let r := isqrt y
  if r * r * q == p * 2 ^ sh then ⟨r, 1, -(sh / 2 : Nat), false⟩ else between r (sh / 2) 0 false

/-- 09 R181, 06 R120: the square root. -/
def exSqrt : FV → Ex
  | .inf true => .invalid
  | .inf false => .inf false
  | .num n m x =>
    if m == 0 then .val ⟨0, 1, 0, n⟩
    else if n then .invalid
    else let (p, q) := (Exact.mk m 1 x false).frac; .val (sqrtFrac p q)
  | .nan _ => .invalid

/-- 09 R181: 1 / √a. -/
def exRsq : FV → Ex
  | .inf true => .invalid
  | .inf false => .val ⟨0, 1, 0, false⟩
  | .num n m x =>
    if m == 0 then .inf n
    else if n then .invalid
    else let (p, q) := (Exact.mk m 1 x false).frac; .val (sqrtFrac q p)
  | .nan _ => .invalid

/-- 09 R181: 1 / a. -/
def exRcp (a : FV) : Ex := exDiv (.num false 1 0) a

/-! Fixed-point evaluation of the transcendental functions, with p fraction bits (log 12). -/

/-- Σ z^(2k+1) / (2k+1), with z = 1 / b: the inverse hyperbolic tangent (alternating = false) or tangent. -/
def atanSeries (alt : Bool) (b : Nat) : Nat → Nat → Int → Nat → Int
  | 0, _, acc, _ => acc
  | fuel + 1, t, acc, k =>
    if t == 0 then acc
    else
      let term : Int := (t / (2 * k + 1) : Nat)
      atanSeries alt b fuel (t / (b * b)) (if alt && k % 2 == 1 then acc - term else acc + term) (k + 1)

/-- ln 2 × 2^p, as 2 artanh(1/3). -/
def ln2Fix (p : Nat) : Nat := (2 * atanSeries false 3 (p + 8) (2 ^ (p + 16) / 3) 0 0).toNat / 2 ^ 16

/-- π × 2^p, by Machin's formula. -/
def piFix (p : Nat) : Nat :=
  (16 * atanSeries true 5 (p + 8) (2 ^ (p + 16) / 5) 0 0 - 4 * atanSeries true 239 (p + 8) (2 ^ (p + 16) / 239) 0 0).toNat
    / 2 ^ 16

/-- e^y × 2^p for y / 2^p in [0, 1). -/
def expFix (p y : Nat) : Nat → Nat → Nat → Nat → Nat
  | 0, _, acc, _ => acc
  | fuel + 1, t, acc, k =>
    if t == 0 then acc else expFix p y fuel (t * y / 2 ^ p / (k + 1)) (acc + t) (k + 1)

/-- 2^(y / 2^p) × 2^p for y / 2^p in [0, 1). -/
def exp2Fix (p y : Nat) : Nat := expFix p (y * ln2Fix p / 2 ^ p) (p + 8) (2 ^ p) 0 0

/-- 09 R181: 2^a. An integer a is exact; elsewhere 256 fraction bits. A magnitude beyond every format's range is cut
to ±2^12, which rounds to the same result. -/
def exExp2 : FV → Ex
  | .inf true => .val ⟨0, 1, 0, false⟩
  | .inf false => .inf false
  | .num n m x =>
    let (p, q) := (Exact.mk m 1 x false).frac
    if p ≥ q * 2 ^ 12 then .val ⟨1, 1, if n then -(2 ^ 12) else 2 ^ 12, false⟩
    else if p % q == 0 then .val ⟨1, 1, if n then -(p / q : Nat) else (p / q : Nat), false⟩
    else
      let whole := p / q
      let fr := p % q
      let k : Int := if n then -(whole : Int) - 1 else whole
      let y := (if n then q - fr else fr) * 2 ^ 256 / q
      .val (between (exp2Fix 256 y) 256 k false)
  | .nan _ => .invalid

/-- artanh(z / 2^p) × 2^p by its series, z / 2^p at most 1/3. -/
def artanhFix (p z : Nat) : Nat → Nat → Nat → Nat → Nat
  | 0, _, acc, _ => acc
  | fuel + 1, t, acc, k =>
    if t == 0 then acc
    else artanhFix p z fuel (t * z / 2 ^ p * z / 2 ^ p) (acc + t / (2 * k + 1)) (k + 1)

/-- 09 R181: log2 a. A power of two is exact; elsewhere 320 fraction bits. -/
def exLog2 : FV → Ex
  | .inf true => .invalid
  | .inf false => .inf false
  | .num n m x =>
    if m == 0 then .inf true
    else if n then .invalid
    else
      let k := Nat.log2 m
      if m == 2 ^ k then .val ⟨(k : Int) + x, 1, 0, false⟩
      else
        let p := 320
        let z := (m - 2 ^ k) * 2 ^ p / (m + 2 ^ k)
        let ln := 2 * artanhFix p z (p + 8) z 0 0
        let fr := ln * 2 ^ p / ln2Fix p
        let v : Int := ((k : Int) + x) * 2 ^ p + fr
        .val (if v < 0 then between (v.natAbs - 1) p 0 true else between v.toNat p 0 false)
  | .nan _ => .invalid

/-- sin(y / 2^p) × 2^p by its series, for y / 2^p in [0, 2). -/
def sinFix (p y : Nat) : Nat → Nat → Int → Nat → Int
  | 0, _, acc, _ => acc
  | fuel + 1, t, acc, k =>
    if t == 0 then acc
    else sinFix p y fuel (t * y / 2 ^ p * y / 2 ^ p / ((2 * k + 2) * (2 * k + 3)))
      (if k % 2 == 0 then acc + t else acc - t) (k + 1)

/-- sin(π u / q) for 0 < u / q < 1/2, with 256 bits below its own magnitude. -/
def sinPiCore (u q : Nat) (neg : Bool) : Exact :=
  let p := 256 + (Nat.log2 q - Nat.log2 u)
  let y := piFix p * u / q
  between (sinFix p y (p + 8) y 0 0).toNat p 0 neg

/-- sin(π p / q) for the sign and magnitude of a finite value, by its place in the period. -/
def exSinPiFrac (neg : Bool) (p q : Nat) : Ex :=
  if p % q == 0 then .val ⟨0, 1, 0, neg⟩
  else
    let r := p % (2 * q)
    let flip := r ≥ q
    let r := r % q
    let sg := neg != flip
    if 2 * r == q then .val ⟨if sg then -1 else 1, 1, 0, sg⟩
    else .val (sinPiCore (if 2 * r < q then r else q - r) q sg)

/-- 09 R181: sin(πa); an integer n ≥ 1 gives +0, n ≤ −1 gives −0, ±0 gives ±0. -/
def exSinPi : FV → Ex
  | .inf _ => .invalid
  | .num n m x => let (p, q) := (Exact.mk m 1 x false).frac; exSinPiFrac n p q
  | .nan _ => .invalid

/-- 09 R181: cos(πa) = sin(π(|a| + 1/2)); n + 1/2 gives +0. -/
def exCosPi : FV → Ex
  | .inf _ => .invalid
  | .num _ m x =>
    let (p, q) := (Exact.mk m 1 x false).frac
    exSinPiFrac false (2 * p + q) (2 * q)
  | .nan _ => .invalid

/-! Minimum, maximum, comparison and class (08 R162, R164; 06 R121). -/

/-- The order of two values that are not NaN: the sign of a − b. -/
def FV.order (a b : FV) : Int :=
  match a, b with
  | .inf x, .inf y => if x == y then 0 else if x then -1 else 1
  | .inf x, _ => if x then -1 else 1
  | _, .inf y => if y then 1 else -1
  | _, _ => a.exact.cmp b.exact

/-- 08 R162. -/
def fMinMax (f : Fmt) (mn : Bool) (a b : Nat) : Nat :=
  let x := fvOf f a
  let y := fvOf f b
  if x.isNan || y.isNan then pickNan f ([a, b].filter (fun c => (fvOf f c).isNan))
  else if x.isZero && y.isZero && x.sign != y.sign then f.signed mn 0
  else if (mn && x.order y < 0) || (!mn && x.order y > 0) then a else b

/-- 06 R121: the condition of a floating comparison. -/
def fCond (f : Fmt) (cc : Cond) (a b : Nat) : Bool :=
  let x := fvOf f a
  let y := fvOf f b
  if x.isNan || y.isNan then (match cc with | .ne | .un => true | _ => false)
  else
    let o := x.order y
    match cc with
    | .eq => o == 0
    | .ne => o != 0
    | .lt | .ltu => o < 0
    | .ge | .geu => o ≥ 0
    | .le | .leu => o ≤ 0
    | .gt | .gtu => o > 0
    | .un => false
    | .ord => true

/-- 08 R164. -/
def fClass (f : Fmt) (c : Nat) : Nat :=
  match fvOf f c with
  | .nan _ => if c / 2 ^ (f.m - 1) % 2 == 1 then 2 ^ 9 else 2 ^ 8
  | .inf n => if n then 2 ^ 0 else 2 ^ 7
  | .num n m _ =>
    if m == 0 then (if n then 2 ^ 3 else 2 ^ 4)
    else if m < 2 ^ f.m then (if n then 2 ^ 2 else 2 ^ 5)
    else (if n then 2 ^ 1 else 2 ^ 6)

/-! Integers of an element type (07 R132). -/

/-- The value of a W-bit pattern read by signedness. -/
def intVal (sg : Bool) (w : Nat) (c : Nat) : Int :=
  let c := c % 2 ^ w
  if sg && c ≥ 2 ^ (w - 1) then (c : Int) - 2 ^ w else c

/-- The pattern of an integer modulo 2^W. -/
def intPat (w : Nat) (k : Int) : Nat := (k % 2 ^ w).toNat

def intMin (sg : Bool) (w : Nat) : Int := if sg then -(2 ^ (w - 1)) else 0
def intMax (sg : Bool) (w : Nat) : Int := if sg then 2 ^ (w - 1) - 1 else 2 ^ w - 1

/-- Saturation into a type's range. -/
def saturate (sg : Bool) (w : Nat) (k : Int) : Int := max (intMin sg w) (min (intMax sg w) k)

/-- Width in bits and signedness of an element type. -/
def ETy.bits (t : ETy) : Nat := 8 * t.width

/-- A finite value rounded to an integer (06 R122, 09 R174). -/
def roundInt (md : Mode) (a : Exact) : Int :=
  let (p, q) := a.frac
  let lo := p / q
  let r := p % q
  let m : Nat := match md with
    | .rtz => lo
    | .rne => if 2 * r < q then lo else if 2 * r > q then lo + 1 else lo + lo % 2
    | .sr u => if u * q < r * 2 ^ 24 then lo + 1 else lo
  if a.isNeg then -(m : Int) else m

/-- Conversion between two types by the table of 06 R122, with a mode (09 R174). The flag says that a narrowing meets
a non-finite source or that an infinity is produced from a finite one (07 R146). -/
def cvt (md : Mode) (dst src : ETy) (c : Nat) : FRes :=
  if dst = src then ⟨c % 2 ^ (8 * src.width), false⟩
  else if src.isInt then
    let k := intVal src.isSigned (8 * src.width) c
    if dst.isInt then ⟨intPat (8 * dst.width) (saturate dst.isSigned (8 * dst.width) k), false⟩
    else
      let (r, o) := roundArith (fmtOf dst) md (Exact.ofInt k)
      ⟨r, o && md == .rne⟩
  else
    let f := fmtOf src
    match fvOf f (c % 2 ^ (8 * src.width)) with
    | .nan n => if dst.isInt then ⟨0, true⟩ else ⟨convNan f (fmtOf dst) n, false⟩
    | .inf n =>
      if dst.isInt then
        ⟨intPat (8 * dst.width) (if n then intMin dst.isSigned (8 * dst.width) else intMax dst.isSigned (8 * dst.width)), true⟩
      else ⟨(fmtOf dst).signed n ((fmtOf dst).maxMag + 1), false⟩
    | .num n m x =>
      let e : Exact := (FV.num n m x).exact
      if dst.isInt then ⟨intPat (8 * dst.width) (saturate dst.isSigned (8 * dst.width) (roundInt md e)), false⟩
      else
        let (r, o) := roundArith (fmtOf dst) md e
        ⟨r, o && md == .rne⟩

/-! The bunting generator (09 R184). -/

def add32 (a b : Nat) : Nat := (a + b) % 2 ^ 32
def rotl32 (x c : Nat) : Nat := (x * 2 ^ c + x / 2 ^ (32 - c)) % 2 ^ 32
def xor32 (a b : Nat) : Nat := Nat.xor a b

/-- The round constants and rotations of 09 R184. -/
def buntingC : List Nat := [0xD2B74407, 0x6C8E1A95, 0x4F3A9CB1, 0xE59D2763]
def buntingRot : List (Nat × Nat) :=
  [(13, 17), (29, 5), (9, 23), (19, 11), (27, 3), (7, 25), (21, 15), (2, 30), (14, 18), (24, 8)]

/-- The round key rk(r, i). -/
def buntingKey (key : List Nat) (r i : Nat) : Nat :=
  add32 (key.getD ((i + r) % 4) 0) (r * buntingC.getD i 0)

def buntingRound (key : List Nat) (r : Nat) (rot : Nat × Nat) (x : List Nat) : List Nat :=
  let y (i : Nat) : Nat := add32 (x.getD i 0) (buntingKey key r i)
  let x0 := add32 (y 0) (y 1)
  let x1 := xor32 (rotl32 (y 1) rot.1) x0
  let x2 := add32 (y 2) (y 3)
  let x3 := xor32 (rotl32 (y 3) rot.2) x2
  [x0, x3, x2, x1]

def buntingGo (key : List Nat) : Nat → List (Nat × Nat) → List Nat → List Nat
  | r, [], x => (List.range 4).map (fun i => add32 (x.getD i 0) (buntingKey key r i))
  | r, rot :: rest, x => buntingGo key (r + 1) rest (buntingRound key r rot x)

/-- bunting(seed, stream, index, draw): words 0 to 3 (09 R184). -/
def bunting (seed stream index draw : Nat) : List Nat :=
  let key := [seed % 2 ^ 32, seed / 2 ^ 32 % 2 ^ 32, stream % 2 ^ 32, 0x5B1E2C97]
  let x := [index % 2 ^ 32, index / 2 ^ 32 % 2 ^ 32, draw % 2 ^ 32, draw / 2 ^ 32 % 2 ^ 32]
  buntingGo key 0 buntingRot x

/-- Word i of a draw. -/
def buntingWord (i seed stream index draw : Nat) : Nat := (bunting seed stream index draw).getD i 0

def exSub (a b : FV) : Ex := exAdd a b.neg

def una (f : FV → Ex) : List FV → Ex
  | [a] => f a
  | _ => .invalid

def bin (f : FV → FV → Ex) : List FV → Ex
  | [a, b] => f a b
  | _ => .invalid

def tri (f : FV → FV → FV → Ex) : List FV → Ex
  | [a, b, c] => f a b c
  | _ => .invalid

end Sys2Proof.Machine
end

