-- ==== Sys2Proof/Machine/Shake.lean ====
section
/-! DEFINITION. SHAKE256 (02 R43, 21 R398), as FIPS 202 defines it: the spec names it and does not define it (log 6). -/

namespace Sys2Proof.Machine

/-! The 1,600-bit state is one number; lane x + 5 * y stands at bit 64 * (x + 5 * y). -/

def rot64 (n x : Nat) : Nat := (x <<< n ||| x >>> (64 - n)) % 2 ^ 64
def kLane (st i : Nat) : Nat := (st >>> (64 * i)) % 2 ^ 64
def kPack (l : List Nat) : Nat := l.foldr (fun x a => x + a * 2 ^ 64) 0

/-- The walk over the lanes beside lane 0, from (1, 0) on: (x, y) goes to (y, 2x + 3y) modulo 5. -/
def kWalk : Nat → Nat → List Nat
  | 0, _ => []
  | n + 1, i => i :: kWalk n (i / 5 + 5 * ((2 * (i % 5) + 3 * (i / 5)) % 5))

/-- By how much a lane is rotated: the triangular number of its place in the walk; lane 0 not at all. -/
def kTurn (i : Nat) : Nat := if i = 0 then 0 else let t := (kWalk 24 1).idxOf i; (t + 1) * (t + 2) / 2 % 64

/-- Bits of the register that makes the round constants, of the polynomial x^8 + x^6 + x^5 + x^4 + 1. -/
def kBits : Nat → Nat → List Nat
  | 0, _ => []
  | n + 1, r => r % 2 :: kBits n (if r < 128 then 2 * r else (2 * r) ^^^ 0x171)

/-- The constant of a round: seven of those bits, at the places 2^j - 1. -/
def kConst (bits : List Nat) (round : Nat) : Nat :=
  ((List.range 7).map (fun j => bits.getD (7 * round + j) 0 * 2 ^ (2 ^ j - 1))).foldl (· + ·) 0

/-- The 24 round constants. -/
def kConsts : List Nat := let bits := kBits 168 1; (List.range 24).map (kConst bits)

/-- Every lane with the parities of the columns beside it. -/
def kTheta (st : Nat) : Nat :=
  let c := kPack ((List.range 5).map (fun x => (List.range 5).foldl (fun p y => p ^^^ kLane st (x + 5 * y)) 0))
  kPack ((List.range 25).map (fun i => kLane st i ^^^ kLane c ((i + 4) % 5) ^^^ rot64 1 (kLane c ((i + 1) % 5))))

/-- Lanes rotated and moved. -/
def kRhoPi (st : Nat) : Nat :=
  kPack ((List.range 25).map (fun i =>
    let j := (i % 5 + 3 * (i / 5)) % 5 + 5 * (i % 5)
    rot64 (kTurn j) (kLane st j)))

/-- Each row's lanes combined. -/
def kChi (st : Nat) : Nat :=
  kPack ((List.range 25).map (fun i =>
    let row (k : Nat) : Nat := kLane st ((i + k) % 5 + 5 * (i / 5))
    row 0 ^^^ ((row 1 ^^^ (2 ^ 64 - 1)) &&& row 2)))

/-- Keccak-f[1600]. -/
def keccakF (st : Nat) : Nat := kConsts.foldl (fun s rc => kChi (kRhoPi (kTheta s)) ^^^ rc) st

/-- n blocks of 136 bytes absorbed. -/
def kAbsorb (st : Nat) (l : List Byte) : Nat → Nat
  | 0 => st
  | n + 1 => kAbsorb (keccakF (st ^^^ (l.take 136).foldr (fun x a => x.toNat + a * 256) 0)) (l.drop 136) n

/-- n blocks squeezed. -/
def kSqueeze (st : Nat) : Nat → List Byte
  | 0 => []
  | n + 1 => (List.range 136).map (fun i => BitVec.ofNat 8 (st >>> (8 * i))) ++ kSqueeze (keccakF st) n

/-- The first n bytes of SHAKE256 of a message. -/
def shake256 (l : List Byte) (n : Nat) : List Byte :=
  let pad := 136 - l.length % 136
  let m := if pad = 1 then l ++ [0x9F] else l ++ 0x1F :: List.replicate (pad - 2) 0 ++ [0x80]
  (kSqueeze (kAbsorb 0 m (m.length / 136)) ((n + 135) / 136)).take n

end Sys2Proof.Machine
end

