-- ==== Sys2Proof/Machine/Tab.lean ====
section
/-! DEFINITION. Tables by number, and byte memories in one canonical form. -/

namespace Sys2Proof.Machine

/-- A table by number, sorted by key, one entry a key; an unlisted key has the default that the reader names. -/
abbrev Tab (α : Type) := List (Nat × α)

/-- The entry of a key. -/
def Tab.find {α : Type} : Tab α → Nat → Option α
  | [], _ => none
  | (k, v) :: r, n => if k = n then some v else Tab.find r n

/-- The value of a key, or the default. -/
def Tab.get {α : Type} (d : α) (t : Tab α) (n : Nat) : α := (Tab.find t n).getD d

/-- Without a key. -/
def Tab.del {α : Type} (t : Tab α) (n : Nat) : Tab α := t.filter (fun e => e.1 != n)

/-- Sorted insertion. -/
def Tab.ins {α : Type} (n : Nat) (v : α) : Tab α → Tab α
  | [] => [(n, v)]
  | (k, w) :: r => if n < k then (n, v) :: (k, w) :: r else (k, w) :: Tab.ins n v r

/-- The table with a key's value replaced. -/
def Tab.set {α : Type} (t : Tab α) (n : Nat) (v : α) : Tab α := Tab.ins n v (Tab.del t n)

/-- The keys of a table. -/
def Tab.keys {α : Type} (t : Tab α) : List Nat := t.map (·.1)

/-- A byte memory: strictly rising addresses, no listed zero. -/
abbrev Mem := List Host.Cell

/-- A byte; an unlisted address reads as zero (log 4). -/
def Mem.read (m : Mem) (a : Nat) : Byte := Tab.get (0 : Byte) m a

/-- A byte written; writing zero removes the entry. -/
def Mem.write (m : Mem) (a : Nat) (b : Byte) : Mem := if b = 0 then Tab.del m a else Tab.set m a b

/-- n bytes from an address. -/
def Mem.reads (m : Mem) (a n : Nat) : List Byte := (List.range n).map (fun k => m.read (a + k))

/-- Bytes written from an address on. -/
def Mem.writes (m : Mem) (a : Nat) : List Byte → Mem
  | [] => m
  | b :: r => Mem.writes (m.write a b) (a + 1) r

/-- The canonical form. -/
def Mem.wf : Mem → Bool
  | [] => true
  | (a, b) :: r => b != 0 && (match r with | [] => true | (a2, _) :: _ => a < a2) && Mem.wf r

/-- Bytes of [lo, hi) removed, so that they read as zero. -/
def Mem.clear (m : Mem) (lo n : Nat) : Mem := m.filter (fun e => e.1 < lo || lo + n ≤ e.1)

end Sys2Proof.Machine
end

