-- ==== Sys2Proof/Machine/State.lean ====
section
/-! DEFINITION. The machine's state as plain data, why it can stop, and the state after module reset. -/

namespace Sys2Proof.Machine

/-- Why the machine stops. -/
inductive Fault where
  /-- Raised by `step` and by a syllable when the turn names a core number above 255: 00 R3 gives no such core.
  Safe: the model stops where no hardware is. -/
  | noSuchCore (n : Nat)
  deriving DecidableEq, Repr

/-- Why an instruction has no meaning. -/
inductive Refusal where
  /-- Raised by an arm of `exec` whose instruction has no meaning yet. Safe: the model stops. -/
  | notModelled (mnemonic : String)
  deriving DecidableEq, Repr

/-- Operations of atomics (11 R225). -/
inductive AtomOp where
  | add | min | max | and | or | xor | swap | cas | fadd
  deriving DecidableEq, Repr

/-- Maintenance operations that hold a landing-buffer entry (11 R227). -/
inductive MaintOp where
  | flush | discard | rearm
  deriving DecidableEq, Repr

/-- A barrier object: the core whose scratchpad holds it and its offset (15 R293, R294). -/
structure BarLoc where
  core : Nat
  off : Nat
  deriving DecidableEq, Repr

/-- What a result writes when it lands (06 R105, 07 R140, 07 R146, 10 R200, 10 R203, 11 R212, 11 R225, 12 R233):
`bytes` is a store at level 0 or 1, `drain` the bytes of an MDRAIN with the bits of each that it
writes, `atom` an atomic at level 0 with the NaN that it
would create, `link` the return address that CALL writes (06 R124). -/
inductive Eff where
  | scalar (r : Nat) (v : Word)
  | vector (r : Nat) (mask : PReg) (v : VReg)
  | pred (r : Nat) (mask v : PReg)
  | index (k : Nat) (v : BitVec 32)
  | acc (a : Nat) (v : List Word)
  | table (t : Nat) (mask v : Wide)
  | origin (t : Nat) (v : BitVec 32)
  | shape (e : Eng) (n : Nat) (mask v : Wide)
  | bytes (level : Nat) (cells : List Host.Cell)
  | drain (cells : List (Nat × Byte × Byte))
  | atom (dest : Option Nat) (off : Nat) (op : AtomOp) (v cmp nan : Word)
  | pennon (bits : BitVec 16)
  | stepend
  | link
  deriving DecidableEq, Repr

/-- A result issued and not landed: its landing cycle, its issue number, and what it writes (06 R105 to R107). -/
structure Pend where
  due : Nat
  ord : Nat
  eff : Eff
  deriving DecidableEq, Repr

/-- What a fault record holds (18 R352). `after` says that the failing run or collective had started, so that nothing
is resent (18 R359). -/
structure FaultRec where
  code : Nat
  slot : Nat := 15
  data : Bool := false
  write : Bool := false
  remote : Bool := false
  trapno : Nat := 0
  addr : Word := 0
  ipa : Nat := 0
  access : Option Nat := none
  after : Bool := false
  deriving DecidableEq, Repr

/-- What an entry of the landing buffer waits for (11 R221 to R227, 15 R301). -/
inductive AccKind where
  | load
  | atomic (op : AtomOp) (scope : Scope) (v cmp nan : Word) (nr : Bool)
  | store
  | maint (op : MaintOp) (len : Nat)
  | bwait (bar : BarLoc) (tok : BitVec 32)
  | btoken (bar : BarLoc)
  deriving DecidableEq, Repr

/-- Where returned data go. -/
inductive Dest where
  | none
  | scalar (r : Nat)
  | vector (r w : Nat)
  deriving DecidableEq, Repr

/-- One single-copy-atomic unit of an access (14 R273): its element number, virtual or local address, IPA or window
offset, bytes to store, bytes returned, and whether it has performed. -/
structure Elem where
  idx : Nat
  va : Word
  loc : Nat
  n : Nat
  data : List Byte
  got : List Byte
  done : Bool
  deriving DecidableEq, Repr

/-- A landing-buffer entry (01 R22, 11 R222). -/
structure Access where
  id : Nat
  kind : AccKind
  slot : Nat
  level : Nat
  step : Bool
  elems : List Elem
  dest : Dest
  landAt : Option Nat
  since : Nat
  walk : Bool
  fault : Option FaultRec
  deriving DecidableEq, Repr

/-- A fence in force: the issue number, the paths, and for FENCE the kinds (15 R302, R303). -/
structure FenceRec where
  ord : Nat
  p1 : Nat
  p2 : Nat
  before : Nat
  after : Nat
  deriving DecidableEq, Repr

/-- An update of a barrier (15 R300). -/
inductive BarUpd where
  | init (n : Nat)
  | expect (n : Nat)
  | arrive (n : Nat)
  deriving DecidableEq, Repr

/-- A barrier update waiting to apply (15 R296, R300). -/
structure BarOp where
  id : Nat
  bar : BarLoc
  upd : BarUpd
  deriving DecidableEq, Repr

/-- The forms of copy (12 R229). -/
inductive CopyForm where
  | copy | copyt | copy2 | copyr | gathc | copyx
  deriving DecidableEq, Repr

/-- One request of a copy that has begun and not ended (12 R239): its number in the order of the nest, the source bytes
that have come by their places in it, and the places written at the destination and at COPY2's second one. -/
structure Req where
  u : Nat
  got : Tab (List Byte)
  put : List Nat
  put2 : List Nat
  deriving DecidableEq, Repr

/-- Bytes on their way to another device, unacknowledged (12 R239, R240; 23 R405): the device, the IPA there, the number of
bytes, and the address that the copy gave them. -/
structure Sent where
  dev : Nat
  ipa : Nat
  n : Nat
  addr : Word
  deriving DecidableEq, Repr

/-- A copy in its engine's queue (12 R230, R232, R239 to R242): the values read at issue with the seed of COPYR, the
first request that has not performed, the requests performed ahead of it, the number that have been emitted, those that
have begun, those whose bytes have been asked of a device, indices of GATHC by piece, the destination's entry number,
remote bytes not acknowledged, the places of the bytes written so far, highest first, and the origin that COPYR's
narrowing will record with its logical index (07 R140). -/
structure Copy where
  id : Nat
  num : Nat
  form : CopyForm
  sh : Wide
  tS : Wide
  tD : Wide
  tA : Wide
  step : Bool
  layer : BitVec 10
  stepNo : Word
  bar : Option BarLoc
  seed : Nat
  next : Nat
  early : List Nat
  emitted : Nat
  flight : List Req
  asked : List (Nat × Nat)
  idx : Tab Nat
  dstT : Nat
  outst : List Sent
  wrote : List (Nat × Nat)
  origin : Option (Nat × BitVec 32)
  failed : Bool
  deriving DecidableEq, Repr

/-- A copy engine of a core (12 R231, R234, R239, R242). -/
structure Engine where
  queue : List Copy
  next : Nat
  record : Word
  failAddr : Word
  failed : Bool
  deriving DecidableEq, Repr

/-- An entry of the range scoreboard (11 R216); addresses are level × 2^56 + offset. -/
structure Span where
  lo : Nat
  hi : Nat
  write : Bool
  copies : List Nat
  ord : Nat
  deriving DecidableEq, Repr

/-- A bundle in the loop buffer: its address and its parcels (05 R101). -/
structure BufBundle where
  pc : Word
  parcels : List Nat
  deriving DecidableEq, Repr

/-- The loop state (05 R101, R102; 06 R125, R126). `start` is the address of the body's first bundle and `len` the
bundles issued in the first innermost iteration. -/
structure LoopSt where
  active : Bool
  depth : Nat
  rot : Bool
  count : List Nat
  real0 : Nat
  start : Word
  len : Nat
  whole : Bool
  body : List BufBundle
  deriving DecidableEq, Repr

/-- A compute-port instruction in flight (10 R195, R196): its issue number, landing cycle and accumulator, whether its
base is an earlier result (R193), whether it has been re-executed, whether its second mismatch stands, whether it is an
MMA or MMAU, which alone are checked, and the format tag of the value that the accumulator shows until it lands. -/
structure MxRec where
  id : Nat
  due : Nat
  acc : Nat
  chain : Bool
  again : Bool
  bad : Bool
  mma : Bool
  was : Nat
  deriving DecidableEq, Repr

/-- Bytes that a matrix instruction reads from its issue until a cycle (10 R206): address, width and the row or column
fed; `wide` says that the containers hold 64-bit values. -/
structure MxRead where
  id : Nat
  since : Nat
  upto : Nat
  acc : Nat
  wide : Bool
  rows : List (Nat × Nat × Nat)
  cols : List (Nat × Nat × Nat)
  deriving DecidableEq, Repr

/-- A load at level 0 or 1 in flight (11 R217, 18 R362): its landing cycle and issue number, its level, where it lands, and
for each element its number, place and bytes. -/
structure Peek where
  due : Nat
  ord : Nat
  level : Nat
  dest : Dest
  got : List (Nat × Nat × List Byte)
  deriving DecidableEq, Repr

/-- An MDRAIN in flight (10 R203). -/
structure Drain where
  id : Nat
  due : Nat
  deriving DecidableEq, Repr

/-- A collective in flight (17 R340 to R345): `block` is the descriptor read at its
start, `sig` says that its signal wait has ended, `done` that its destination has
performed, `peers` what other members have brought. -/
structure CollRec where
  id : Nat
  desc : Word
  bar : Option BarLoc
  comm : Nat
  n : Nat
  stepNo : Word
  step : Bool
  since : Nat
  started : Bool
  block : List Byte
  sig : Bool
  done : Bool
  peers : List Peer
  fault : Option FaultRec
  deriving DecidableEq, Repr

/-- A collective that has started (17 R343, R344): the core and number of the collective, the IPA and length of its source
span, the source bytes read so far, the numbers of those that another path has written since the start, the result once every
source byte is there with its OVF, and the destination bytes written. -/
structure Gather where
  core : Nat
  id : Nat
  ipa : Nat
  len : Nat
  data : List Byte
  hurt : List Nat
  out : Option (List Byte × Bool)
  wrote : Nat
  deriving DecidableEq, Repr

/-- The task that holds a core (04 R69, 06 R128). -/
structure Occ where
  launch : Nat
  node : Nat
  member : Nat
  gang : Nat
  first : Nat
  step : Bool
  terminal : Bool
  handle : Nat
  deriving DecidableEq, Repr

/-- An HPAGE that waits for a map, with its issue number (18 R357). -/
structure PageWait where
  dest : Nat
  ord : Nat
  ipa : Nat
  since : Nat
  deriving DecidableEq, Repr

/-- The shadow context (18 R352 to R359): h0 to h15, p1 to p3, the handler's address and target flag, its own cycle
index and results, the snapshot of the task's results, the fault taken, and an HPAGE in wait. -/
structure Shadow where
  h : Tab Word
  p : Tab PReg
  pc : Word
  isTarget : Bool
  delay : Option (Option Word)
  now : Nat
  pend : List Pend
  snap : List Pend
  taken : FaultRec
  wait : Option PageWait
  deriving DecidableEq, Repr

/-- A save slot's content (19 R366, R367): the header's fields and the parts that are written. `loop.start`,
`loop.len` and `loop.whole` are not in the header of R366 (log 18). -/
structure Saved where
  launch : Nat
  node : Nat
  member : Nat
  gang : Nat
  pc : Word
  vrot : Nat
  prot : Nat
  layer : BitVec 10
  loop : LoopSt
  j : List (BitVec 32)
  atag : Tab Nat
  reex : Nat
  second : Nat
  recA : Word
  recB : Word
  failA : Word
  failB : Word
  seqA : Nat
  seqB : Nat
  ways : Nat
  smap : BitVec 64
  pmap : BitVec 32
  amap : BitVec 8
  vmap : BitVec 1536
  s : Tab Word
  p : Tab PReg
  v : Tab VReg
  acc : Tab (List Word)
  shA : Tab Wide
  shB : Tab Wide
  tt : Tab Wide
  lq : Tab (List Word)
  sp : Mem
  ls : Mem
  ds : Mem
  deriving DecidableEq, Repr

/-- Slots of an LQPSH that a FENCEX holds: the push, its link and the bytes of its flits (15 R303, 17 R338). -/
structure LqPush where
  ord : Nat
  link : Nat
  parts : List (List Byte)
  deriving DecidableEq, Repr

/-- One core (01 R14, 06 R112). The inventory names the rule of each field. -/
structure Core where
  s : Tab Word
  v : Tab VReg
  p : Tab PReg
  acc : Tab (List Word)
  atag : Tab Nat
  accBad : List Nat
  j : Tab (BitVec 32)
  vrot : Nat
  prot : Nat
  layer : BitVec 10
  pc : Word
  isTarget : Bool
  delay : Option (Option Word)
  loop : LoopSt
  now : Nat
  ccCount : Word
  fzTotal : Word
  fzBy : Tab Word
  pend : List Pend
  peeks : List Peek
  land : List Access
  lsWords : List (Nat × Nat × Nat)
  fences : List FenceRec
  barq : List BarOp
  busyC : Nat
  busyD : Nat
  mx : List MxRec
  mxReads : List MxRead
  drains : List Drain
  reex : Nat
  second : Nat
  tt : Tab Wide
  rg : Tab (BitVec 256)
  shA : Tab Wide
  shB : Tab Wide
  engA : Engine
  engB : Engine
  score : List Span
  lq : Tab (List Word)
  credits : Tab Nat
  lqSent : List (Nat × Nat × Nat)
  lqHeld : List LqPush
  waits : Tab Nat
  sp : Mem
  ls : Mem
  ds : Mem
  nmRuns : List Nat
  colls : List CollRec
  ended : Bool
  begun : Bool
  stopped : Bool
  killed : Bool
  fatal : Bool
  trap : Option Nat
  faults : List FaultRec
  resend : List Nat
  shadow : Option Shadow
  occ : Option Occ
  slots : Tab Saved
  deriving DecidableEq, Repr

/-- A page-table leaf entry as R253 lays it out, and the virtual address kept with the mapping (13 R253, R257). -/
structure Leaf where
  e : BitVec 128
  va : Word
  deriving DecidableEq, Repr

/-- A frame record: the type of the first mapping and the number of mappings (14 R288). -/
structure Frame where
  type : Nat
  maps : Nat
  deriving DecidableEq, Repr

/-- A page transfer with the host (13 R267). `page` is the 64 KiB page, `got` the image bytes that have arrived. -/
structure Transfer where
  page : Nat
  dirIn : Bool
  tier : Nat
  wos : Bool
  since : Nat
  got : Tab Byte
  lost : Bool
  deriving DecidableEq, Repr

/-- A page that is moving (13 R271), and since when. -/
structure Move where
  tier : Nat
  frame : Nat
  since : Nat
  deriving DecidableEq, Repr

/-- Kinds of access (04 R79, 11 R227). -/
inductive AKind where
  | fetch | read | write | atomic | flush | discard | rearm
  deriving DecidableEq, Repr

/-- Paths that reach global memory (14 R276); `block` is the near-memory launcher reading a parameter block (16 R321). -/
inductive APath where
  | core | copy | nm | block | coll | command | remote | fetch
  deriving DecidableEq, Repr

/-- What names one access at memory: an element of a core's access, part of a request of a copy with its side and IPA, a unit
of a near-memory row of a run, part of a run's parameter block by its IPA, a span of a collective, part of a request of another
device, or of a command. -/
inductive MemKey where
  | core (c id idx : Nat)
  | copy (c : Nat) (e : Eng) (id u side ipa : Nat)
  | row (run u row stream off : Nat)
  | block (run ipa : Nat)
  | coll (c id off : Nat)
  | remote (id off : Nat)
  | command (req off : Nat)
  | fetch (c : Nat)
  deriving DecidableEq, Repr

/-- Who makes an access (13 R261, 14 R284). -/
structure Issuer where
  step : Bool
  launch : Nat
  node : Nat
  core : Nat
  path : APath
  key : MemKey
  deriving DecidableEq, Repr

/-- An access that waits at memory, in order of arrival (13 R271, 14 R282, R289; 15 R309): who makes it and what, the cause under
which it waits (01 R23; 7 is a WOS sector, and 0 the queue of the unit that executes an atomic), since when, and the bytes that it
has returned when the sector was written. -/
structure MemWait where
  iss : Issuer
  kd : AKind
  ipa : Nat
  n : Nat
  cause : Nat
  since : Nat
  got : Option (List Byte)
  deriving DecidableEq, Repr

/-- A sector held above its home LLC (13 R245 to R247): by the L2 of die 0 to 3 or by the line buffer of core `holder` - 4, with
the leaf entry that its fill carried, whether it shows a step issuer's view, and its bytes. -/
structure Cached where
  holder : Nat
  sector : Nat
  leaf : Leaf
  step : Bool
  data : List Byte
  deriving DecidableEq, Repr

/-- What a shootdown is for (13 R257, 14 R289). -/
inductive ShootOp where
  | unmap
  | setType (type : Nat) (flags : BitVec 8)
  | only
  deriving DecidableEq, Repr

/-- A shootdown in progress (13 R258): whether its entries are marked, which waits for a move of its pages to end, and the
accesses that the translation units had accepted before. -/
structure Shoot where
  op : ShootOp
  pages : List Nat
  head : FrameHead
  marked : Bool
  before : List MemKey
  deriving DecidableEq, Repr

/-- The step context block (03 R64). -/
structure Scb where
  seed : Word
  cursor : Tab Word
  seq : Tab (BitVec 32)
  step : Word
  attempt : Nat
  threshold : BitVec 32
  deriving DecidableEq, Repr

/-- A STEP-OPEN that waits for the scrubber (03 R65, 13 R264): the request, its attempt, the tags of the scrub set as the request
was accepted, the blocks of the pass still to visit, and whether the pass has found one of the set. -/
structure OpenWait where
  head : FrameHead
  req : OpenReq
  attempt : Nat
  set : List Nat
  todo : List Nat
  found : Bool
  deriving DecidableEq, Repr

/-- A verdict and its merged word (20 R388, R389). -/
structure Verdict where
  attempt : Nat
  commit : Bool
  word : BitVec 16
  deriving DecidableEq, Repr

/-- A child's vote (20 R387). -/
structure ChildVote where
  src : Nat
  word : BitVec 16
  count : Nat
  deriving DecidableEq, Repr

/-- Link and flow states (17 R331). -/
inductive LinkState where
  | off | train | active | retrain | down
  deriving DecidableEq, Repr

/-- One direction pair of a link or of a scale-out flow (17 R326 to R337): `unacked` pairs each flit as sent with the
flit as given, `sent` says that this end's result word of the training has left, `again` holds the numbers of flits delivered before a group was sent again, `owed` link-queue credits not returned
yet, `rrAt` and `rrLeft` the weighted sharing's turn; `keyNo` numbers the keys of the trainings, `txKey` and `rxKey` are those of
the open group and of the last one released by channel; `closing` lists channels whose group has closed and whose tag flit has
not left, `failVc` the channel of the last failed group, `holding` the channels that this end has stopped, `ackSent` the last
ACK sent. -/
structure Link where
  word : Word
  state : LinkState
  width : Nat
  group : Nat
  speed : Nat
  retrains : Nat
  laneFail : BitVec 16
  replays : Nat
  txSeq : Nat
  rxNext : Nat
  nakSent : Bool
  unacked : List (Flit × Flit)
  waiting : List Flit
  lastAck : Nat
  lastRx : Nat
  partnerAt : Nat
  disagree : Nat
  sent : Bool
  tagFails : Nat
  tagTotal : Nat
  txGroup : Tab (List Flit)
  rxGroup : Tab (List Flit)
  groupNo : Tab Nat
  rxGroupNo : Tab Nat
  groupAt : Tab Nat
  stopped : List Nat
  again : List Nat
  owed : Tab Nat
  rrAt : Nat
  rrLeft : Nat
  keyNo : Nat
  txKey : Tab Nat
  rxKey : Tab Nat
  closing : List Nat
  failVc : Nat
  holding : List Nat
  ackSent : Nat
  deriving DecidableEq, Repr

/-- A plan record (02 R45). -/
structure PlanRec where
  vbase : Word
  size : Nat
  type : Nat
  flags : BitVec 8
  tier : Nat
  image : Nat
  deriving DecidableEq, Repr

/-- A node record (02 R47). -/
structure NodeRec where
  gang : Nat
  prio : Nat
  layer : BitVec 10
  die : Nat
  terminal : Bool
  entry : Nat
  entryRegion : Nat
  tensors : Nat
  shapesA : Nat
  shapesB : Nat
  deps : Nat
  succ : List Nat
  safePoints : Nat
  argRegion : Nat
  regions : List Nat
  argOff : Nat
  argSize : Nat
  deriving DecidableEq, Repr

/-- A graph (02 R47). -/
structure Graph where
  step : Bool
  terminal : Option Nat
  nodes : List NodeRec
  deriving DecidableEq, Repr

/-- A patch point (02 R49). -/
structure PatchRec where
  plan : Nat
  size : Nat
  off : Nat
  deriving DecidableEq, Repr

/-- A safe-point record (02 R49). -/
structure SafeRec where
  off : Nat
  smap : BitVec 64
  pmap : BitVec 32
  amap : BitVec 8
  vmap : BitVec 1536
  deriving DecidableEq, Repr

/-- What a section of an accepted container is (02 R44). -/
inductive SecRec where
  | strings
  | image (bytes : List Byte)
  | plan
  | tensors (entries : Tab Wide)
  | shapes (b : Bool) (regs : Tab Wide)
  | graph (g : Graph)
  | patches
  | safePoints (recs : List SafeRec)
  | program (words : List Word)
  deriving DecidableEq, Repr

/-- A container handle (02 R43 to R51, 03 R61, 23 R403): the chunks received, and once accepted what it holds. -/
structure Container where
  total : Nat
  got : Tab Byte
  accepted : Bool
  digest : List Byte
  plan : List PlanRec
  sections : List SecRec
  patches : List PatchRec
  ipas : List Nat
  binds : Tab (Nat × Nat)
  deriving DecidableEq, Repr

/-- Task states (04 R69). -/
inductive TaskState where
  | loaded | waiting | ready | placed | running | preempting | saved | killed | retired
  deriving DecidableEq, Repr

/-- A reservation: the first core of its set, and whether a pre-emption request or a strike made it (04 R75, R76). -/
structure Reserve where
  first : Nat
  asked : Bool
  deriving DecidableEq, Repr

/-- A node of a live launch (04 R69 to R75). `order` is its place in its queue, `queuedAt` starts the 2 ms of R74,
`readyAt` the 64 microseconds of R75, `askedAt` and `escal` a pre-emption request with the escalation time that stood then
(R76), `dying` a kill that has not completed. -/
structure NodeSt where
  state : TaskState
  deps : Nat
  level : Nat
  order : Nat
  queuedAt : Nat
  readyAt : Nat
  first : Nat
  reserve : Option Reserve
  askedAt : Option Nat
  escal : Nat
  atSafe : Bool
  restored : Bool
  dying : Bool
  deriving DecidableEq, Repr

/-- A live launch (04 R72, 20 R376). -/
structure Launch where
  handle : Nat
  graphSec : Nat
  step : Bool
  nodes : Tab NodeSt
  stepend : Bool
  deriving DecidableEq, Repr

/-- What an NST of the row under way has replaced: the place, its bytes and its written bit (16 R321). -/
structure RowUndo where
  ipa : Nat
  data : List Byte
  bit : Bool
  deriving DecidableEq, Repr

/-- A near-memory unit (16 R311, R316). `part` holds the 8-byte units that the row access under way has done, by their offsets,
with the bytes loaded. -/
structure NmUnit where
  q : Tab VReg
  run : Option Nat
  row : Nat
  idx : Nat
  queue : List Nat
  part : Tab (List Byte)
  undo : List RowUndo
  deriving DecidableEq, Repr

/-- A stream of a run (16 R313). -/
structure Stream where
  valid : Bool
  write : Bool
  va : Word
  ipa : Nat
  deriving DecidableEq, Repr

/-- An NMRUN (16 R320 to R323). `reach` lists the units that it has not reached yet (R322). -/
structure NmRun where
  core : Nat
  id : Nat
  prog : List Word
  block : Word
  bar : Option BarLoc
  layer : BitVec 10
  stepNo : Word
  step : Bool
  started : Bool
  stopped : Bool
  streams : List Stream
  rows : Nat
  params : List (BitVec 32)
  reach : List Nat
  since : Nat
  fault : Option FaultRec
  deriving DecidableEq, Repr

/-- COPYR's update of one element at another device (12 R236, R238; log 16): where it is, who asks, and what keys the
rounding and a created NaN. `offset` is the element's address as its tensor numbers it; `twice` says that the copy has
written the element before (12 R235). -/
structure ReducePkt where
  src : Nat
  ipa : Nat
  core : Nat
  eng : Eng
  step : Bool
  tS : Wide
  tD : Wide
  layer : BitVec 10
  stepNo : Word
  seed : Nat
  offset : Nat
  value : List Byte
  twice : Bool
  deriving DecidableEq, Repr

/-- A frame, packet, flit or signal that the device sends (03 R53, R62; 17 R327, R332, R337; 20 R386). A reply and an event carry
their session and sequence number (03 R53, R54). -/
inductive Out where
  | reply (session seq req : Nat) (mgmt : Bool) (code status detail : Nat) (payload : List Byte)
  | event (session seq num code : Nat) (payload : List Byte)
  | flit (link : Nat) (f : Flit)
  | datagram (port : Nat) (src dst : BitVec 128) (flits : List Flit)
  | signal (link vc : Nat) (stop : Bool)
  | credit (link core n : Nat)
  | readReq (dst ipa len core : Nat) (eng : Eng) (step : Bool)
  | readReply (dst ipa code : Nat) (data : List Byte)
  | reduceReq (dst : Nat) (r : ReducePkt)
  | reduceReply (dst ipa code core : Nat) (eng : Eng) (ovf : Bool) (origin : Option (BitVec 32))
  | ipv6 (data : List Byte)
  deriving DecidableEq, Repr

/-- An event that the host has not acknowledged (03 R62). -/
structure Ev where
  num : Nat
  code : Nat
  payload : List Byte
  deriving DecidableEq, Repr

/-- The session (03 R54 to R57, R62; 21 R401): `keys` are the 72 bytes of its keys and salts, `txSeq` is the sequence number of
the last frame to the host. -/
structure Session where
  id : Nat
  keys : List Byte
  txSeq : Nat
  attested : Bool
  highest : Nat
  seen : List Nat
  replies : List (Nat × Out)
  lastAt : Nat
  evNum : Nat
  unacked : List Ev
  mask : Word
  period : Nat
  deriving DecidableEq, Repr

/-- A request of the host without its head (03 R60, R61; 04 R76; 13 R248, R269; 17 R325, R336, R339; 20 R385; 21 R394,
R396, R397; 23 R403). `page` carries PAGE's operation number. -/
inductive Cmd where
  | hello (payload : List Byte)
  | attest (challenge : List Byte)
  | loadContainer (handle total offset : Nat) (data : List Byte) (ipas : List Nat)
  | unloadContainer (handle : Nat)
  | patch (handle index : Nat) (value : Word)
  | launch (handle graph : Nat)
  | stepOpen (o : OpenReq)
  | stepClose (attempt : Nat)
  | read (ipaSpace : Bool) (handle len addr : Nat)
  | write (ipaSpace : Bool) (handle len addr : Nat) (data : List Byte)
  | page (op : Nat) (r : PageReq)
  | kill (launch node : Nat)
  | firmware (total offset : Nat) (data : List Byte)
  | resetWork (force : Bool)
  | resetModule (force : Bool)
  | schedSet (word : Word)
  | carveSet (die ways : Nat)
  | tierSet (tier : Nat) (word : BitVec 128)
  | linkSet (link : Nat) (word : Word)
  | fabricSet (word pre : Word)
  | commSet (c : Nat) (word : Word)
  | halyardSet (word : BitVec 256)
  | powerSet (word : Word)
  | margin
  | remoteSetBind (handle rec dev ipa : Nat)
  | remoteSetClear (handle : Nat) (t : RemoteTarget)
  | boardSet (word : Word)
  deriving DecidableEq, Repr

/-- A READ or WRITE that has been accepted and has not finished (03 R61): the bytes that have performed, from the first on, and
the mask of unwritten sectors among them. -/
structure HeldCmd where
  head : FrameHead
  cmd : Cmd
  got : List Byte
  mask : Nat
  deriving DecidableEq, Repr

/-- A control-class command that has not finished (03 R59): what its reply waits for; `move`
lists the pages that have not reached the tier yet. `retry` is a command whose access
waits for its page (03 R61), with the time at which it began to wait. -/
inductive CtlWait where
  | stepOpen
  | stepClose (head : FrameHead)
  | shoot
  | shootHeld (head : FrameHead) (keys : List MemKey)
  | move (head : FrameHead) (tier : Nat) (pages : List Nat)
  | kill (head : FrameHead) (nodes : List (Nat × Nat))
  | resetWork (head : FrameHead)
  | resetModule (head : FrameHead)
  | retry (head : FrameHead) (c : Cmd)
  deriving DecidableEq, Repr

/-- Firmware state (21 R398, 18 R354): `digest` is that of the stage-2 image that booted. -/
structure Firmware where
  handler : List Parcel
  staged : Tab Byte
  stagedTotal : Nat
  stagedFull : Bool
  version : Nat
  counter : Nat
  digest : List Byte
  meas : List Byte
  deriving DecidableEq, Repr

/-- Sensor readings of telemetry (21 R401). -/
structure Readings where
  power : Nat
  junction : Tab Nat
  inlet : Nat
  supply : Nat
  current : Nat
  margin : Tab Nat
  deriving DecidableEq, Repr

/-- The margin plan (21 R397): voltage and frequency limits and monitor thresholds of each die, and the equalisation of each link. -/
structure MarginPlan where
  volt : Tab Nat
  freq : Tab Nat
  monitor : Tab Nat
  equal : Tab Nat
  deriving DecidableEq, Repr

/-- A margin plan: the spec says what it sets and not the values, which are free (log 23). -/
def MarginPlan.formed (n : Nat) : MarginPlan :=
  let die (k : Nat) : Tab Nat := (List.range 4).map (fun d => (d, Config.marginPlan n k d))
  { volt := die 0, freq := die 1, monitor := die 2, equal := (List.range 6).map (fun q => (q, Config.marginPlan n 3 q)) }

/-- The host as a command frame has shown it (03 R52; log 31): its link-layer address, its IPv6 address, the address of the port that
it used, and its UDP port. -/
structure HostEnd where
  mac : List Byte
  ip : List Byte
  own : List Byte
  port : Nat
  deriving DecidableEq, Repr

/-- A request of another device that has not finished (23 R405, 12 R238): a write packet with the bytes performed, a
read, or COPYR's update of an element. -/
inductive RemoteReq where
  | write (p : WritePkt) (done : Nat)
  | read (src ipa len : Nat) (step : Bool) (got : List Byte)
  | reduce (r : ReducePkt)
  deriving DecidableEq, Repr

/-- What moves next (log 1). -/
inductive Turn where
  | event (i : Instr)
  | core (c : Nat)
  | unit (u : Nat)
  | wait (ns : Nat)
  | evict (die line : Nat)
  | signal (link vc : Nat) (stop : Bool)
  | credit (core q n : Nat)
  | request (core : Nat) (eng : Eng) (n u : Nat)
  | part (core : Nat) (eng : Eng) (n u side off : Nat)
  | remoteData (core : Nat) (eng : Eng) (n k code : Nat) (data : List Byte)
  | reduce (r : ReducePkt)
  | reduceReply (src ipa code core : Nat) (eng : Eng) (ovf : Bool) (origin : Option (BitVec 32))
  | remote (n : Nat) (one : Bool)
  | late (core : Nat)
  | keep (core ipa : Nat) (buffer : Bool)
  | lose (holder sector : Nat)
  | spill (die line : Nat)
  | half (core id unit : Nat)
  | row (u off : Nat)
  | reach (run u : Nat)
  | gather (core id : Nat)
  | command (n : Nat)
  | idle (link : Nat)
  | train (link speed : Nat)
  | stopGo (link vc : Nat) (stop : Bool)
  | packet (bytes : List Byte)
  | sensor (n value : Nat)
  deriving DecidableEq, Repr

/-- The whole device. The inventory names the rule of each field. -/
structure State where
  cores : Tab Core
  deviceId : Nat
  fenced : List Nat
  mem0 : Mem
  mem1 : Mem
  slotMeta : Tab (BitVec 14)
  written : Tab Bool
  l2 : Tab (Tab Byte)
  cached : List Cached
  llc : Tab (List (Nat × Nat))
  tlb : List Nat
  roots : Tab (BitVec 128)
  dirs : Tab (BitVec 128)
  tableTop : Tab Nat
  leaves : Tab Leaf
  bigLeaves : Tab Leaf
  waiting : List MemWait
  wants : Tab Nat
  bitFix : Tab Bool
  frames : Tab Frame
  nextFrame : Tab Nat
  transfers : Tab Transfer
  nextTransfer : Nat
  moves : Tab Move
  lost : List Nat
  shoots : List Shoot
  held : List HeldCmd
  commitBits : BitVec 4096
  commitDue : Option Verdict
  stepState : Nat
  attempt : Nat
  last : Nat
  lastCommitted : Word
  ownWord : BitVec 16
  mergedWord : BitVec 16
  verdict : Option Verdict
  scb : Scb
  snap : Scb
  openWait : Option OpenWait
  abortWait : Bool
  voteReady : Bool
  childVotes : List ChildVote
  silenceAt : Option Nat
  votedAt : Nat
  lastQuery : Nat
  verdictLog : Tab Verdict
  last64 : List Verdict
  wosUndo : List (Nat × Bool)
  tree : BitVec 256
  sched : Word
  carve : Tab Nat
  marks : Tab (BitVec 128)
  freePages : Tab Nat
  fabric : Word
  fprefix : Word
  hostPrefix : Option Word
  links : Tab Link
  flows : Tab Link
  portWord : Tab Word
  comms : Tab Word
  halted : List Nat
  power : Word
  board : Word
  clocks : Tab Nat
  thermalHold : List Nat
  boardHold : Bool
  boardOkSince : Option Nat
  limitHold : Bool
  readings : Readings
  replanning : Bool
  plan : MarginPlan
  nextPlan : Option MarginPlan
  telem : Tab Word
  session : Option Session
  host : Option HostEnd
  carried : List Ev
  nextSession : Nat
  containers : Tab Container
  launches : Tab Launch
  nextLaunch : Nat
  queueStamp : Nat
  units : Tab NmUnit
  runs : Tab NmRun
  gathers : List Gather
  remote : List (Nat × RemoteReq)
  bulk : Tab (List Flit)
  nextRemote : Nat
  ctl : Option CtlWait
  ctlQueue : List (FrameHead × Cmd)
  fw : Firmware
  time : Nat
  bootAt : Nat
  lastPush : Nat
  lastRepeat : Nat
  lastDecay : Nat
  lastTick : Nat
  lastPlan : Nat
  out : List Out
  turns : List Turn
  cur : Nat
  curUnit : Nat
  seq : Nat
  fresh : Nat
  deriving DecidableEq, Repr

/-- An idle engine (12 R231, R234: every field 0). -/
def Engine.idle : Engine := { queue := [], next := 0, record := 0, failAddr := 0, failed := false }

/-- No loop. -/
def LoopSt.none : LoopSt :=
  { active := false, depth := 0, rot := false, count := [], real0 := 0, start := 0, len := 0, whole := false, body := [] }

/-- A core after module reset: registers without a reset value hold 0 (log 5); tags ZERO (10 R205); credits 512 by
default of the readers (11 R226). -/
def Core.reset : Core :=
  { s := [], v := [], p := [], acc := [], atag := [], accBad := [], j := [], vrot := 0, prot := 0, layer := 0,
    pc := 0, isTarget := false, delay := Option.none, loop := LoopSt.none, now := 0, ccCount := 0, fzTotal := 0, fzBy := [],
    pend := [], peeks := [], land := [], lsWords := [], fences := [], barq := [], busyC := 0, busyD := 0, mx := [], mxReads := [],
    drains := [], reex := 0, second := 0, tt := [], rg := [], shA := [], shB := [], engA := Engine.idle,
    engB := Engine.idle, score := [], lq := [], credits := [], lqSent := [], lqHeld := [], waits := [], sp := [], ls := [],
    ds := [], nmRuns := [], colls := [], ended := false, begun := false, stopped := false, killed := false, fatal := false,
    trap := Option.none, faults := [], resend := [], shadow := Option.none, occ := Option.none, slots := [] }

/-- The step context block after module reset (03 R64). -/
def Scb.reset : Scb := { seed := 0, cursor := [], seq := [], step := 0, attempt := 0, threshold := 0x7F800000 }

/-- A link after module reset (17 R331, R336; 21 R400): ENABLE is 1, so it is in TRAIN. -/
def Link.reset : Link :=
  { word := 0x1_4040_40_0000, state := .train, width := 0, group := 0, speed := 0, retrains := 0, laneFail := 0,
    replays := 0, txSeq := 0, rxNext := 0, nakSent := false, unacked := [], waiting := [], lastAck := 0, lastRx := 0,
    partnerAt := 0, disagree := 0, sent := false, tagFails := 0, tagTotal := 0, txGroup := [], rxGroup := [], groupNo := [],
    rxGroupNo := [], groupAt := [], stopped := [], again := [], owed := [], rrAt := 0, rrLeft := 0,
    keyNo := 0, txKey := [], rxKey := [], closing := [], failVc := 0, holding := [], ackSent := 4095 }

/-- The shadow handler that the module ships with, written to do what 18 R361 states (log 10): h5 := CODE, h6 :=
REMOTE, p1 := PAGE_ABSENT and not REMOTE, p3 := class 0x08; at 104 the path that 18 R362's example lists; at 136 ERET
for TRAP; otherwise HFREEZE with the word 0. -/
def shippedHandler : List Parcel :=
  [0xD8000000, 0x14140030, 0xD8000000, 0x15145030, 0xD8000000, 0x15180019, 0xD8000000, 0x11186001,
   0xD8000000, 0x20045303, 0xD8000000, 0x20086000, 0xD0080000, 0x03041080, 0xD8000000, 0x151C5008,
   0xD8000000, 0x200C7008, 0xD8000000, 0x41080008, 0xD0000000, 0xD8000000, 0x4118000D, 0xD0000000,
   0xD0080000, 0xF3090000, 0xD0080000, 0xF2040300, 0xD8000000, 0x21044000, 0xD0081000, 0xF3000000,
   0xD0080000, 0xF4000000, 0xD0080000, 0xF4000000]

/-- MEAS after stages 0 and 1 have verified the images of stages 1 and 2 (21 R398). -/
def measOf (digest : List Byte) : List Byte :=
  shake256 (shake256 (List.replicate 32 0 ++ Config.loaderDigest) 32 ++ digest) 32

/-- Firmware after module reset (log 6, log 10). -/
def Firmware.reset : Firmware :=
  { handler := shippedHandler, staged := [], stagedTotal := 0, stagedFull := false, version := 0, counter := 0,
    digest := Config.shippedDigest, meas := measOf Config.shippedDigest }

/-- No reading taken yet (log 23). -/
def Readings.reset : Readings :=
  { power := 0, junction := [], inlet := 0, supply := 0, current := 0, margin := [] }

/-- Free 64 KiB pages after reset: tier 0 holds 768 GiB less the 8 GiB of save slots (00 R1, 19 R365), tier 1 up to
4 TiB (log 22). -/
def freePagesReset : Tab Nat := [(0, 12451840), (1, 67108864)]

/-- The machine right after module reset (21 R400). -/
def State.reset : State :=
  { cores := [], deviceId := 0, fenced := [], mem0 := [], mem1 := [], slotMeta := [], written := [], l2 := [], cached := [], llc := [],
    tlb := [], roots := [], dirs := [], tableTop := [], leaves := [], bigLeaves := [], waiting := [], wants := [], bitFix := [],
    frames := [], nextFrame := [], transfers := [], nextTransfer := 1, moves := [], lost := [],
    shoots := [], held := [], commitBits := 0, commitDue := Option.none, stepState := 0, attempt := 0, last := 0,
    lastCommitted := 0, ownWord := 0, mergedWord := 0, verdict := Option.none, scb := Scb.reset, snap := Scb.reset,
    openWait := Option.none, abortWait := false, voteReady := false,
    childVotes := [], silenceAt := Option.none, votedAt := 0, lastQuery := 0, verdictLog := [], last64 := [],
    wosUndo := [], tree := BitVec.ofNat 256 (0x32 * 2 ^ 176 + 0xC8 * 2 ^ 192), sched := 0x7D000, carve := [],
    marks := [(0, 0x40000_00020000), (1, 0x20000_00010000), (2, 0)], freePages := freePagesReset,
    fabric := 0, fprefix := 0, hostPrefix := Option.none, links := (List.range 6).map (fun k => (k, Link.reset)), flows := [],
    portWord := [(6, 0x1_4040_40_0000), (7, 0x1_4040_40_0000)], comms := [], halted := [], power := 0x3200FA0,
    board := 0xCB20_ABE0_01C2, clocks := [(0, 1600), (1, 1600), (2, 1600), (3, 1600)], thermalHold := [],
    boardHold := false, boardOkSince := Option.none, limitHold := false, readings := Readings.reset, replanning := false,
    plan := MarginPlan.formed 0, nextPlan := Option.none, telem := [], session := Option.none, host := Option.none, carried := [], nextSession := 1, containers := [],
    launches := [], nextLaunch := 1, queueStamp := 0, units := [], runs := [], gathers := [], remote := [], bulk := [], nextRemote := 1,
    ctl := Option.none,
    ctlQueue := [], fw := Firmware.reset, time := 0, bootAt := 0, lastPush := 0, lastRepeat := 0, lastDecay := 0, lastTick := 0,
    lastPlan := 0, out := [], turns := [], cur := 0, curUnit := 0, seq := 0, fresh := 0 }

end Sys2Proof.Machine
end

