-- ==== Sys2Proof/Machine/Base.lean ====
section
/-! DEFINITION. Accessors: cores, registers under the rotation bases, results in flight and their landing, local
memories, the pennon word, replies and events. -/

namespace Sys2Proof.Machine

/-! Fault codes (18 R348). -/

def fcIllBundle : Nat := 0x0101
def fcBadTarget : Nat := 0x0102
def fcIllInstr : Nat := 0x0103
def fcDelayBranch : Nat := 0x0104
def fcLoopLong : Nat := 0x0105
def fcLoopPlace : Nat := 0x0106
def fcLoopCount : Nat := 0x0107
def fcIllNmprog : Nat := 0x0108
def fcTtInvalid : Nat := 0x0201
def fcTtBounds : Nat := 0x0202
def fcMxFormat : Nat := 0x0203
def fcMxBusy : Nat := 0x0204
def fcMxUnfold : Nat := 0x0205
def fcLocalBounds : Nat := 0x0206
def fcLevelMix : Nat := 0x0207
def fcMisalign : Nat := 0x0208
def fcLsLevel : Nat := 0x0209
def fcRangeLen : Nat := 0x020A
def fcLsBusy : Nat := 0x020B
def fcCopyShape : Nat := 0x020C
def fcCopyAlign : Nat := 0x020D
def fcCopyRemote : Nat := 0x020E
def fcBarAlign : Nat := 0x020F
def fcBarLevel : Nat := 0x0210
def fcBarCount : Nat := 0x0211
def fcNmParam : Nat := 0x0212
def fcNmAlign : Nat := 0x0213
def fcCollComm : Nat := 0x0214
def fcCollDesc : Nat := 0x0215
def fcCollSig : Nat := 0x0216
def fcRangeMiss : Nat := 0x0301
def fcRangePerm : Nat := 0x0302
def fcPageAbsent : Nat := 0x0303
def fcPageLost : Nat := 0x0304
def fcFabricUnreach : Nat := 0x0305
def fcPagePerm : Nat := 0x0401
def fcVersionWrite : Nat := 0x0402
def fcTypeAtomic : Nat := 0x0403
def fcWosRewrite : Nat := 0x0404
def fcWosPartial : Nat := 0x0405
def fcWosDiscard : Nat := 0x0406
def fcRearmType : Nat := 0x0407
def fcIpOwner : Nat := 0x0408
def fcIpPath : Nat := 0x0409
def fcAliasType : Nat := 0x040A
def fcNmIp : Nat := 0x040B
def fcNmType : Nat := 0x040C
def fcWosWait : Nat := 0x040D
def fcLqTimeout : Nat := 0x0502
def fcBarTimeout : Nat := 0x0503
def fcCollTimeout : Nat := 0x0504
def fcMemTimeout : Nat := 0x0505
def fcMxCorrupt : Nat := 0x0601
def fcEccUncorr : Nat := 0x0602
def fcCollMatch : Nat := 0x0701
def fcCollHalt : Nat := 0x0702
def fcTrap : Nat := 0x0800
def fcShadowDouble : Nat := 0x0901

/-- Class of a code (18 R347). -/
def faultClass (code : Nat) : Nat := code / 256

/-! Cores, gangs and tasks. -/

/-- A core by its number (00 R3); a core that nothing has touched is as module reset leaves it. -/
def State.core (s : State) (c : Nat) : Core := Tab.get Core.reset s.cores c

def State.setCore (s : State) (c : Nat) (k : Core) : State := { s with cores := Tab.set s.cores c k }

def State.modCore (s : State) (c : Nat) (f : Core → Core) : State := s.setCore c (f (s.core c))

/-- The core that executes. -/
def State.me (s : State) : Core := s.core s.cur

def State.modMe (s : State) (f : Core → Core) : State := s.modCore s.cur f

/-- The die of a core (00 R3). -/
def dieOf (c : Nat) : Nat := c / 64

/-- The members of the gang of a core, by gang index (04 R73). -/
def State.gang (s : State) (c : Nat) : List Nat :=
  match (s.core c).occ with
  | some o => (List.range o.gang).map (fun g => o.first + g)
  | none => [c]

/-- Whether the core's task is of a step graph (13 R261). -/
def Core.isStep (k : Core) : Bool :=
  match k.occ with
  | some o => o.step
  | none => false

/-- Applies a change to each core of a list. -/
def State.modCores (s : State) (f : Core → Core) : List Nat → State
  | [] => s
  | c :: r => State.modCores (s.modCore c f) f r

/-! Registers (06 R112, R113; 18 R354). -/

/-- The physical vector register of a written number (06 R113). -/
def physV (vb n : Nat) : Nat := if n < 1024 then n else 1024 + (n - 1024 + vb) % 512

/-- The physical predicate register of a written number (06 R113). -/
def physP (pb n : Nat) : Nat := if n < 16 then n else 16 + (n - 16 + pb) % 16

/-- A scalar field read: s0 reads zero (06 R112); in the shadow context it names h0 to h15 (18 R354). -/
def Core.sc (k : Core) (n : Nat) : Word :=
  match k.shadow with
  | some h => Tab.get 0 h.h n
  | none => if n = 0 then 0 else Tab.get 0 k.s n

/-- A predicate field read: p0 reads all ones (06 R112); in the shadow context 1 to 3 are its own (18 R354). -/
def Core.pr (k : Core) (n : Nat) : PReg :=
  if n = 0 then BitVec.allOnes 512
  else match k.shadow with
    | some h => Tab.get 0 h.p n
    | none => Tab.get 0 k.p (physP k.prot n)

/-- A vector field read (06 R113). -/
def Core.vr (k : Core) (n : Nat) : VReg := Tab.get 0 k.v (physV k.vrot n)

/-- Bit 0 of a predicate: a scalar condition or a guard (06 R112). -/
def Core.cond (k : Core) (n : Nat) : Bool := (k.pr n).getLsbD 0

/-- A landed value in the register that a scalar field names. -/
def Core.setS (k : Core) (n : Nat) (v : Word) : Core := if n = 0 then k else { k with s := Tab.set k.s n v }

/-- The layer and the step of the NaNs that the core's instructions create now (07 R143, 06 R129). -/
def State.nanCtx (s : State) (c : Nat) : NanCtx := ⟨(s.core c).layer.toNat, s.scb.step.toNat⟩

/-! Bytes. -/

/-- n bytes of a number, little-endian (00 R4). -/
def leBytes : Nat → Nat → List Byte
  | 0, _ => []
  | n + 1, v => BitVec.ofNat 8 v :: leBytes n (v / 256)

/-- The number of a little-endian byte list. -/
def ofLe : List Byte → Nat
  | [] => 0
  | b :: r => b.toNat + 256 * ofLe r

/-- A zero-padded list of length n. -/
def padTo (n : Nat) (l : List Byte) : List Byte := (l ++ List.replicate (n - l.length) 0).take n

/-- Consecutive cells from an address. -/
def cellsAt (a : Nat) (l : List Byte) : List Host.Cell := (List.range l.length).zip l |>.map (fun e => (a + e.1, e.2))

/-! Replies and events (03 R58, R62, R63). -/

/-- Sends an event frame, or keeps it for the next session when there is none (03 R62). -/
def State.emit (s : State) (code : Nat) (payload : List Byte) : State :=
  match s.session with
  | some z =>
    let n := z.evNum + 1
    { s with
      session := some { z with evNum := n, txSeq := z.txSeq + 1, unacked := z.unacked ++ [⟨n, code, payload⟩] },
      out := s.out ++ [.event z.id (z.txSeq + 1) n code payload] }
  | none => { s with carried := s.carried ++ [⟨0, code, payload⟩] }

/-! Telemetry counters by group and word (21 R401). -/

def tcCorrected : Nat := 0x40
def tcUncorrected : Nat := 0x41
def tcPackets : Nat := 0x50
def tcFrames : Nat := 0x51
def tcCrc : Nat := 0x60
def tcVc7 : Nat := 0x61
def tcLqSlots : Nat := 0x62
def tcArrivals : Nat := 0x63
def tcHalyard : Nat := 0x70
def tcForeign : Nat := 0x80

/-- Counts in telemetry, saturating at 2^64 - 1 (21 R401). -/
def State.count (s : State) (k : Nat) : State :=
  { s with telem := Tab.set s.telem k (let v := Tab.get 0 s.telem k; if v = BitVec.allOnes 64 then v else v + 1) }

/-- Several counts at once. -/
def State.countN (s : State) (k n : Nat) : State :=
  { s with telem := Tab.set s.telem k (BitVec.ofNat 64 (min (2 ^ 64 - 1) ((Tab.get 0 s.telem k).toNat + n))) }

/-- Sets bits of the device's own pennon word (20 R377). -/
def State.pennonOr (s : State) (bits : BitVec 16) : State := { s with ownWord := s.ownWord ||| bits }

/-! Local memories. -/

/-- Bytes of the core scratchpad (01 R27) and of the lane slices (11 R208). -/
def spBytes : Nat := 4161536
def lsBytes : Nat := 524288

/-- The size of one core's slice of the die scratchpad (13 R249). -/
def dsSlice (s : State) (die : Nat) : Nat := Tab.get 0 s.carve die * 131072

def applyCells (m : Mem) (cs : List Host.Cell) : Mem := cs.foldl (fun m c => m.write c.1 c.2) m

/-- The memory of a level that a core owns. -/
def Core.lm (k : Core) : Nat → Mem
  | 0 => k.sp
  | 1 => k.ls
  | _ => k.ds

def Core.setLocal (k : Core) (level : Nat) (m : Mem) : Core :=
  match level with
  | 0 => { k with sp := m }
  | 1 => { k with ls := m }
  | _ => { k with ds := m }

/-- The new value of an atomic (11 R225), and whether it is an infinity from finite operands. `nan` is the NaN that the
instruction would create. -/
def atomNew (op : AtomOp) (old v cmp nan : Word) : Word × Bool :=
  match op with
  | .add => (old + v, false)
  | .min => (if old.toInt ≤ v.toInt then old else v, false)
  | .max => (if old.toInt ≥ v.toInt then old else v, false)
  | .and => (old &&& v, false)
  | .or => (old ||| v, false)
  | .xor => (old ^^^ v, false)
  | .swap => (v, false)
  | .cas => (if old = cmp then v else old, false)
  | .fadd =>
    let a := fvOf fmt64 old.toNat
    let b := fvOf fmt64 v.toNat
    if a.isNan || b.isNan then (BitVec.ofNat 64 (pickNan fmt64 ([old.toNat, v.toNat].filter (fun c => (fvOf fmt64 c).isNan))), false)
    else match exAdd a b with
      | .invalid => (nan, false)
      | .inf n => (BitVec.ofNat 64 (fmt64.signed n (fmt64.maxMag + 1)), false)
      | .val e => let (c, o) := roundArith fmt64 .rne e; (BitVec.ofNat 64 c, o && a.isFinite && b.isFinite)

/-- A word of a byte memory. -/
def Mem.word (m : Mem) (a : Nat) : Word := BitVec.ofNat 64 (ofLe (m.reads a 8))

/-- The task's results that have not landed, those of the snapshot among them (06 R105, 18 R352). -/
def Core.inFlight (k : Core) : List Pend :=
  match k.shadow with
  | some h => h.snap ++ k.pend
  | none => k.pend

/-- A change of every result of the task that has not landed. -/
def Core.mapFlight (k : Core) (f : Pend → Pend) : Core :=
  { k with pend := k.pend.map f, shadow := k.shadow.map (fun h => { h with snap := h.snap.map f }) }

/-- A result in flight replaced by others. -/
def Core.swapFlight (k : Core) (p : Pend) (l : List Pend) : Core :=
  let go (x : List Pend) : List Pend := x.flatMap (fun q => if q = p then l else [q])
  { k with pend := go k.pend, shadow := k.shadow.map (fun h => { h with snap := go h.snap }) }

/-- An atomic at level 0. -/
def Eff.isAtom : Eff → Bool
  | .atom _ _ _ _ _ _ => true
  | _ => false

/-- The address of an offset in a core's own window (11 R208): level 0 or 1. -/
def windowAddr (level off : Nat) : Word := BitVec.ofNat 64 ((0xF0 + level) * 2 ^ 56 + off)

/-- What the core's own loads see at a level: memory with every store and atomic of the core that issued before and
has not performed (11 R217). -/
def Core.view (k : Core) (level ord : Nat) : Mem :=
  k.inFlight.foldl (fun m p =>
    if p.ord < ord then
      match p.eff with
      | .bytes l cs => if l = level then applyCells m cs else m
      | .atom _ off op v cmp nan =>
        if level = 0 then m.writes off (leBytes 8 (atomNew op (m.word off) v cmp nan).1.toNat) else m
      | _ => m
    else m) (k.lm level)

/-- Rows or columns that a list of written addresses feeds. -/
def linesHit (t : List (Nat × Nat × Nat)) (addrs : List Nat) : List Nat :=
  (t.filter (fun e => addrs.any (fun a => e.1 ≤ a && a < e.1 + e.2.1))).map (fun e => e.2.2)

/-- Containers of an accumulator with those of some rows and columns undefined (10 R206); row numbers from 64 on name
single containers; `n` numbers the free values. -/
def freeLines (wide : Bool) (rows cols : List Nat) (n : Nat) (v : List Word) : List Word :=
  (List.range 4096).zip v |>.map (fun e =>
    if rows.contains (e.1 / 64) || cols.contains (e.1 % 64) || rows.contains (64 + e.1) then
      (if wide then Config.freeWord (n + e.1) else Config.freeWord (n + e.1) &&& 0xFFFFFFFF)
    else e.2)

/-- Compute-port results that a disturbed result feeds: itself and those that chain from it (10 R193). -/
def chainOf (id acc : Nat) : List MxRec → Bool → List Nat
  | [], _ => []
  | x :: r, on =>
    if x.id = id then x.id :: chainOf id acc r true
    else if on && x.acc = acc then (if x.chain then x.id :: chainOf id acc r on else chainOf id acc r false)
    else chainOf id acc r on

/-- An accumulator result in flight, if it is one of a list, with some rows and columns undefined. -/
def Pend.freeAcc (ids : List Nat) (wide : Bool) (rows cols : List Nat) (n : Nat) (p : Pend) : Pend :=
  match p.eff with
  | .acc a v => if ids.contains p.ord then { p with eff := .acc a (freeLines wide rows cols n v) } else p
  | _ => p

/-- Bytes written into a scratchpad while a matrix instruction reads them: each affected element is undefined
(10 R206). -/
def State.disturb (s : State) (c : Nat) (addrs : List Nat) : State :=
  (s.core c).mxReads.foldl (fun s x =>
    let k := s.core c
    if x.since < k.now && k.now ≤ x.upto then
      let rows := linesHit x.rows addrs
      let cols := linesHit x.cols addrs
      if rows.isEmpty && cols.isEmpty then s
      else
        let ids := chainOf x.id x.acc k.mx false
        { s.setCore c (k.mapFlight (Pend.freeAcc ids x.wide rows cols s.fresh)) with fresh := s.fresh + 4096 }
    else s) s

/-- Whether a barrier update that has not applied names the barrier that holds a scratchpad byte (15 R297). -/
def State.barBusy (s : State) (c a : Nat) : Bool :=
  s.cores.any (fun e => e.2.barq.any (fun o => o.bar.core = c && o.bar.off ≤ a && a < o.bar.off + 16))

/-- Bytes written into a core's scratchpad from any path: barrier bytes with an update in flight are undefined
(15 R297), and so are matrix elements that are being read (10 R206). -/
def State.spWrite (s : State) (c : Nat) (cells : List Host.Cell) : State :=
  let busy := cells.any (fun e => s.barBusy c e.1)
  let cells' := if busy then
    (List.range cells.length).zip cells |>.map (fun e =>
      if s.barBusy c e.2.1 then (e.2.1, Config.freeByte (s.fresh + e.1)) else e.2) else cells
  let s := if busy then { s with fresh := s.fresh + cells.length } else s
  let s := if (s.core c).mxReads.isEmpty then s else s.disturb c (cells.map (·.1))
  s.modCore c (fun k => { k with sp := applyCells k.sp cells' })

/-- Bytes written at a level that a core owns. -/
def State.localWrite (s : State) (c level : Nat) (cells : List Host.Cell) : State :=
  if level = 0 then s.spWrite c cells
  else s.modCore c (fun k => k.setLocal level (applyCells (k.lm level) cells))

/-! Results in flight (06 R105 to R107). -/

/-- Insertion in issue order. -/
def pendIns (e : Pend) : List Pend → List Pend
  | [] => [e]
  | x :: r => if e.ord < x.ord then e :: x :: r else x :: pendIns e r

/-- A result of the core's current context, due after a latency. -/
def Core.post (k : Core) (lat ord : Nat) (e : Eff) : Core :=
  match k.shadow with
  | some h => { k with shadow := some { h with pend := pendIns ⟨h.now + lat, ord, e⟩ h.pend } }
  | none => { k with pend := pendIns ⟨k.now + lat, ord, e⟩ k.pend }

/-- A result of the syllable that executes. -/
def State.post (s : State) (lat : Nat) (e : Eff) : State := s.modMe (fun k => k.post lat s.seq e)

/-- Bit merge. -/
def mergeBits {w : Nat} (old mask v : BitVec w) : BitVec w := (old &&& ~~~mask) ||| (v &&& mask)

/-- The 4,096-bit mask of a predicate's bytes. -/
def byteMask (p : PReg) : VReg :=
  if p = BitVec.allOnes 512 then BitVec.allOnes 4096
  else BitVec.ofNat 4096 ((List.range 512).foldr (fun b acc => acc * 256 + (if p.getLsbD b then 255 else 0)) 0)

/-- Older stores of a core lose the bytes that a younger one has written (11 R217). -/
def Pend.cut (ord level : Nat) (addrs : List Nat) (p : Pend) : Pend :=
  match p.eff with
  | .bytes l cs => if p.ord < ord && l = level then { p with eff := .bytes l (cs.filter (fun c => !addrs.contains c.1)) } else p
  | _ => p

def cutOlder (ord level : Nat) (addrs : List Nat) (l : List Pend) : List Pend := l.map (Pend.cut ord level addrs)

/-! Counters (01 R24, 06 R128). -/

/-- The name under which a wait's start is kept: a level-4 access may be late, in a walk and held in turn (18 R349), so
causes 1 and 8 share that of cause 0. -/
def waitKey (cause : Nat) : Nat := if cause = 1 || cause = 8 then 0 else cause

/-- One frozen period, counted under a cause of 01 R23 (0 to 10); `own` are the causes under which this core itself waits:
a wait that goes on keeps its start, and one that has ended leaves. -/
def Core.frozen (k : Core) (cause : Nat) (own : List Nat) (time : Nat) : Core :=
  { k with
    fzTotal := k.fzTotal + 1,
    fzBy := Tab.set k.fzBy cause (Tab.get 0 k.fzBy cause + 1),
    waits := own.foldl (fun w x => Tab.set w (waitKey x) (Tab.get time k.waits (waitKey x))) [] }

/-- A frozen period of a whole gang (01 R25, 06 R109); `own` gives the causes under which each member waits. -/
def State.freeze (s : State) (c cause : Nat) (own : Nat → List Nat) : State :=
  (s.gang c).foldl (fun s m => s.modCore m (fun k => k.frozen cause (own m) s.time)) s

end Sys2Proof.Machine
end

