-- ==== Sys2Proof/Machine/Global.lean ====
section
/-! DEFINITION. Global memory: range registers (04 R79), leaf entries (13 R252, R253), the checks of the home die (13
R255, 14 R286), version blocks (13 R259 to R262), dirty bytes in the L2s, and moves of pages. -/

namespace Sys2Proof.Machine

/-- A leaf entry found by a walk: which tree step gave it, its key there, and the 64 KiB part of a 2 MiB page. -/
structure PageRef where
  big : Bool
  key : Nat
  leaf : Leaf
  part : Nat
  deriving DecidableEq, Repr

/-- The home die's answer. `held` carries the cause under which a core counts the wait (01 R23). -/
inductive Chk where
  | held (cause : Nat)
  | fail (code : Nat)
  | ok (r : PageRef)
  deriving DecidableEq, Repr

/-- A field of a word replaced. -/
def setFld (w hi lo v : Nat) : Nat := w - fld w hi lo * 2 ^ lo + v % 2 ^ (hi + 1 - lo) * 2 ^ lo

/-- Whether a kind needs permission to write (04 R79, 11 R227). -/
def AKind.writes : AKind → Bool
  | .write | .atomic | .discard | .rearm => true
  | _ => false

/-! Range registers. -/

/-- 04 R79: the device and the IPA of a virtual address, or the code of the failure. -/
def translateIn (own : Nat) (va : Nat) (kd : AKind) (engine : Bool) : List (BitVec 256) → Except Nat (Nat × Nat)
  | [] => .error fcRangeMiss
  | g :: r =>
    let w := g.toNat
    let p := va / 65536
    if fld w 192 192 == 1 && fld w 56 16 ≤ p && p < fld w 120 80 then
      let bad := match kd with
        | .fetch => fld w 195 195 == 0
        | .read | .flush => fld w 193 193 == 0
        | _ => fld w 194 194 == 0
      if bad then .error fcRangePerm
      else
        let ipa := fld w 179 144 * 65536 + (va - fld w 56 16 * 65536)
        if fld w 197 196 == 0 then .ok (own, ipa)
        else if !engine then .error fcRangePerm
        else .ok (fld w 223 208, ipa)
    else translateIn own va kd engine r

def translate (own : Nat) (rg : Tab (BitVec 256)) (va : Word) (kd : AKind) (engine : Bool) : Except Nat (Nat × Nat) :=
  if va.toNat / 2 ^ 57 ≠ 0 then .error fcRangeMiss
  else translateIn own va.toNat kd engine ((List.range 16).map (fun n => Tab.get 0 rg n))

/-- Bits [63:56] of an address (11 R208): a local window for 0xF0 to 0xFF. -/
def isLocal (va : Word) : Bool := va.toNat / 2 ^ 56 ≥ 0xF0

/-! Leaf entries (13 R253). -/

def Leaf.get (l : Leaf) (hi lo : Nat) : Nat := fld l.e.toNat hi lo
def Leaf.put (l : Leaf) (hi lo v : Nat) : Leaf := { l with e := BitVec.ofNat 128 (setFld l.e.toNat hi lo v) }
def Leaf.p (l : Leaf) : Bool := l.get 0 0 == 1
def Leaf.type (l : Leaf) : Nat := l.get 2 1
def Leaf.v (l : Leaf) : Bool := l.get 3 3 == 1
def Leaf.m (l : Leaf) : Bool := l.get 4 4 == 1
def Leaf.tier (l : Leaf) : Nat := l.get 11 10
def Leaf.mov (l : Leaf) : Bool := l.get 13 13 == 1
def Leaf.frame (l : Leaf) : Nat := l.get 47 16
def Leaf.warm (l : Leaf) : Nat := l.get 55 48
def Leaf.ownL (l : Leaf) : Nat := l.get 95 64
def Leaf.ownN (l : Leaf) : Nat := l.get 111 96

/-- The home die of an IPA (13 R246). -/
def homeDie (ipa : Nat) : Nat := Nat.xor (ipa / 65536 % 4) (ipa / 262144 % 4)

/-- The key of an IPA's entry in a die's root and in its next table (13 R252). -/
def rootKey (die ipa : Nat) : Nat := die * 2 ^ 13 + ipa / 2 ^ 39
def nextKey (die ipa : Nat) : Nat := die * 2 ^ 31 + ipa / 2 ^ 21

/-- 13 R252: the leaf entry of an IPA, if one has P = 1, in the tree of its home die: the root's pointer, then a 2 MiB leaf
or a pointer, then a 64 KiB leaf. -/
def State.walk (s : State) (ipa : Nat) : Option PageRef :=
  let die := homeDie ipa
  if ipa ≥ 2 ^ 52 || !(Tab.get 0 s.roots (rootKey die ipa)).getLsbD 0 then none
  else match Tab.find s.bigLeaves (nextKey die ipa) with
    | some l => if l.p && l.get 12 12 == 1 then some ⟨true, nextKey die ipa, l, ipa / 65536 % 32⟩ else none
    | none =>
      if !(Tab.get 0 s.dirs (nextKey die ipa)).getLsbD 0 then none
      else match Tab.find s.leaves (ipa / 65536) with
        | some l => if l.p then some ⟨false, ipa / 65536, l, 0⟩ else none
        | none => none

/-- A leaf entry written, in the tree that gave it. -/
def State.setLeaf (s : State) (r : PageRef) (l : Leaf) : State :=
  if r.big then { s with bigLeaves := Tab.set s.bigLeaves r.key l } else { s with leaves := Tab.set s.leaves r.key l }

/-- Where a die's tables after its root begin (log 30). -/
def tableStart : Nat := 131072

/-- A pointer entry to a table of n bytes that a die allots when it has none there (13 R252). -/
def State.allot (s : State) (die n : Nat) (old : BitVec 128) : State × BitVec 128 :=
  if old.getLsbD 0 then (s, old)
  else
    let a := Tab.get tableStart s.tableTop die
    ({ s with tableTop := Tab.set s.tableTop die (a + n) }, BitVec.ofNat 128 (1 + a / 512 % 2 ^ 43 * 512))

/-- The tables of one die above the leaf of an IPA; `big` leaves the next table's entry to a 2 MiB leaf. -/
def State.allotTables (s : State) (big : Bool) (ipa die : Nat) : State :=
  let (s, p) := s.allot die (2 ^ 22) (Tab.get 0 s.roots (rootKey die ipa))
  let s := { s with roots := Tab.set s.roots (rootKey die ipa) p }
  if big then { s with dirs := Tab.del s.dirs (nextKey die ipa) }
  else
    let (s, p) := s.allot die 512 (Tab.get 0 s.dirs (nextKey die ipa))
    { s with dirs := Tab.set s.dirs (nextKey die ipa) p }

/-- A new leaf entry for a page, by its first 64 KiB page: a 2 MiB leaf stands in the trees of all four dies (13 R252). -/
def State.putLeaf (s : State) (big : Bool) (page : Nat) (l : Leaf) : State :=
  let ipa := page * 65536
  if big then (List.range 4).foldl (fun (s : State) die =>
    { s.allotTables true ipa die with bigLeaves := Tab.set s.bigLeaves (nextKey die ipa) l }) s
  else { s.allotTables false ipa (homeDie ipa) with leaves := Tab.set s.leaves page l }

/-- The first 64 KiB page of a reference's page, and its number of 64 KiB pages. -/
def PageRef.base (r : PageRef) : Nat := if r.big then r.key % 2 ^ 31 * 32 else r.key
def PageRef.count (r : PageRef) : Nat := if r.big then 32 else 1

/-- The entries of a page removed. -/
def State.delLeaf (s : State) (r : PageRef) : State :=
  if r.big then { s with bigLeaves := s.bigLeaves.filter (fun e => e.1 % 2 ^ 31 != r.key % 2 ^ 31) }
  else { s with leaves := Tab.del s.leaves r.key }

/-- A change of every entry of a page: a 2 MiB leaf has one in each tree. -/
def State.modPage (s : State) (r : PageRef) (f : Leaf → Leaf) : State :=
  if r.big then { s with bigLeaves := s.bigLeaves.map (fun e => (e.1, if e.1 % 2 ^ 31 = r.key % 2 ^ 31 then f e.2 else e.2)) }
  else { s with leaves := s.leaves.map (fun e => (e.1, if e.1 = r.key then f e.2 else e.2)) }

/-- Whether an entry maps some of n frames of a tier. -/
def Leaf.within (l : Leaf) (tier frame n : Nat) : Bool := l.p && l.tier == tier && frame ≤ l.frame && l.frame < frame + n

/-- A change of every entry that maps the frames of a page, its aliases among them (14 R287). -/
def State.modShared (s : State) (r : PageRef) (f : Leaf → Leaf) : State :=
  let go (t : Tab Leaf) : Tab Leaf := t.map (fun e => (e.1, if e.2.within r.leaf.tier r.leaf.frame r.count then f e.2 else e.2))
  { s with leaves := go s.leaves, bigLeaves := go s.bigLeaves }

/-- The page whose frames hold those of another: itself, or a 2 MiB page that it aliases a part of (14 R287). -/
def State.wholeOf (s : State) (r : PageRef) : PageRef :=
  if r.big then r
  else match s.bigLeaves.find? (fun e => e.2.p && e.2.tier == r.leaf.tier && e.2.frame ≤ r.leaf.frame && r.leaf.frame < e.2.frame + 32) with
    | some e => ⟨true, e.1, e.2, 0⟩
    | none => r

/-- The 64 KiB pages of every mapping of a page's frames. -/
def State.sharedPages (s : State) (r : PageRef) : List Nat :=
  let hit (t : Tab Leaf) : Tab Leaf := t.filter (fun e => e.2.within r.leaf.tier r.leaf.frame r.count)
  ((Tab.keys (hit s.bigLeaves)).flatMap (fun n => (List.range 32).map (n % 2 ^ 31 * 32 + ·)) ++ Tab.keys (hit s.leaves)).eraseDups

/-- Free-page units that a page takes in a tier: a versioned page holds two slots a block in tier 0 alone (13 R251,
R266), and tiers 2 and 3 take none (13 R267). -/
def unitsAt (tier count : Nat) (v : Bool) : Nat := if tier ≥ 2 then 0 else if tier = 0 && v then 2 * count else count
def PageRef.unitsAt (r : PageRef) (tier : Nat) : Nat := Machine.unitsAt tier r.count r.leaf.v

/-- Physical bytes: the tier, the frame and the offset. Tiers 2 and 3 share the numbers of the host's images, since a change
between them moves nothing (13 R267; log 22). -/
def frameAddr (tier frame off : Nat) : Nat := min tier 2 * 2 ^ 60 + frame * 65536 + off

/-- The physical address of an IPA under its leaf entry. -/
def PageRef.pa (r : PageRef) (ipa : Nat) : Nat := frameAddr r.leaf.tier (r.leaf.frame + r.part) (ipa % 65536)

/-- The near-memory unit of an IPA (13 R250). -/
def nmuOf (ipa : Nat) : Nat :=
  let pc := Nat.xor (Nat.xor (fld ipa 14 9) (fld ipa 25 20)) (Nat.xor (fld ipa 31 26) (fld ipa 33 32))
  192 * homeDie ipa + 64 * (fld ipa 33 20 % 3) + pc

/-- The name of a leaf entry in a translation cache, and the die that holds it. -/
def PageRef.entry (r : PageRef) : Nat := 2 * r.key + (if r.big then 1 else 0)
def entryDie (e : Nat) : Nat := if e % 2 = 1 then e / 2 / 2 ^ 31 else homeDie (e / 2 * 65536)

/-- Translation caches hold 32,768 entries a home die (13 R254); the oldest leaves first (log 30). -/
def State.cacheLeaf (s : State) (r : PageRef) : State :=
  if s.tlb.contains r.entry then s
  else
    let t := s.tlb ++ [r.entry]
    let same := t.filter (fun e => entryDie e == entryDie r.entry)
    if same.length ≤ 32768 then { s with tlb := t }
    else { s with tlb := t.erase (same.headD r.entry) }

/-- Whether the translation of an IPA is cached at its home die (13 R254). -/
def State.cachedLeaf (s : State) (ipa : Nat) : Bool :=
  match s.walk ipa with
  | some r => s.tlb.contains r.entry
  | none => false

/-! Version blocks (13 R259 to R262). -/

/-- A step is open in states 1 to 7 (03 R67). -/
def State.stepOpenNow (s : State) : Bool := 1 ≤ s.stepState

def State.slotMd (s : State) (blk slot : Nat) : BitVec 14 := Tab.get 0 s.slotMeta (blk * 2 + slot)
def mdVal (m : BitVec 14) : Bool := m.getLsbD 0
def mdFin (m : BitVec 14) : Bool := m.getLsbD 1
def mdTag (m : BitVec 14) : Nat := m.toNat / 4
def mdMake (val fin : Bool) (tag : Nat) : BitVec 14 :=
  BitVec.ofNat 14 ((if val then 1 else 0) + (if fin then 2 else 0) + tag % 4096 * 4)

def State.setMd (s : State) (blk slot : Nat) (m : BitVec 14) : State :=
  { s with slotMeta := Tab.set s.slotMeta (blk * 2 + slot) m }

/-- committed(s) of 13 R261. -/
def State.committed (s : State) (m : BitVec 14) : Bool := mdVal m && (mdFin m || s.commitBits.getLsbD (mdTag m))

/-- age(s) of 13 R261. -/
def State.age (s : State) (m : BitVec 14) : Nat :=
  if mdFin m then 4096 else (s.last % 4096 + 4096 - mdTag m) % 4096

/-- newest(b) of 13 R261. -/
def State.newest (s : State) (blk : Nat) : Option Nat :=
  let a := s.slotMd blk 0
  let b := s.slotMd blk 1
  if s.committed a then (if s.committed b && s.age b < s.age a then some 1 else some 0)
  else if s.committed b then some 1 else none

/-- The slot that the open attempt has written. -/
def State.tentative (s : State) (blk : Nat) : Option Nat :=
  let isT (m : BitVec 14) : Bool := mdVal m && !mdFin m && mdTag m == s.attempt % 4096
  if isT (s.slotMd blk 0) then some 0 else if isT (s.slotMd blk 1) then some 1 else none

/-- read(b, issuer) of 13 R261: the slot read, or none for zero bytes. -/
def State.readSlot (s : State) (step : Bool) (blk : Nat) : Option Nat :=
  match (if step && 1 ≤ s.stepState && s.stepState ≤ 3 then s.tentative blk else none) with
  | some t => some t
  | none => s.newest blk

def State.slotByte (s : State) (slot pa : Nat) : Byte := if slot = 0 then s.mem0.read pa else s.mem1.read pa

def State.slotBytes (s : State) (slot : Option Nat) (pa n : Nat) : List Byte :=
  match slot with
  | some t => (if t = 0 then s.mem0 else s.mem1).reads pa n
  | none => List.replicate n 0

def State.slotWrites (s : State) (slot pa : Nat) (l : List Byte) : State :=
  if slot = 0 then { s with mem0 := s.mem0.writes pa l } else { s with mem1 := s.mem1.writes pa l }

/-- The slot that a write to a versioned block goes to, made ready (13 R262). -/
def State.writeSlot (s : State) (step : Bool) (blk : Nat) : State × Nat :=
  if step then
    match s.tentative blk with
    | some t => (s, t)
    | none =>
      let nw := s.newest blk
      let t := match nw with | some n => 1 - n | none => 0
      let s' := s.slotWrites t (blk * 512) (s.slotBytes nw (blk * 512) 512)
      (s'.setMd blk t (mdMake true false (s.attempt % 4096)), t)
  else
    match s.newest blk with
    | some n => (s, n)
    | none => ((s.slotWrites 0 (blk * 512) (List.replicate 512 0)).setMd blk 0 (mdMake true true 0), 0)

/-! Bytes of present pages. -/

/-- A byte of an unversioned page: the dirty byte of some die's L2 if there is one (log 7), else the frame's. -/
def State.plainByte (s : State) (pa : Nat) : Byte :=
  match s.l2.findSome? (fun d => Tab.find d.2 pa) with
  | some b => b
  | none => s.mem0.read pa

/-- Dirty copies of bytes removed from every L2. -/
def State.dropDirty (s : State) (pa n : Nat) : State :=
  if s.l2.isEmpty then s
  else { s with l2 := s.l2.map (fun d => (d.1, d.2.filter (fun e => e.1 < pa || pa + n ≤ e.1))) }

/-- Bytes that an access reads, within one version block when the page is versioned. -/
def State.rdBytes (s : State) (v step : Bool) (pa n : Nat) : List Byte :=
  if v then s.slotBytes (s.readSlot step (pa / 512)) pa n
  else (List.range n).map (fun k => s.plainByte (pa + k))

/-- Whether a page's lines can be dirty in an L2 (13 R245, R247, 14 R279). -/
def Leaf.dirtyL2 (l : Leaf) : Bool := !l.v && ((l.type == 0 && !l.m) || l.type == 3)

/-- The parts of a range that lie in one 64 KiB page each; the fuel is the number of parts. -/
def pageParts : Nat → Nat → Nat → List (Nat × Nat)
  | 0, _, _ => []
  | fuel + 1, lo, hi =>
    if hi ≤ lo then []
    else
      let e := min hi ((lo / 65536 + 1) * 65536)
      (lo, e - lo) :: pageParts fuel e hi

/-- Bytes written by a path other than the collective's own: the source bytes of a running collective among them are noted
(17 R344). -/
def State.hurtSources (s : State) (pa n : Nat) : State :=
  if s.gathers.isEmpty then s
  else { s with gathers := s.gathers.map (fun g =>
    { g with hurt := g.hurt ++ (pageParts (g.len / 65536 + 2) g.ipa (g.ipa + g.len)).flatMap (fun p =>
        match s.walk p.1 with
        | none => []
        | some r => (List.range n).filterMap (fun k =>
            if r.pa p.1 ≤ pa + k && pa + k < r.pa p.1 + p.2 then some (p.1 - g.ipa + (pa + k - r.pa p.1)) else none)) }) }

/-- Lines that a die's L2 can hold: 8 MiB a way, less the ways that are carved (00 R1; 13 R245, R248). -/
def State.l2Lines (s : State) (die : Nat) : Nat := (16 - Tab.get 0 s.carve die) * 65536

/-- The frames of the pages that move, and of those that the host holds: what is written back to them is held (13 R271). -/
def State.movingFrames (s : State) : List (Nat × Nat) :=
  let go (count : Nat) (t : Tab Leaf) : List (Nat × Nat) :=
    (t.filter (fun e => e.2.p && e.2.mov)).map (fun e => (frameAddr e.2.tier e.2.frame 0, count * 65536))
  [(2 * 2 ^ 60, 2 ^ 60)] ++ go 1 s.leaves ++ go 32 s.bigLeaves

/-- Dirty bytes of a range of physical addresses written back to the frame and dropped, in one die's L2; those of a page that moves
stay (13 R271). -/
def State.writeBack (s : State) (die pa n : Nat) : State :=
  let own := Tab.get [] s.l2 die
  let moving := s.movingFrames
  let goes (e : Nat × Byte) : Bool := pa ≤ e.1 && e.1 < pa + n && !moving.any (fun f => f.1 ≤ e.1 && e.1 < f.1 + f.2)
  { s with
    mem0 := applyCells s.mem0 (own.filter goes),
    l2 := Tab.set s.l2 die (own.filter (fun e => !goes e)) }

/-- The same in every L2 (13 R258). -/
def State.writeBackAll (s : State) (pa n : Nat) : State := (List.range 4).foldl (fun s d => s.writeBack d pa n) s

/-- The physical address of a sector that an L2 or a line buffer holds. -/
def State.cachedPa (s : State) (c : Cached) : Nat :=
  match s.walk (c.sector * 32) with
  | some r => r.pa (c.sector * 32)
  | none => 2 ^ 70 + c.sector * 32

/-- The lines that a die's L2 holds, dirty ones and clean ones together (13 R245). -/
def State.l2Held (s : State) (die : Nat) : List Nat :=
  let dirty : List Nat := (Tab.get ([] : Tab Byte) s.l2 die).map (fun e => e.1 / 128)
  (dirty ++ (s.cached.filter (fun c : Cached => c.holder == die)).map (fun c => s.cachedPa c / 128)).eraseDups

/-- Whether a die's L2 holds more lines than its ways. -/
def State.l2Over (s : State) (die : Nat) : Bool :=
  (Tab.get ([] : Tab Byte) s.l2 die).length + (s.cached.filter (fun c => c.holder == die)).length > s.l2Lines die && (s.l2Held die).length > s.l2Lines die

/-- An L2 that holds too many lines gives one up, its oldest clean one first (13 R245; log 7); never the line of `pa`, nor one whose
dirty bytes a move holds. -/
def State.l2Room (s : State) (die pa : Nat) : State :=
  if !s.l2Over die then s
  else
    let moving := s.movingFrames
    let may (x : Nat) : Bool := x / 128 != pa / 128 && !moving.any (fun f => f.1 ≤ x && x < f.1 + f.2)
    match (s.cached.filter (fun c => c.holder == die && may (s.cachedPa c))).head? with
    | some o =>
      let line := s.cachedPa o / 128
      let s := s.writeBack die (line * 128) 128
      { s with cached := s.cached.filter (fun c => !(c.holder == die && s.cachedPa c / 128 == line)) }
    | none => match (Tab.get [] s.l2 die).find? (fun e => may e.1) with
      | some e => s.writeBack die (e.1 / 128 * 128) 128
      | none => s

/-- Bytes that an access writes, within one version block when the page is versioned; `die` names the L2 that holds
them dirty, which gives up a line when it holds more than its ways (13 R245; log 7). -/
def State.wrBytes (s : State) (v step : Bool) (die : Option Nat) (pa : Nat) (l : List Byte) : State :=
  let s := s.hurtSources pa l.length
  if v then
    let (s, t) := s.writeSlot step (pa / 512)
    s.slotWrites t pa l
  else
    let s := s.dropDirty pa l.length
    match die with
    | some d =>
      let own := (cellsAt pa l).foldl (fun m c => Tab.set m c.1 c.2) (Tab.get [] s.l2 d)
      { s with l2 := Tab.set s.l2 d own }.l2Room d pa
    | none => { s with mem0 := s.mem0.writes pa l }

/-- Lines that the LLC of one die holds: 1,536 MiB (13 R245). -/
def llcLines : Nat := 12582912

/-- A sector fetched from its frame into the home LLC; a line that it enters with warms its page (13 R245, R268), and a full LLC
gives up its oldest line (log 7). -/
def State.fillLine (s : State) (r : PageRef) (ipa : Nat) : State :=
  let line := r.pa ipa / 128
  let bit := 2 ^ (r.pa ipa / 32 % 4)
  let own := Tab.get [] s.llc (homeDie ipa)
  match Tab.find own line with
  | some m =>
    if m / bit % 2 = 1 then s
    else { s with llc := Tab.set s.llc (homeDie ipa) (own.map (fun e => if e.1 = line then (line, m + bit) else e)) }
  | none =>
    let own := if own.length < llcLines then own else own.dropLast
    { s with llc := Tab.set s.llc (homeDie ipa) ((line, bit) :: own) }.setLeaf r (r.leaf.put 55 48 (min 255 (r.leaf.warm + 1)))

/-- Sectors of a range of frame bytes leave the LLCs. -/
def State.dropLines (s : State) (pa n : Nat) : State :=
  if s.llc.isEmpty then s
  else
    let stays (line i : Nat) : Bool := line * 128 + 32 * i + 32 ≤ pa || pa + n ≤ line * 128 + 32 * i
    let cut (e : Nat × Nat) : Nat × Nat :=
      (e.1, ((List.range 4).filter (fun i => e.2 / 2 ^ i % 2 = 1 && stays e.1 i)).foldl (fun m i => m + 2 ^ i) 0)
    { s with llc := s.llc.map (fun e => (e.1, (e.2.map cut).filter (fun x => x.2 != 0))) }

/-- A and D of the entry that answers an access (13 R256). -/
def Leaf.marked (l : Leaf) (write : Bool) : Leaf := if write then (l.put 5 5 1).put 6 6 1 else l.put 5 5 1

/-- Whether a byte lies in a span of a near-memory run that has started and not retired (16 R322). -/
def State.inSpan (s : State) (ipa : Nat) : Bool :=
  s.runs.any (fun e => e.2.started && e.2.streams.any (fun t => t.valid && t.ipa ≤ ipa && ipa < t.ipa + 512 * e.2.rows))

/-- Every mark that a performing access leaves at its home: translation cached, A and D set, the line filled; nothing is
cached for an atomic on an M page (15 R308), nor in the span of a run (16 R322). -/
def State.atHome (s : State) (ipa : Nat) (write keep : Bool) : State :=
  match s.walk ipa with
  | none => s
  | some r =>
    let r := { r with leaf := r.leaf.marked write }
    let s := (s.cacheLeaf r).setLeaf r r.leaf
    if keep && !s.inSpan ipa then s.fillLine r ipa else s.dropLines (r.pa ipa / 128 * 128) 128

/-- The marks of a maintenance operation: its translation is cached, and D is set when it writes; it fills no line, so neither A nor
WARM changes (11 R227; 13 R254, R256, R268; log 30). -/
def State.passHome (s : State) (ipa : Nat) (write : Bool) : State :=
  match s.walk ipa with
  | none => s
  | some r =>
    let r := { r with leaf := if write then r.leaf.put 6 6 1 else r.leaf }
    (s.cacheLeaf r).setLeaf r r.leaf

/-! Sectors above the home (13 R245 to R247, 14 R278, R283). -/

/-- Whether a copy holds bytes of a range within one page: under its own IPA, or under an alias of the same frame (14 R283,
R287). -/
def State.copyOfRange (s : State) (c : Cached) (ipa n : Nat) : Bool :=
  let a := c.sector * 32
  (a < ipa + n && ipa < a + 32) ||
    (a % 65536 < ipa % 65536 + n && ipa % 65536 < a % 65536 + 32 && (match s.walk ipa with
      | some r => let pa := r.pa ipa; let x := s.cachedPa c; x < pa + n && pa < x + 32
      | none => false))

/-- Copies of the sectors of a range within one page leave every line buffer and L2, or only those of one die. -/
def State.dropCached (s : State) (die : Option Nat) (ipa n : Nat) : State :=
  if s.cached.isEmpty then s
  else { s with cached := s.cached.filter (fun c =>
    !s.copyOfRange c ipa n ||
      (match die with | some d => (if c.holder < 4 then c.holder else (c.holder - 4) / 64) != d | none => false)) }

/-- The flash invalidation of every verdict: no line of a versioned page stays (13 R247). -/
def State.dropVersioned (s : State) : State := { s with cached := s.cached.filter (fun c => !c.leaf.v) }

/-- A copy that answers a read of an issuer's die or core without asking the home (13 R246); none of a versioned page while the
device is in doubt, when every access to it is held at its home (13 R265, 20 R390). -/
def State.cachedFor (s : State) (iss : Issuer) (ipa : Nat) : Option Cached :=
  s.cached.find? (fun c => c.sector == ipa / 32 && (!c.leaf.v || (c.step == iss.step && s.stepState != 5)) &&
    (match iss.path with
     | .core => c.holder == iss.core / 64 || c.holder == iss.core + 4
     | .copy | .fetch => c.holder == iss.core / 64
     | _ => false))

/-- Whether the written bit of a WOS sector is set (14 R281). -/
def State.isWritten (s : State) (pa : Nat) : Bool := Tab.get false s.written (pa / 32)

/-- Reads that wait for a WOS sector take its bytes at its perform point (14 R282). -/
def State.answerWos (s : State) (pa : Nat) : State :=
  if s.waiting.isEmpty then s
  else { s with waiting := s.waiting.map (fun w =>
    if w.cause == 7 && w.got.isNone then
      match s.walk w.ipa with
      | some r => if r.pa w.ipa / 32 = pa / 32 then { w with got := some (s.rdBytes false w.iss.step (r.pa w.ipa) w.n) } else w
      | none => w
    else w) }

/-- A written bit changed; for a step issuer the value at STEP-OPEN is kept (19 R373). -/
def State.setWritten (s : State) (step : Bool) (pa : Nat) (b : Bool) : State :=
  let k := pa / 32
  let old := Tab.get false s.written k
  let undo := if step && old != b && !(s.wosUndo.any (fun e => e.1 == k)) then s.wosUndo ++ [(k, old)] else s.wosUndo
  let s := { s with written := Tab.set s.written k b, wosUndo := undo }
  if b then s.answerWos pa else s

/-! The checks of the home die. -/

/-- Whether an access under this entry waits for a promotion to tier 0 (13 R265, R266). -/
def State.needsPromotion (s : State) (iss : Issuer) (kd : AKind) (l : Leaf) : Bool :=
  l.tier ≥ 2 || (l.v && l.tier ≠ 0 && s.stepOpenNow) ||
    (l.tier == 1 && (iss.path == .nm || (kd == .atomic && l.m && l.type == 0)))

/-- The check of an IP page (14 R284). -/
def ipCheck (iss : Issuer) (l : Leaf) : Option Nat :=
  match iss.path with
  | .coll => some fcIpPath
  | .nm | .block => some fcNmIp
  | .remote => some fcIpOwner
  | _ => if l.ownL ≠ 0 && l.ownL == iss.launch && l.ownN == iss.node then none else some fcIpOwner

/-- The page-type violations that do not depend on a sector (14 R286 to R288, 11 R227, 16 R321). -/
def State.typeCheck (s : State) (iss : Issuer) (kd : AKind) (r : PageRef) : Option Nat :=
  let l := r.leaf
  let rec' := match Tab.find s.frames (frameAddr l.tier (l.frame + r.part) 0 / 65536) with
    | some f => f.type
    | none => l.type
  if iss.path == .nm && l.type == 3 then some fcNmIp
  else if iss.path == .nm && l.type == 1 then some fcNmType
  else if rec' != l.type then some fcAliasType
  else if l.type == 3 then (match ipCheck iss l with
    | some c => some c
    | none => if kd == .rearm then some fcRearmType else none)
  else if l.type == 2 then
    (match kd with
     | .atomic => some fcTypeAtomic
     | .discard => some fcWosDiscard
     | _ => none)
  else if kd == .rearm then some fcRearmType
  else none

/-- Holds and checks of 13 R255, R258, R265, R266 and R271, in their order; an access that was accepted before a shootdown marked
its page is not held by it (13 R258, 14 R289). While a page is given up, what it holds fails with PAGE_LOST. -/
def State.pageChk (s : State) (iss : Issuer) (kd : AKind) (ipa : Nat) : Chk :=
  if s.shoots.any (fun h => h.marked && h.pages.contains (ipa / 65536) && !h.before.contains iss.key) then .held 1
  else match s.walk ipa with
    | none => .fail fcPageAbsent
    | some r =>
      let l := r.leaf
      if l.mov || s.needsPromotion iss kd l then (if s.lost.contains (ipa / 65536) then .fail fcPageLost else .held 8)
      else if l.v && s.stepState = 5 then .held 9
      else if (match kd with
        | .fetch => l.get 9 9 == 0
        | .read | .flush => l.get 7 7 == 0
        | _ => l.get 8 8 == 0) then .fail fcPagePerm
      else if (kd == .write || kd == .atomic) && l.v && !iss.step && 1 ≤ s.stepState && s.stepState ≤ 5 then
        .fail fcVersionWrite
      else match s.typeCheck iss kd r with
        | some c => .fail c
        | none => .ok r

/-! Moves of pages (13 R266 to R271). -/

/-- Frames taken from a tier: the first frame number, or none when the space does not suffice (13 R270, log 22). -/
def State.takeFrames (s : State) (tier count units : Nat) : Option (State × Nat) :=
  let free := Tab.get 0 s.freePages tier
  if free < units then none
  else
    let n := Tab.get 0 s.nextFrame tier
    let first := (n + count - 1) / count * count
    some ({ s with freePages := Tab.set s.freePages tier (free - units),
                   nextFrame := Tab.set s.nextFrame tier (first + count) }, first)

def State.giveFrames (s : State) (tier units : Nat) : State :=
  if tier ≤ 1 then { s with freePages := Tab.set s.freePages tier (Tab.get 0 s.freePages tier + units) } else s

/-- MOV set or cleared in every entry that maps a page's frames. -/
def State.setMov (s : State) (ipa : Nat) (b : Bool) : State :=
  match s.walk ipa with
  | some r => s.modShared (s.wholeOf r) (fun l => l.put 13 13 (if b then 1 else 0))
  | none => s

/-- Opens the transfers of a page, one for each 64 KiB part, with their request events (13 R267). -/
def State.openTransfers (s : State) (r : PageRef) (dirIn : Bool) (tier : Nat) : State :=
  (List.range r.count).foldl (fun s k =>
    let id := s.nextTransfer
    let page := r.base + k
    let wos := r.leaf.type == 2
    let s := { s with nextTransfer := id + 1, transfers := Tab.set s.transfers id ⟨page, dirIn, tier, wos, s.time, [], false⟩ }
    s.emit 0x87 (leBytes 4 id ++ leBytes 1 (if dirIn then 0 else 1) ++ leBytes 1 tier ++ leBytes 1 (if wos then 1 else 0) ++
      leBytes 1 0 ++ leBytes 8 (page * 65536) ++ leBytes 8 r.leaf.va.toNat ++ leBytes 8 0)) (s.setMov (r.base * 65536) true)

/-- Starts a move of a present page to tier 0 or 1 (13 R271), or a transfer out to tier 2 or 3; between tiers 2 and 3 only TIER
changes (13 R267). None when the space does not suffice. -/
def State.startMove (s : State) (r : PageRef) (tier : Nat) : Option State :=
  let r := s.wholeOf r
  if tier ≥ 2 && r.leaf.tier ≥ 2 then some (s.modShared r (fun l => l.put 11 10 tier))
  else if tier ≥ 2 then some (s.openTransfers r false tier)
  else match s.takeFrames tier r.count (r.unitsAt tier) with
    | none => none
    | some (s, f) =>
      let s := { s with moves := Tab.set s.moves r.base ⟨tier, f, Tab.get s.time s.wants r.base⟩, wants := Tab.del s.wants r.base }
      some (if r.leaf.tier ≥ 2 then s.openTransfers r true r.leaf.tier else s.setMov (r.base * 65536) true)

/-- An access that waits for a promotion starts it, unless the page moves already; without a free frame the promotion
stays wanted from then on (13 R266). -/
def State.wantPage (s : State) (iss : Issuer) (kd : AKind) (ipa : Nat) : State :=
  match s.walk ipa with
  | some r =>
    if !r.leaf.mov && s.needsPromotion iss kd r.leaf then
      let base := (s.wholeOf r).base
      match s.startMove r 0 with
      | some t => t
      | none => if (Tab.find s.wants base).isSome then s else { s with wants := Tab.set s.wants base s.time }
    else s
  | none => s

/-! Accesses that wait at memory (13 R271, R272; 14 R282, R289). -/

/-- Whether an access that has been taken down as waiting is still to perform. -/
def State.keyLive (s : State) : MemKey → Bool
  | .core c id idx => ((Tab.get Core.reset s.cores c).land).any (fun a => a.id == id && a.fault.isNone && a.elems.any (fun e => e.idx == idx && !e.done))
  | .copy c e id u _ _ =>
    let k := Tab.get Core.reset s.cores c
    (match e with | .a => k.engA | .b => k.engB).queue.any (fun q => q.id == id && !q.failed && q.next ≤ u && !q.early.contains u)
  | .row n u row _ _ => (match Tab.find s.units u with | some x => x.run == some n && x.row == row | none => false) &&
      (match Tab.find s.runs n with | some r => !r.stopped | none => false)
  | .block n _ => (match Tab.find s.runs n with | some r => !r.started && !r.stopped && r.fault.isNone | none => false)
  | .coll c id _ => ((Tab.get Core.reset s.cores c).colls).any (fun x => x.id == id && !x.done && x.fault.isNone)
  | .remote id _ => s.remote.any (fun e => e.1 == id)
  | .command req _ => s.held.any (fun e => e.1.reqId == req) || (match s.ctl with | some (.retry h _) => h.reqId == req | _ => false)
  | .fetch c => let k := Tab.get Core.reset s.cores c; k.begun && !k.stopped && !k.ended

/-- Whether a waiting access waits for a WOS sector (14 R282), and whether its page holds it (13 R271, 14 R289). -/
def MemWait.wos (w : MemWait) : Bool := w.cause == 7
def MemWait.isHeld (w : MemWait) : Bool := w.cause != 7 && w.cause != 0

/-- What names the page of an IPA whatever alias names it: the first frame of the page, 32 of them moving as one in a 2 MiB page (13
R271, 14 R287). -/
def State.pageId (s : State) (ipa : Nat) : Nat :=
  match s.walk ipa with
  | some r => let w := s.wholeOf r; frameAddr w.leaf.tier w.leaf.frame 0
  | none => 2 ^ 70 + ipa / 65536

/-- The accesses that a page held before one and that may perform now: each goes in its order of arrival (13 R271, 14 R289). One
that its page would still hold stands in nobody's way. -/
def State.ahead (s : State) (key : MemKey) (ipa : Nat) : List MemWait :=
  (s.waiting.takeWhile (fun w => w.iss.key != key)).filter (fun w =>
    w.isHeld && s.pageId w.ipa == s.pageId ipa && s.keyLive w.iss.key &&
      (match s.pageChk w.iss w.kd w.ipa with | .held _ => false | _ => true))

/-- Whether an access may perform as to those that its page held before it. -/
def State.turnAt (s : State) (key : MemKey) (ipa : Nat) : Bool := (s.ahead key ipa).isEmpty

/-- An access performs or fails: it waits no more. -/
def State.leave (s : State) (key : MemKey) : State :=
  if s.waiting.isEmpty then s else { s with waiting := s.waiting.filter (fun w => w.iss.key != key) }

/-- The waiting access of a name. -/
def State.waitOf (s : State) (key : MemKey) : Option MemWait := s.waiting.find? (fun w => w.iss.key == key)

/-- The cause under which an access waits for its turn: the one under which its page has held it, or those before it (01 R23; 14
R289). -/
def State.turnCause (s : State) (key : MemKey) (ipa : Nat) : Nat :=
  match s.waitOf key, s.ahead key ipa with
  | some w, _ => if w.isHeld then w.cause else 8
  | none, w :: _ => w.cause
  | none, [] => 8

/-- Accesses that one anchor die holds at most (13 R271). -/
def heldMax : Nat := 1024

/-- An access waits at memory under a cause: it starts the promotion that it waits for (13 R266) and takes its place, if its
home die has one left. Only an atomic queues under cause 0, at the unit that executes it (15 R309). A name that has waited at another
IPA begins anew. -/
def State.await (s : State) (iss : Issuer) (kd : AKind) (ipa n cause : Nat) : State :=
  let s := s.wantPage iss kd ipa
  if cause = 0 && kd != .atomic then s
  else match s.waitOf iss.key with
    | some w =>
      if w.ipa = ipa && w.kd = kd then
        (if w.cause = cause then s
         else
          let since := if w.wos == (cause == 7) then w.since else s.time
          { s with waiting := s.waiting.map (fun x => if x.iss.key == iss.key then { x with cause := cause, since := since } else x) })
      else { s with waiting := s.waiting.filter (fun x => x.iss.key != iss.key) ++ [⟨iss, kd, ipa, n, cause, s.time, none⟩] }
    | none =>
      let live := s.waiting.filter (fun w => s.keyLive w.iss.key)
      let held := live.filter (fun w => w.isHeld && homeDie w.ipa == homeDie ipa)
      if cause ≠ 7 && cause ≠ 0 && held.length ≥ heldMax then { s with waiting := live }
      else { s with waiting := live ++ [⟨iss, kd, ipa, n, cause, s.time, none⟩] }

/-- A change of type releases the reads that wait for a sector of its pages (14 R289). -/
def State.releaseWos (s : State) (pages : List Nat) : State :=
  { s with waiting := s.waiting.map (fun w => if w.wos && w.got.isNone && pages.contains (w.ipa / 65536) then { w with cause := 1 } else w) }

/-- The live accesses that some pages hold. -/
def State.heldAt (s : State) (pages : List Nat) : List MemKey :=
  (s.waiting.filter (fun w => w.isHeld && pages.contains (w.ipa / 65536) && s.keyLive w.iss.key)).map (fun w => w.iss.key)

/-- 1 ms of wall time (14 R282). -/
def ms1 : Nat := 1000000

/-- Whether a waiting read has waited 1 ms for its sector (14 R282). -/
def State.wosLate (s : State) (key : MemKey) : Bool :=
  match s.waitOf key with
  | some w => w.wos && w.got.isNone && s.time ≥ w.since + ms1
  | none => false

end Sys2Proof.Machine
end

