-- ==== Sys2Proof/Machine/Access.lean ====
section
/-! DEFINITION. Accesses in flight: units that perform at one instant (14 R273, R274), the orders that hold one back
(14 R275 to R280, 15 R302, R303), and why a late one is late (01 R23). -/

namespace Sys2Proof.Machine

/-- What one unit does when memory serves it. -/
inductive Perf where
  | wait (cause : Nat)
  | fail (code : Nat)
  | done (s : State) (got : List Byte)

/-- What a copy above the home says to an access: its permissions and its page's type come with the fill (13 R246). -/
def Cached.check (c : Cached) (iss : Issuer) (kd : AKind) : Option Nat :=
  if (match kd with | .fetch => c.leaf.get 9 9 == 0 | .write | .atomic => c.leaf.get 8 8 == 0 | _ => c.leaf.get 7 7 == 0) then
    some fcPagePerm
  else if c.leaf.type == 3 then ipCheck iss c.leaf
  else none

/-- A read unit at level 4 (13 R246, R261; 14 R282): a copy above the home answers it; else it waits on a sector whose
written bit is clear, and returns the bytes of that sector's perform point. -/
def State.gRead (s : State) (iss : Issuer) (ipa n : Nat) : Perf :=
  match s.cachedFor iss ipa with
  | some c => (match c.check iss .read with
    | some code => .fail code
    | none => .done s ((c.data.drop (ipa % 32)).take n))
  | none =>
    match s.waitOf iss.key with
    | some { ipa := a, got := some l, .. } =>
      if a = ipa && l.length = n then .done (s.leave iss.key) l else .wait 7
    | _ =>
      match s.pageChk iss .read ipa with
      | .held c => .wait c
      | .fail c => .fail c
      | .ok r =>
        let pa := r.pa ipa
        if !s.turnAt iss.key ipa then .wait (s.turnCause iss.key ipa)
        else if r.leaf.type == 2 && !((List.range n).all (fun k => s.isWritten (pa + k))) then .wait 7
        else
          let got := s.rdBytes r.leaf.v iss.step pa n
          .done ((s.leave iss.key).atHome ipa false true) got

/-- A sector is filled into an L2 or a line buffer from its home (13 R245 to R247; 14 R278 to R284): one of an RC page without
M, of the owner's IP page, or a written one of a WOS page; the holder gives up its oldest sector when it is full (log 7). -/
def State.keepSector (s : State) (iss : Issuer) (holder ipa : Nat) : State :=
  let sector := ipa / 32
  match s.pageChk iss .read (sector * 32) with
  | .ok r =>
    let pa := r.pa (sector * 32)
    let l := r.leaf
    let may := (l.type == 0 && !l.m) || l.type == 3 || (l.type == 2 && s.isWritten pa)
    if !may || s.inSpan ipa || s.cached.any (fun c => c.holder == holder && c.sector == sector && c.step == iss.step) then s
    else
      let own := s.cached.filter (fun c => c.holder == holder)
      let lines := ((own.map (fun c => c.sector / 4)).eraseDups.filter (· != sector / 4)).length
      let kept := match own with
        | o :: _ => if holder < 4 || lines < 64 then s.cached else s.cached.filter (fun c => !(c.holder == holder && c.sector / 4 == o.sector / 4))
        | [] => s.cached
      let t := { s.atHome ipa false true with cached := kept ++ [⟨holder, sector, l, iss.step, s.rdBytes l.v iss.step pa 32⟩] }
      if holder < 4 then t.l2Room holder pa else t
  | _ => s

/-- The line of its owner's IP page that the L2 of a core's die holds, which a write of that core or its engines finds there without
asking the home (13 R246, 14 R284). -/
def State.nearLine (s : State) (iss : Issuer) (ipa : Nat) : Option Cached :=
  if iss.path == .core || iss.path == .copy then
    s.cached.find? (fun c => c.sector == ipa / 32 && c.holder == dieOf iss.core && c.leaf.type == 3 && !c.leaf.v)
  else none

/-- A sector that an L2 holds dirty is held there whole, with the leaf entry of its fill (13 R245, R246). -/
def State.keepLine (s : State) (die : Option Nat) (iss : Issuer) (leaf : Leaf) (pa ipa : Nat) : State :=
  match die with
  | some d => { s with cached := s.cached ++ [⟨d, ipa / 32, leaf, iss.step, s.rdBytes false iss.step (pa / 32 * 32) 32⟩] }
  | none => s

/-- A write in the L2 of the owner's die to a sector that it holds. -/
def State.nearWrite (s : State) (iss : Issuer) (c : Cached) (ipa : Nat) (l : List Byte) : State :=
  match s.walk ipa with
  | some r =>
    let data := c.data.take (ipa % 32) ++ l ++ c.data.drop (ipa % 32 + l.length)
    let s := (s.wrBytes false iss.step (some (dieOf iss.core)) (r.pa ipa) l).dropCached none ipa l.length
    { s with cached := s.cached ++ [{ c with data := data }] }
  | none => s

/-- A write unit at level 4 (13 R262, 14 R278, R281): a WOS page takes whole unwritten sectors only. `home` says that it
performs at the home LLC or below and not in the writer's L2. -/
def State.gWrite (s : State) (iss : Issuer) (home : Bool) (ipa : Nat) (l : List Byte) : Perf :=
  match (if home then none else s.nearLine iss ipa) with
  | some c => (match c.check iss .write with
    | some code => .fail code
    | none => .done ((s.leave iss.key).nearWrite iss c ipa l) [])
  | none => match s.pageChk iss .write ipa with
  | .held c => .wait c
  | .fail c => .fail c
  | .ok r =>
    let pa := r.pa ipa
    if !s.turnAt iss.key ipa then .wait (s.turnCause iss.key ipa)
    else if r.leaf.type == 2 then
      if pa % 32 ≠ 0 || l.length % 32 ≠ 0 then .fail fcWosPartial
      else if (List.range (l.length / 32)).any (fun k => s.isWritten (pa + 32 * k)) then .fail fcWosRewrite
      else
        let s := s.wrBytes false iss.step none pa l
        let s := (List.range (l.length / 32)).foldl (fun s k => s.setWritten iss.step (pa + 32 * k) true) s
        .done ((s.leave iss.key).atHome ipa true true) []
    else
      let near := r.leaf.dirtyL2 && !home && (iss.path == .core || iss.path == .copy) && !s.inSpan ipa
      let die := if near then some (dieOf iss.core) else none
      let s := ((s.wrBytes r.leaf.v iss.step die pa l).dropCached none ipa l.length).keepLine die iss r.leaf pa ipa
      .done ((s.leave iss.key).atHome ipa true true) []

/-- Where an atomic on a page executes (15 R306). -/
inductive AtomPlace where
  | slice
  | home
  | near
  deriving DecidableEq, Repr

def atomPlace (l : Leaf) (sc : Scope) : AtomPlace :=
  if l.type == 3 && !l.v then .slice
  else if l.type == 0 && l.m then .near
  else if l.type == 0 && !l.v && l.tier == 0 && (sc == .gang || sc == .die) then .slice
  else .home

/-- Whether an IPA lies in a page of a type. -/
def State.onPage (s : State) (type ipa : Nat) : Bool := match s.walk ipa with | some r => r.leaf.type == type | none => false

/-- The sector of an IPA's frame. -/
def State.sectorOf (s : State) (ipa : Nat) : Nat :=
  match s.walk ipa with
  | some r => r.pa ipa / 32
  | none => 2 ^ 70 + ipa / 32

/-- Whether an atomic in the L2 slice of a core's die has read its unit in a sector there and not written it (15 R307, R309). -/
def State.halfDone (s : State) (core ipa : Nat) : Bool :=
  s.cores.any (fun e => dieOf e.1 == dieOf core && e.2.land.any (fun a =>
    (match a.kind with | .atomic _ _ _ _ _ _ => true | _ => false) && a.level == 4 &&
      a.elems.any (fun x => !x.done && !x.got.isEmpty && s.sectorOf x.loc == s.sectorOf ipa)))

/-- Whether a near-memory unit's row access has performed part of a sector and not all of it: it is whole against every atomic on the
sector (15 R308, 16 R322). -/
def State.rowHalf (s : State) (ipa : Nat) : Bool :=
  s.units.any (fun e =>
    if e.2.part.isEmpty then false
    else match e.2.run with
      | none => false
      | some n => match Tab.find s.runs n with
        | none => false
        | some r =>
          let stream := match decodeNM (r.prog.getD e.2.idx 0).toNat with | .ok (.nld _ t) => t | .ok (.nst t _) => t | _ => 8
          match r.streams[stream]? with
          | none => false
          | some t => (List.range 16).any (fun k =>
              let units := (List.range 4).filter (fun i => (Tab.find e.2.part (32 * k + 8 * i)).isSome)
              !units.isEmpty && units.length < 4 && !s.onPage 2 (t.ipa + 512 * e.2.row + 32 * k) &&
                s.sectorOf (t.ipa + 512 * e.2.row + 32 * k) == s.sectorOf ipa))

/-- Whether an atomic must wait for its sector (15 R307 to R309): for a row access that has half done it, for an atomic that its L2
slice has half done, and for those that have queued there before it. -/
def State.atomWaits (s : State) (iss : Issuer) (p : AtomPlace) (ipa : Nat) : Bool :=
  s.rowHalf ipa || (p == .slice && s.halfDone iss.core ipa) ||
    (s.waiting.takeWhile (fun w => w.iss.key != iss.key)).any (fun w =>
      w.cause == 0 && s.keyLive w.iss.key && (p != .slice || dieOf w.iss.core == dieOf iss.core) && s.sectorOf w.ipa == s.sectorOf ipa)

/-- An atomic's write of its unit, at the place where it executes. -/
def State.atomWrite (s : State) (iss : Issuer) (r : PageRef) (p : AtomPlace) (ipa : Nat) (l : List Byte) : State :=
  let near := p == .slice && r.leaf.dirtyL2 && !s.inSpan ipa
  let die := if near then some (dieOf iss.core) else none
  let s := ((s.wrBytes r.leaf.v iss.step die (r.pa ipa) l).dropCached none ipa l.length).keepLine die iss r.leaf (r.pa ipa) ipa
  (s.leave iss.key).atHome ipa true (p != .near)

/-- An atomic on a line that the L2 of its die holds of an IP page: it executes there under the leaf of the fill (13 R246, 15 R306). -/
def State.nearAtomic (s : State) (iss : Issuer) (c : Cached) (ipa n : Nat) (f : List Byte → List Byte) : Perf :=
  match c.check iss .atomic with
  | some code => .fail code
  | none =>
    if s.atomWaits iss .slice ipa then .wait 0
    else
      let old := (c.data.drop (ipa % 32)).take n
      .done ((s.leave iss.key).nearWrite iss c ipa (f old)) old

/-- COPYR's update of an element at level 4, of scope `.grp` (12 R236, 15 R306): indivisible where such an atomic executes. The
bytes returned are the old ones. -/
def State.gUpdate (s : State) (iss : Issuer) (ipa n : Nat) (f : List Byte → List Byte) : Perf :=
  match s.nearLine iss ipa with
  | some c => s.nearAtomic iss c ipa n f
  | none => match s.pageChk iss .atomic ipa with
  | .held c => .wait c
  | .fail c => .fail c
  | .ok r =>
    if !s.turnAt iss.key ipa then .wait (s.turnCause iss.key ipa)
    else if s.atomWaits iss (atomPlace r.leaf .grp) ipa then .wait 0
    else
      let old := s.rdBytes r.leaf.v iss.step (r.pa ipa) n
      .done (s.atomWrite iss r (atomPlace r.leaf .grp) ipa (f old)) old

/-- An atomic at level 4 (11 R225, 15 R306 to R308): indivisible in the unit that executes it. The bytes returned are the
old ones; the flag says that an infinity is written from finite operands. -/
def State.gAtomic (s : State) (iss : Issuer) (sc : Scope) (op : AtomOp) (v cmp nan : Word) (ipa : Nat) : Perf × Bool :=
  let new (old : List Byte) : Word × Bool := atomNew op (BitVec.ofNat 64 (ofLe old)) v cmp nan
  match s.nearLine iss ipa with
  | some c => (s.nearAtomic iss c ipa 8 (fun old => leBytes 8 (new old).1.toNat), (new ((c.data.drop (ipa % 32)).take 8)).2)
  | none => match s.pageChk iss .atomic ipa with
  | .held c => (.wait c, false)
  | .fail c => (.fail c, false)
  | .ok r =>
    let p := atomPlace r.leaf sc
    if !s.turnAt iss.key ipa then (.wait (s.turnCause iss.key ipa), false)
    else if s.atomWaits iss p ipa then (.wait 0, false)
    else
      let old := s.rdBytes r.leaf.v iss.step (r.pa ipa) 8
      let (new, ovf) := atomNew op (BitVec.ofNat 64 (ofLe old)) v cmp nan
      (.done (s.atomWrite iss r p ipa (leBytes 8 new.toNat)) old, ovf)

/-- The second half of an atomic in an L2 slice, which has read its unit and writes it through as an RC write does: another
write may have fallen between (15 R307). -/
def State.gAtomicEnd (s : State) (iss : Issuer) (op : AtomOp) (v cmp nan : Word) (ipa : Nat) (old : List Byte) : Perf × Bool :=
  let (new, ovf) := atomNew op (BitVec.ofNat 64 (ofLe old)) v cmp nan
  match s.nearLine iss ipa with
  | some c => (.done ((s.leave iss.key).nearWrite iss c ipa (leBytes 8 new.toNat)) old, ovf)
  | none => match s.pageChk iss .atomic ipa with
    | .held c => (.wait c, false)
    | .fail c => (.fail c, false)
    | .ok r => (.done (s.atomWrite iss r .slice ipa (leBytes 8 new.toNat)) old, ovf)

/-- FLUSH, DISCARD and REARM over bytes of one page (11 R227). -/
def State.gMaint (s : State) (iss : Issuer) (op : MaintOp) (ipa n : Nat) : Perf :=
  let kd : AKind := match op with | .flush => .flush | .discard => .discard | .rearm => .rearm
  match s.pageChk iss kd ipa with
  | .held c => .wait c
  | .fail c => .fail c
  | .ok r =>
    let pa := r.pa ipa
    let die := dieOf iss.core
    if !s.turnAt iss.key ipa then .wait (s.turnCause iss.key ipa)
    else match op with
      | .flush => .done (((((s.writeBack die pa n).dropCached (some die) ipa n).leave iss.key)).passHome ipa false) []
      | .discard =>
        let own := (Tab.get [] s.l2 die).filter (fun e => e.1 < pa || pa + n ≤ e.1)
        let t := if (Tab.get [] s.l2 die).isEmpty then s else { s with l2 := Tab.set s.l2 die own }
        .done (((if r.leaf.dirtyL2 then t.dropCached (some die) ipa n else s).leave iss.key).passHome ipa false) []
      | .rearm =>
        let s := (List.range (n / 32)).foldl (fun s k => s.setWritten iss.step (pa + 32 * k) false) s
        .done (((s.dropCached none ipa n).leave iss.key).passHome ipa true) []

/-- The issuer of an access of a core or one of its engines. -/
def Core.issuer (k : Core) (c : Nat) (step : Bool) (path : APath) (key : MemKey) : Issuer :=
  match k.occ with
  | some o => ⟨step, o.launch, o.node, c, path, key⟩
  | none => ⟨step, 0, 0, c, path, key⟩

/-- The core and offset that a level-2 or level-3 location names (11 R208, 13 R249). -/
def State.localPlace (s : State) (c level loc : Nat) : Nat × Nat :=
  let first := match (s.core c).occ with | some o => o.first | none => c
  if level = 2 then (first + loc / 2 ^ 22, loc % 2 ^ 22)
  else
    let sl := dsSlice s (dieOf c)
    if sl = 0 then (first, loc) else (first + loc / sl, loc % sl)

/-- The place where two accesses to a common byte meet: physical for mapped pages. -/
def State.placeKey (s : State) (level loc : Nat) : Nat :=
  if level = 4 then (match s.walk loc with | some r => r.pa loc | none => 2 ^ 70 + loc) else loc

def AccKind.mask : AccKind → Nat
  | .load => 1
  | .atomic _ _ _ _ _ _ => 3
  | .store => 2
  | .maint _ _ => 2
  | .bwait _ _ => 0
  | .btoken _ => 0

/-- A memory access of the core path at levels 2 to 4 with a unit that has not performed. -/
def Access.open (a : Access) : Bool := a.kind.mask ≠ 0 && a.elems.any (fun e => !e.done)

/-- Work of a path that issued before a point and has not performed (15 R303). -/
def State.pathBusy (s : State) (c path ord before : Nat) (locals : Bool) : Bool :=
  let k := s.core c
  match path with
  | 0 => k.land.any (fun a => a.id < ord && a.open && Nat.land a.kind.mask before ≠ 0) ||
         (locals && k.inFlight.any (fun p => p.ord < ord && (match p.eff with | .bytes _ _ => true | .atom _ _ _ _ _ _ => true | _ => false)))
  | 1 => k.engA.queue.any (fun q => q.id < ord)
  | 2 => k.engB.queue.any (fun q => q.id < ord)
  | 3 => k.mxReads.any (fun x => x.id < ord && x.upto > k.now) || k.drains.any (fun d => d.id < ord && d.due > k.now)
  | 4 => k.nmRuns.any (fun n => match Tab.find s.runs n with | some r => r.id < ord | none => false)
  | 5 => k.colls.any (fun x => x.id < ord && !x.done)
  | _ => k.lqSent.any (fun e => e.1 < ord && (e.2.1 < 6 || e.2.2 > k.now))

/-- Whether a fence of the core holds work of a path that issued at `ord` (15 R302, R303). -/
def State.fenceHolds (s : State) (c path ord mask : Nat) : Bool :=
  (s.core c).fences.any (fun f =>
    f.p2 = path && f.ord < ord && (path ≠ 0 || Nat.land mask f.after ≠ 0) &&
      s.pathBusy c f.p1 f.ord f.before (f.before = 4 + 3 || f.p1 ≠ 0 || f.p2 ≠ 0))

/-- Whether a place at memory lies in a page of a type. -/
def State.onType (s : State) (level loc type : Nat) : Bool :=
  level == 4 && s.onPage type loc

/-- Whether two places at a level have a common byte. -/
def State.meets (s : State) (level a n b m : Nat) : Bool :=
  let x := s.placeKey level a
  let y := s.placeKey level b
  y < x + n && x < y + m

/-- Whether an access of the core path at a place stands before another of its path at another place, by the rules of 14
R275 and R277, R280, 11 R215 and, for a page that moves or has held the later one, 13 R272. An SC access orders RC, IP,
level-2 and level-3 accesses with itself, and no WOS access. -/
def State.ordered (s : State) (heldNow : Bool) (lv loc n lv' loc' n' : Nat) : Bool :=
  let sc := s.onType lv loc 1
  let sc' := s.onType lv' loc' 1
  (sc && !s.onType lv' loc' 2) || (sc' && !s.onType lv loc 2) ||
  (lv == lv' && (lv == 3 || (lv == 2 && loc / 2 ^ 22 == loc' / 2 ^ 22) || s.meets lv loc n loc' n' ||
    (heldNow && lv == 4 && s.pageId loc == s.pageId loc')))

/-- Whether an earlier access of the core path must perform before a unit of this one (14 R275, R277, R280; 11 R215, R218,
R227; 13 R272; 18 R359). Where elements of one store meet, the highest index is written last; `own` are the elements that
perform in the same unit. -/
def State.mustWait (s : State) (c : Nat) (a : Access) (own : List Nat) (e : Elem) : Bool :=
  let k := s.core c
  let heldNow := a.level = 4 && (match s.waitOf (.core c a.id e.idx) with
    | some w => w.isHeld
    | none => (match s.walk e.loc with | some r => r.leaf.mov | none => false))
  k.resend.any (fun id => id < a.id && k.land.any (fun b => b.id = id && b.open)) ||
  k.land.any (fun b => b.id < a.id && b.open && b.elems.any (fun x => !x.done && s.ordered heldNow b.level x.loc x.n a.level e.loc e.n)) ||
  (a.kind == .store && a.elems.any (fun x => x.idx < e.idx && !x.done && !own.contains x.idx && s.meets a.level x.loc x.n e.loc e.n)) ||
  s.fenceHolds c 0 a.id a.kind.mask

/-- The kind of an access as the home die checks it. -/
def AccKind.akind : AccKind → AKind
  | .load => .read
  | .atomic _ _ _ _ _ _ => .atomic
  | .maint .flush _ => .flush
  | .maint .discard _ => .discard
  | .maint .rearm _ => .rearm
  | _ => .write

/-- What one unit covers: its place, its length, and the elements with their places in it (14 R273). On a WOS page a store's
unit is the sector and a load's the aligned 8 bytes, over every element of the access in it. -/
structure Span4 where
  loc : Nat
  n : Nat
  els : List (Nat × Nat × Nat)
  deriving DecidableEq, Repr

def spanAt (a : Access) (base n : Nat) : Span4 :=
  ⟨base, n, (a.elems.filter (fun x => base ≤ x.loc && x.loc + x.n ≤ base + n)).map (fun x => (x.idx, x.loc - base, x.n))⟩

def State.unitOf (s : State) (a : Access) (e : Elem) : Span4 :=
  if s.onType a.level e.loc 2 then
    match a.kind with
    | .load => spanAt a (e.loc / 8 * 8) 8
    | .store => spanAt a (e.loc / 32 * 32) 32
    | _ => ⟨e.loc, e.n, [(e.idx, 0, e.n)]⟩
  else ⟨e.loc, e.n, [(e.idx, 0, e.n)]⟩

/-- The bytes that a store's elements give to a unit, the highest index last; none when they leave a gap. -/
def unitData (a : Access) (u : Span4) : Option (List Byte) :=
  let m : Tab Byte := (a.elems.filter (fun x => u.els.any (fun y => y.1 = x.idx))).foldl (fun m x =>
    (cellsAt x.loc x.data).foldl (fun m c => Tab.set m c.1 c.2) m) []
  let l := (List.range u.n).filterMap (fun i => Tab.find m (u.loc + i))
  if l.length = u.n then some l else none

/-- Whether an element of an access meets a page whose type is not its frame's (14 R288). -/
def State.aliasAt (s : State) (iss : Issuer) (a : Access) (x : Elem) : Bool :=
  match s.pageChk iss a.kind.akind x.loc with | .fail code => code == fcAliasType | _ => false

/-- Whether another element of the access meets such a page and this one does not: no byte of the access performs, and the access
fails at the other (14 R288). -/
def State.aliasElse (s : State) (iss : Issuer) (a : Access) (e : Elem) : Bool :=
  !s.aliasAt iss a e && a.elems.any (fun x => x.idx != e.idx && s.aliasAt iss a x)

/-- Whether an earlier access holds back a unit: its element, or another that it covers. -/
def State.unitWaits (s : State) (c : Nat) (a : Access) (e : Elem) (u : Span4) : Bool :=
  let own := u.els.map (·.1)
  s.mustWait c a own e || a.elems.any (fun x => own.contains x.idx && s.mustWait c a own x)

/-- One unit of an access tried at memory, and what it covers; the flag is OVF (07 R146). -/
def State.tryUnit (s : State) (c : Nat) (a : Access) (e : Elem) : Perf × Span4 × Bool :=
  let u := s.unitOf a e
  if s.unitWaits c a e u then (.wait 0, u, false)
  else if a.level = 4 then
    let iss := (s.core c).issuer c a.step .core (.core c a.id e.idx)
    if s.aliasElse iss a e then (.wait 0, u, false)
    else match a.kind with
    | .load => (s.gRead iss u.loc u.n, u, false)
    | .atomic op sc v cmp nan _ =>
      let (p, o) := if e.got.isEmpty then s.gAtomic iss sc op v cmp nan e.loc else s.gAtomicEnd iss op v cmp nan e.loc e.got
      (p, u, o)
    | .maint op _ => (s.gMaint iss op e.loc e.n, u, false)
    | _ => (match unitData a u with
      | some l => (s.gWrite iss false u.loc l, u, false)
      | none => (match s.gWrite iss false e.loc e.data with
        | .done _ _ => (.fail fcWosPartial, u, false)
        | p => (p, u, false)))
  else
    let (t, off) := s.localPlace c a.level e.loc
    let lv := if a.level = 2 then 0 else 2
    match a.kind with
    | .load => (.done s (((s.core t).lm lv).reads off e.n), u, false)
    | .atomic op _ v cmp nan _ =>
      let old := ((s.core t).lm lv).reads off 8
      let (new, ovf) := atomNew op (BitVec.ofNat 64 (ofLe old)) v cmp nan
      (.done (s.localWrite t lv (cellsAt off (leBytes 8 new.toNat))) old, u, ovf)
    | _ => (.done (s.localWrite t lv (cellsAt off e.data)) [], u, false)

/-- An access of the core replaced. -/
def Core.setAccess (k : Core) (a : Access) : Core := { k with land := k.land.map (fun b => if b.id = a.id then a else b) }

/-- Whether an access writes (18 R352). -/
def AccKind.writes : AccKind → Bool
  | .load => false
  | .atomic _ _ _ _ _ _ => true
  | .store => true
  | .maint op _ => op != .flush
  | .bwait _ _ => false
  | .btoken _ => false

/-- The record of an access that fails at memory (18 R352). -/
def accFault (a : Access) (e : Elem) (code : Nat) : FaultRec :=
  { code := code, slot := a.slot, data := true, write := a.kind.writes, addr := e.va,
    ipa := if a.level = 4 then e.loc else 0, access := some a.id }

/-- A step issuer that raises a fault sets FAULT at once (18 R350), except for TRAP. -/
def State.noteFault (s : State) (step : Bool) (code : Nat) : State :=
  if step && code ≠ fcTrap then s.pennonOr 16 else s

/-- An access one unit of which memory has answered with nothing done. -/
def Access.answered (a : Access) (idx : Nat) : Access :=
  { a with elems := a.elems.map (fun x => if x.idx = idx then { x with done := true } else x) }

/-- One unit performs, fails or waits; of an access that has failed none does until it is sent again (18 R359). A failure answers a killed task's write and raises nothing (18 R351, 19 R370). -/
def State.performElem (s : State) (c id idx : Nat) : State :=
  match (s.core c).land.find? (fun a => a.id = id) with
  | none => s
  | some a =>
    match a.elems.find? (fun e => e.idx = idx) with
    | none => s
    | some e =>
      if e.done || a.fault.isSome then s
      else match s.tryUnit c a e with
        | (.wait cause, u, _) =>
          if a.level = 4 && !(s.unitWaits c a e u) then
            s.await ((s.core c).issuer c a.step .core (.core c a.id idx)) a.kind.akind u.loc u.n cause
          else s
        | (.fail code, _, _) =>
          let a' := { a with fault := some (accFault a e code) }
          let s := s.leave (.core c id idx)
          if (s.core c).killed then s.modCore c (fun k => k.setAccess (a.answered idx))
          else (s.modCore c (fun k => k.setAccess a')).noteFault a.step code
        | (.done s got, u, ovf) =>
          let a' := { a with elems := a.elems.map (fun x => match u.els.find? (fun y => y.1 = x.idx) with
            | some y => { x with done := true, got := (got.drop y.2.1).take y.2.2 }
            | none => x) }
          let s := s.modCore c (fun k => k.setAccess a')
          if ovf && a.step then s.pennonOr 4 else s

/-- The first half of an atomic in an L2 slice: it reads its unit (15 R307). -/
def State.halfElem (s : State) (c id idx : Nat) : State :=
  match (s.core c).land.find? (fun a => a.id = id) with
  | none => s
  | some a => match a.kind, a.elems.find? (fun e => e.idx = idx) with
    | .atomic _ sc _ _ _ _, some e =>
      let iss := (s.core c).issuer c a.step .core (.core c id idx)
      let read (s : State) (got : List Byte) : State := s.modCore c (fun k => k.setAccess { a with elems := a.elems.map (fun x =>
        if x.idx = idx then { x with got := got } else x) })
      if e.done || a.fault.isSome || !e.got.isEmpty || a.level ≠ 4 || s.mustWait c a [idx] e || s.atomWaits iss .slice e.loc then s
      else match s.nearLine iss e.loc with
        | some x => (match x.check iss .atomic with
          | some _ => s
          | none => read (s.leave iss.key) ((x.data.drop (e.loc % 32)).take 8))
        | none => match s.pageChk iss .atomic e.loc with
          | .ok r =>
            if atomPlace r.leaf sc != .slice || !s.turnAt iss.key e.loc then s
            else read ((s.leave iss.key).atHome e.loc true true) (s.rdBytes r.leaf.v iss.step (r.pa e.loc) 8)
          | _ => s
    | _, _ => s

/-- Every unit of an access that can perform does, in element order, or only the one named (log 8). -/
def State.performAccess (s : State) (c id : Nat) (unit : Option Nat) : State :=
  match (s.core c).land.find? (fun a => a.id = id) with
  | none => s
  | some a =>
    match unit with
    | some u => s.performElem c id u
    | none => a.elems.foldl (fun s e => s.performElem c id e.idx) s

/-- The cause under which a core counts the wait for an access (01 R23, 13 R254, R271, 14 R282, R289). -/
def State.lateCause (s : State) (c : Nat) (a : Access) : Nat :=
  let causes := (a.elems.filter (fun e => !e.done)).map (fun e =>
    match s.tryUnit c a e with
    | (.wait w, _, _) => if w = 0 && a.walk then 1 else w
    | _ => if a.walk then 1 else 0)
  match causes with
  | [] => 0
  | x :: r => r.foldl min x

/-- Landing-buffer entries in use (01 R22, 12 R230, 16 R320, 17 R340). -/
def Core.entries (k : Core) : Nat :=
  k.land.length + k.engA.queue.length + k.engB.queue.length + k.nmRuns.length + k.colls.length

/-! Barriers (15 R293 to R301). -/

/-- The three fields of a barrier. -/
structure Bar where
  expect : Nat
  arrived : Nat
  phase : Nat
  deriving DecidableEq, Repr

def State.bar (s : State) (b : BarLoc) : Bar :=
  let w := ofLe ((s.core b.core).sp.reads b.off 16)
  ⟨fld w 47 0, fld w 95 48, fld w 127 96⟩

/-- The completion loop of 15 R295. -/
def Bar.complete (b : Bar) : Bar :=
  if b.expect = 0 then b
  else ⟨b.expect, b.arrived % b.expect, (b.phase + b.arrived / b.expect) % 2 ^ 32⟩

def sat48 (n : Nat) : Nat := min n (2 ^ 48 - 1)

/-- One update (15 R295, R300). -/
def Bar.update (b : Bar) : BarUpd → Bar
  | .init n => Bar.complete ⟨n, 0, b.phase⟩
  | .expect n => Bar.complete { b with expect := sat48 (b.expect + n) }
  | .arrive n => Bar.complete { b with arrived := sat48 (b.arrived + n) }

/-- An update applied to the barrier's bytes. -/
def State.barApply (s : State) (b : BarLoc) (u : BarUpd) : State :=
  let x := (s.bar b).update u
  let cells := cellsAt b.off (leBytes 16 (x.expect + x.arrived * 2 ^ 48 + x.phase * 2 ^ 96))
  let s := if (s.core b.core).mxReads.isEmpty then s else s.disturb b.core (cells.map (·.1))
  s.modCore b.core (fun k => { k with sp := applyCells k.sp cells })

/-- Whether a token has passed, and its distance (15 R301). -/
def barDist (phase tok : Nat) : Nat := (phase + 2 ^ 32 - tok % 2 ^ 32) % 2 ^ 32
def State.barPassed (s : State) (b : BarLoc) (tok : Nat) : Bool := barDist (s.bar b).phase tok < 2 ^ 31

/-- Whether an operation of a core on a barrier must wait for earlier ones (15 R296): one issued before `id` is still
waiting to apply. -/
def State.barWaits (s : State) (c id : Nat) (b : BarLoc) : Bool := (s.core c).barq.any (fun o => o.id < id && o.bar = b)

/-- Whether a queued update can apply: the earlier ones on its barrier have, and a BARRIVE also waits for every earlier
access of the core path (15 R296, R300). -/
def State.barReady (s : State) (c : Nat) (o : BarOp) : Bool :=
  !(s.barWaits c o.id o.bar) &&
  (match o.upd with
   | .arrive _ => !(s.pathBusy c 0 o.id 3 true)
   | _ => true)

/-- Applies a queued update. -/
def State.barStep (s : State) (c id : Nat) : State :=
  match (s.core c).barq.find? (fun o => o.id = id) with
  | none => s
  | some o =>
    if s.barReady c o then
      (s.modCore c (fun k => { k with barq := k.barq.filter (fun x => x.id ≠ id) })).barApply o.bar o.upd
    else s

/-- Sends an update: it applies at issue unless it must wait (15 R300). -/
def State.barSend (s : State) (c id : Nat) (b : BarLoc) (u : BarUpd) : State :=
  (s.modCore c (fun k => { k with barq := k.barq ++ [⟨id, b, u⟩] })).barStep c id

/-! Readiness of what a core waits for. -/

/-- The data of a returning entry when they are present: the value of a barrier entry is read when it applies. -/
def State.accValue (s : State) (c : Nat) (a : Access) : Option Word :=
  match a.kind with
  | .bwait b tok =>
    if s.barWaits c a.id b then none
    else if s.barPassed b tok.toNat then some (BitVec.ofNat 64 (barDist (s.bar b).phase tok.toNat)) else none
  | .btoken b => if s.barWaits c a.id b then none else some (BitVec.ofNat 64 (((s.bar b).phase + 1) % 2 ^ 32))
  | _ => if a.open then none else (match a.elems with | e :: _ => some (BitVec.ofNat 64 (ofLe e.got)) | [] => some 0)

/-- The landing of a complete entry as a result (11 R221, R225, 15 R301). -/
def State.accEff (s : State) (c : Nat) (a : Access) : Option Eff :=
  match a.dest with
  | .none => none
  | .scalar r => (s.accValue c a).map (fun v => .scalar r v)
  | .vector r w =>
    if a.open then none else some (.vector r
      (BitVec.ofNat 512 (a.elems.foldl (fun m e => m + (2 ^ w - 1) * 2 ^ (e.idx * w)) 0))
      (BitVec.ofNat 4096 (a.elems.foldl (fun m e => m + ofLe e.got * 2 ^ (8 * e.idx * w)) 0)))

end Sys2Proof.Machine
end

