-- ==== Sys2Proof/Machine/Land.lean ====
section
/-! DEFINITION. Fetch (05 R82 to R86) and the landing of results (06 R105, R106). -/

namespace Sys2Proof.Machine

/-- What the fetch of a parcel gives: a wait under a cause, a failure with its IPA, or the parcel. -/
inductive Fetch where
  | held (cause ipa : Nat)
  | fail (code ipa : Nat)
  | ok (parcel : Nat)
  deriving DecidableEq, Repr

/-- The issuer of a core's fetches. -/
def State.fetchIssuer (s : State) (c : Nat) : Issuer := (s.core c).issuer c (s.core c).isStep .fetch (.fetch c)

/-- A parcel read at its home (13 R255): it waits as any read does, on an unwritten sector for at most 1 ms (14 R282, R286). -/
def State.fetchHome (s : State) (c ipa : Nat) : Fetch :=
  let iss := s.fetchIssuer c
  match s.pageChk iss .fetch ipa with
  | .held w => .held w ipa
  | .fail code => .fail code ipa
  | .ok r =>
    let pa := r.pa ipa
    if !s.turnAt iss.key ipa then .held (s.turnCause iss.key ipa) ipa
    else if r.leaf.type == 2 && !s.isWritten pa then (if s.wosLate iss.key then .fail fcWosWait ipa else .held 7 ipa)
    else .ok (ofLe (s.rdBytes r.leaf.v (s.core c).isStep pa 4))

/-- The parcel at a virtual address (05 R85, R88), or of the handler's image in the shadow context (18 R354). -/
def State.fetchParcel (s : State) (c : Nat) (va : Word) : Fetch :=
  let k := s.core c
  if k.shadow.isSome then .ok (s.fw.handler.getD (va.toNat / 4) 0).toNat
  else match translate s.deviceId k.rg va .fetch false with
    | .error code => .fail code 0
    | .ok (_, ipa) =>
      let iss := s.fetchIssuer c
      match s.cachedFor iss ipa with
      | some x => (match x.check iss .fetch with
        | some code => .fail code ipa
        | none => .ok (ofLe ((x.data.drop (ipa % 32)).take 4)))
      | none => match s.waitOf iss.key with
        | some { ipa := a, got := some l, .. } => if a = ipa then .ok (ofLe l) else s.fetchHome c ipa
        | _ => s.fetchHome c ipa

/-- A bundle's address in the loop buffer (05 R101). -/
def bufFind (l : List BufBundle) (pc : Word) : Option (List Nat) := (l.find? (fun b => b.pc = pc)).map (·.parcels)

/-- The parcel at an index of the bundle due: from the loop buffer when it holds the bundle, also for the delay bundle
of a branch that has ended the loop (05 R101, R103), else by fetch. -/
def State.parcelAt (s : State) (c : Nat) (pc : Word) (n : Nat) : Fetch :=
  let k := s.core c
  match (if k.shadow.isNone && (k.loop.active || k.delay.isSome) then bufFind k.loop.body pc else none) with
  | some ps => .ok (ps.getD n 0)
  | none => s.fetchParcel c (pc + BitVec.ofNat 64 (4 * n))

/-- The marks of a fetch at its home (13 R256, R268): those of the bundle's first and last parcel, unless the loop buffer gave
them. -/
def State.fetchMark (s : State) (c : Nat) (pc : Word) (parcels : Nat) : State :=
  let k := s.core c
  if k.loop.active && (bufFind k.loop.body pc).isSome then s
  else [pc, pc + BitVec.ofNat 64 (4 * parcels)].foldl (fun s va =>
    match translate s.deviceId k.rg va .fetch false with
    | .ok (_, ipa) => if (s.cachedFor (s.fetchIssuer c) ipa).isSome then s else s.atHome ipa false true
    | .error _ => s) s

/-- The length of the bundle at an address, if its header can be read (05 R83). -/
def State.bundleLen (s : State) (c : Nat) (pc : Word) : Option Nat :=
  match s.parcelAt c pc 0 with
  | .ok w => (match decodeHeader w with | .ok h => some h.bytes | .error _ => none)
  | _ => none

/-- A memory with masked bytes written in turn: two elements may share a byte (10 R203). -/
def mergeCells (m : Mem) (cells : List (Nat × Byte × Byte)) : Mem :=
  cells.foldl (fun m e => m.write e.1 (mergeBits (m.read e.1) e.2.1 e.2.2)) m

/-- The bytes of a level-0 load in flight as its core's atomics in flight leave them (11 R217): each byte of the atomic's
word that the load returns is read again. -/
def Core.peekAt (k : Core) (off ord : Nat) (q : Peek) : Peek :=
  if q.ord ≤ ord || q.level ≠ 0 || !(q.got.any (fun e => e.2.1 < off + 8 && off < e.2.1 + e.2.2.length)) then q
  else
    let m := k.view 0 q.ord
    { q with got := q.got.map (fun e =>
        (e.1, e.2.1, (List.range e.2.2.length).zip e.2.2 |>.map (fun b =>
          if off ≤ e.2.1 + b.1 && e.2.1 + b.1 < off + 8 then m.read (e.2.1 + b.1) else b.2))) }

/-- What a load at level 0 or 1 lands (11 R217, R221). -/
def landEff (dest : Dest) (got : List (Nat × List Byte)) : Eff :=
  match dest with
  | .vector r w => .vector r
      (BitVec.ofNat 512 (got.foldl (fun m e => m + (2 ^ w - 1) * 2 ^ (e.1 * w)) 0))
      (BitVec.ofNat 4096 (got.foldl (fun m e => m + ofLe e.2 * 2 ^ (8 * e.1 * w)) 0))
  | .scalar r => .scalar r (BitVec.ofNat 64 (match got with | e :: _ => ofLe e.2 | [] => 0))
  | .none => .bytes 0 []

/-- A load's result with the bytes that its peek now holds. -/
def Peek.into (q : Peek) (p : Pend) : Pend :=
  if p.due = q.due && p.ord = q.ord then
    (match q.dest, p.eff with
     | .scalar r, .scalar x _ => if x = r then { p with eff := landEff q.dest (q.got.map (fun e => (e.1, e.2.2))) } else p
     | .vector r _, .vector x _ _ => if x = r then { p with eff := landEff q.dest (q.got.map (fun e => (e.1, e.2.2))) } else p
     | _, _ => p)
  else p

/-- The core's later loads take the word that an atomic has just written (11 R217). -/
def Core.repeek (k : Core) (off ord : Nat) : Core :=
  if k.peeks.isEmpty then k
  else
    let qs := k.peeks.map (k.peekAt off ord)
    { k with peeks := qs }.mapFlight (fun p => qs.foldl (fun (p : Pend) (q : Peek) => q.into p) p)

/-- An atomic at level 0 performs (11 R212, R217, R225): the old value, and whether it wrote an infinity from finite
operands. -/
def State.performAtom (s : State) (c ord off : Nat) (op : AtomOp) (v cmp nan : Word) : State × Word × Bool :=
  let k := s.core c
  let old := (k.view 0 ord).word off
  let (new, ovf) := atomNew op old v cmp nan
  let cells := cellsAt off (leBytes 8 new.toNat)
  let s := (s.setCore c (k.mapFlight (Pend.cut ord 0 (cells.map (·.1))))).spWrite c cells
  (s.modCore c (fun k => k.repeek off ord), old, ovf)

/-- One result lands in a core (06 R105, R106). -/
def State.applyEff (s : State) (c : Nat) (p : Pend) : State :=
  match p.eff with
  | .scalar r v => s.modCore c (fun k => k.setS r v)
  | .vector r mask v =>
    s.modCore c (fun k => { k with v := Tab.set k.v r (mergeBits (Tab.get 0 k.v r) (byteMask mask) v) })
  | .pred r mask v =>
    if r = 0 then s else s.modCore c (fun k => { k with p := Tab.set k.p r (mergeBits (Tab.get 0 k.p r) mask v) })
  | .index n v => s.modCore c (fun k => { k with j := Tab.set k.j n v })
  | .acc a v => s.modCore c (fun k => { k with acc := Tab.set k.acc a v, accBad := k.accBad.filter (· != a) })
  | .table t mask v => s.modCore c (fun k => { k with tt := Tab.set k.tt t (mergeBits (Tab.get 0 k.tt t) mask v) })
  | .origin t v =>
    s.modCore c (fun k =>
      let e := Tab.get 0 k.tt t
      let mask : Wide := BitVec.ofNat 512 ((2 ^ 33 - 1) * 2 ^ 448)
      let x := mergeBits e mask (BitVec.ofNat 512 ((v.toNat + 2 ^ 32) * 2 ^ 448))
      if e.getLsbD 480 then k else { k with tt := Tab.set k.tt t x })
  | .shape .a n mask v => s.modCore c (fun k => { k with shA := Tab.set k.shA n (mergeBits (Tab.get 0 k.shA n) mask v) })
  | .shape .b n mask v => s.modCore c (fun k => { k with shB := Tab.set k.shB n (mergeBits (Tab.get 0 k.shB n) mask v) })
  | .bytes level cells =>
    (s.modCore c (fun k => { k with pend := cutOlder p.ord level (cells.map (·.1)) k.pend })).localWrite c level cells
  | .drain cells =>
    let m := mergeCells (s.core c).sp cells
    s.spWrite c (cells.map (fun e => (e.1, m.read e.1)))
  | .atom dest off op v cmp nan =>
    let (s, old, ovf) := s.performAtom c p.ord off op v cmp nan
    let s := match dest with | some r => s.modCore c (fun k => k.setS r old) | none => s
    if ovf && (s.core c).isStep then s.pennonOr 4 else s
  | .pennon b => s.pennonOr b
  | .stepend => if s.stepState = 2 then { s with stepState := 3 } else s
  | .link =>
    s.modCore c (fun k => match s.bundleLen c k.pc with
      | some n => k.setS 63 (k.pc + BitVec.ofNat 64 n)
      | none => k)

/-- The results of a list that are due at a cycle, in issue order. -/
def dueOf (t : Nat) (l : List Pend) : List Pend := l.filter (fun p => p.due ≤ t)

/-- The first due result of a core lands; those after it are still in flight (11 R217). -/
def State.landOne (s : State) (c : Nat) : State :=
  match dueOf (s.core c).now (s.core c).pend with
  | p :: _ => (s.modCore c (fun k => { k with pend := k.pend.erase p })).applyEff c p
  | [] => s

/-- The results of a core that are due land, in issue order (06 R105, R106). -/
def State.landDue (s : State) (c : Nat) : State :=
  (dueOf (s.core c).now (s.core c).pend).foldl (fun s _ => s.landOne c) s

/-- Effects on a core's own memories. -/
def Eff.isLocal : Eff → Bool
  | .bytes _ _ | .drain _ | .atom _ _ _ _ _ _ => true
  | _ => false

/-- What a returning atomic that has performed still has to land (11 R225, 07 R146). -/
def atomLands (p : Pend) (dest : Option Nat) (old : Word) (ovf : Bool) : List Pend :=
  (match dest with | some r => [{ p with eff := .scalar r old }] | none => []) ++
  (if ovf then [{ p with eff := .pennon 4 }] else [])

/-- A due effect on the core's own memories performs while the core domain is frozen (06 R109): it leaves those in flight,
and the old value of an atomic stays there, to land in its cycle. -/
def State.performLocal (s : State) (c : Nat) (p : Pend) : State :=
  match p.eff with
  | .atom dest off op v cmp nan =>
    let (s, old, ovf) := s.performAtom c p.ord off op v cmp nan
    s.modCore c (fun k => k.swapFlight p (atomLands p dest old (ovf && k.isStep)))
  | _ => (s.modCore c (fun k => { k with pend := k.pend.erase p })).applyEff c p

/-- The atomics of a core at level 0 that issued before an engine's copy and update some of its bytes perform at once: the
copy sees them (12 R236, R241). -/
def State.settleAtoms (s : State) (c ord off n : Nat) : State :=
  ((s.core c).inFlight.filter (fun p => match p.eff with
    | .atom _ a _ _ _ _ => p.ord < ord && a < off + n && off < a + 8
    | _ => false)).foldl (fun s p => s.performLocal c p) s

/-- Every due effect on a core's own memories performs in a frozen period (06 R109). -/
def State.performLocals (s : State) (c : Nat) : State :=
  let k := s.core c
  ((dueOf k.now k.pend).filter (fun p => p.eff.isLocal)).foldl (fun s p => s.performLocal c p) s

/-- Records of the matrix engine and of loads whose cycle has come retire (10 R195, R206). -/
def State.landMx (s : State) (c : Nat) : State :=
  let k := s.core c
  if k.mx.isEmpty && k.mxReads.isEmpty && k.drains.isEmpty && k.peeks.isEmpty then s
  else s.setCore c { k with
      mx := k.mx.filter (fun x => x.due > k.now),
      mxReads := k.mxReads.filter (fun x => x.upto ≥ k.now),
      drains := k.drains.filter (fun x => x.due > k.now),
      peeks := k.peeks.filter (fun x => x.due > k.now) }

/-- Every result of a core that is due lands (06 R105). -/
def State.landPend (s : State) (c : Nat) : State := (s.landDue c).landMx c

/-- One result lands in the shadow context (18 R354). -/
def Shadow.apply (h : Shadow) (p : Pend) : Shadow :=
  match p.eff with
  | .scalar r v => { h with h := Tab.set h.h r v }
  | .pred r mask v => if r = 0 then h else { h with p := Tab.set h.p r (mergeBits (Tab.get 0 h.p r) mask v) }
  | _ => h

/-- An HPAGE that has waited has its result, which lands in its place among those due at its issue + 1 (06 R106, 18 R357). -/
def Shadow.pageDone (h : Shadow) (w : PageWait) (v : Word) : Shadow :=
  { h with wait := none, pend := pendIns ⟨h.now, w.ord, .scalar w.dest v⟩ h.pend }

/-- Every due result of the handler lands. -/
def Shadow.landDue (h : Shadow) : Shadow :=
  (dueOf h.now h.pend).foldl Shadow.apply { h with pend := h.pend.filter (fun p => p.due > h.now) }

end Sys2Proof.Machine
end

