-- ==== Sys2Proof/Machine/Ops.lean ====
section
/-! DEFINITION. The named operations that instructions and events share: killing tasks and striking the step (04 R70,
19 R370 to R372), taking an exception (18 R350 to R353) and returning from it (18 R359). -/

namespace Sys2Proof.Machine

/-! Launches and nodes. -/

/-- The graph of a launch (02 R47). -/
def State.graphOf (s : State) (l : Launch) : Option Graph :=
  match Tab.find s.containers l.handle with
  | none => none
  | some h => match h.sections[l.graphSec]? with
    | some (.graph g) => some g
    | _ => none

def State.nodeRec (s : State) (launch node : Nat) : Option NodeRec :=
  match Tab.find s.launches launch with
  | none => none
  | some l => match s.graphOf l with
    | some g => g.nodes[node]?
    | none => none

def State.nodeSt (s : State) (launch node : Nat) : Option NodeSt :=
  match Tab.find s.launches launch with
  | some l => Tab.find l.nodes node
  | none => none

def State.setNode (s : State) (launch node : Nat) (n : NodeSt) : State :=
  match Tab.find s.launches launch with
  | some l => { s with launches := Tab.set s.launches launch { l with nodes := Tab.set l.nodes node n } }
  | none => s

def State.modNode (s : State) (launch node : Nat) (f : NodeSt → NodeSt) : State :=
  match s.nodeSt launch node with
  | some n => s.setNode launch node (f n)
  | none => s

/-- Nodes that depend on a set, directly or through others (04 R70); the fuel is the number of nodes. -/
def closure (g : Graph) : Nat → List Nat → List Nat
  | 0, l => l
  | fuel + 1, l =>
    let more := (l.flatMap (fun n => match g.nodes[n]? with | some r => r.succ | none => [])).filter (fun n => !l.contains n)
    if more.isEmpty then l else closure g fuel (l ++ more.eraseDups)

/-- The cores of a node that holds some: its gang from its first core. -/
def State.nodeCores (s : State) (launch node : Nat) : List Nat :=
  (s.cores.filter (fun e => match e.2.occ with
    | some o => o.launch = launch && o.node = node
    | none => false)).map (·.1)

/-- A core of a killed task stops at once (19 R370): landings, matrix results and barrier updates are discarded; writes
already issued still perform; engines emit nothing more. -/
def Core.stopNow (k : Core) : Core :=
  { k with
    killed := true, stopped := true, pend := [], barq := [], mx := [], mxReads := [], drains := [], shadow := none,
    trap := none, faults := [], resend := [], waits := [], peeks := [], loop := LoopSt.none,
    land := (k.land.filter (fun a => a.open && a.kind.mask ≥ 2)).map (fun a => { a with dest := .none, landAt := none, fault := none }) }

/-- Bytes of a core's own memory become undefined: free values. -/
def State.loseBytes (s : State) (c level : Nat) (as : List Nat) : State :=
  { s.localWrite c level (((List.range as.length).zip as).map (fun e => (e.2, Config.freeByte (s.fresh + e.1)))) with
    fresh := s.fresh + as.length }

/-- Stores at levels 0 and 1 and drains that a kill overtakes leave their bytes undefined (11 R228, 10 R207). -/
def State.loseStores (s : State) (c : Nat) : State :=
  let k := s.core c
  let pend := k.pend ++ (match k.shadow with | some h => h.snap | none => [])
  pend.foldl (fun s p => match p.eff with
    | .bytes level cells => s.loseBytes c level (cells.map (·.1))
    | .drain cells => s.loseBytes c 0 (cells.map (·.1))
    | _ => s) s

/-- The runs of a killed task's cores stop (16 R323). -/
def State.stopRuns (s : State) (cs : List Nat) : State :=
  { s with runs := s.runs.map (fun e => (e.1, if cs.contains e.2.core then { e.2 with stopped := true } else e.2)) }

/-- The save slots of a node are freed (19 R365, R371). -/
def State.freeSlots (s : State) (launch node : Nat) : State :=
  { s with cores := s.cores.map (fun e => (e.1, { e.2 with
      slots := e.2.slots.filter (fun x => !(x.2.launch = launch && x.2.node = node)) })) }

/-- A node enters the tail of a level. -/
def State.enqueue (s : State) (launch node : Nat) (st : TaskState) (level : Nat) : State :=
  { s.modNode launch node (fun n => { n with
      state := st, level := level, order := s.queueStamp, queuedAt := s.time, readyAt := s.time }) with
    queueStamp := s.queueStamp + 1 }

/-- A node becomes ready at its priority (04 R70, R73). -/
def State.makeReady (s : State) (launch node : Nat) : State :=
  match s.nodeRec launch node with
  | some r => s.enqueue launch node .ready r.prio
  | none => s

/-- A node left by LAUNCH in loaded state enters (04 R70). -/
def State.enterNode (s : State) (launch node : Nat) : State :=
  match s.nodeSt launch node with
  | some n =>
    if n.state != .loaded then s
    else if n.deps > 0 then s.modNode launch node (fun n => { n with state := .waiting })
    else s.makeReady launch node
  | none => s

/-- The nodes of a launch that its LAUNCH has left loaded have entered: that round is over (04 R71). -/
def State.enterLaunch (s : State) (launch : Nat) : State :=
  match Tab.find s.launches launch with
  | some l => (Tab.keys l.nodes).foldl (fun s n => s.enterNode launch n) s
  | none => s

/-- One node is killed (04 R70, 19 R370, R371): it keeps its cores, if it holds any, until KILL_COMPLETE, and frees its
slots. Its local stores and drains in flight are lost. -/
def State.killNode (s : State) (launch node : Nat) : State :=
  match s.nodeSt launch node with
  | none => s
  | some n =>
    match n.state with
    | .loaded | .retired | .killed => s
    | st =>
      let cs := s.nodeCores launch node
      let holds := st == .placed || st == .running || st == .preempting
      let s := s.setNode launch node { n with state := .killed, reserve := none, askedAt := none, dying := holds }
      let s := cs.foldl (fun s c => s.loseStores c) s
      ((s.modCores Core.stopNow cs).stopRuns cs).freeSlots launch node

/-- A node and every node that depends on it (04 R70). -/
def State.killTree (s : State) (launch node : Nat) : State :=
  match Tab.find s.launches launch with
  | none => s
  | some l =>
    let all := match s.graphOf l with
      | some g => closure g g.nodes.length [node]
      | none => [node]
    all.foldl (fun s n => s.killNode launch n) (s.enterLaunch launch)

/-- The root's silence clock starts (20 R388). -/
def State.startSilence (s : State) : State :=
  if s.tree.getLsbD 16 && s.silenceAt.isNone then { s with silenceAt := some s.time } else s

/-- The device's own vote becomes ready (20 R387). -/
def State.readyVote (s : State) : State := { s with voteReady := true }.startSilence

/-- A launch completes when every node is retired or killed; its event follows (04 R70, 20 R376). The prepare phase of a
step graph whose nodes have all retired ends with it (20 R384). -/
def State.tryComplete (s : State) (launch : Nat) : State :=
  match Tab.find s.launches launch with
  | none => s
  | some l =>
    if l.nodes.all (fun e => e.2.state == .retired || (e.2.state == .killed && !e.2.dying)) then
      let dead := l.nodes.filter (fun e => e.2.state == .killed)
      let n := l.nodes.length
      let bits := dead.foldl (fun a e => a + 2 ^ e.1) 0
      let s := { s with launches := Tab.del s.launches launch }.emit 0x82
        (leBytes 4 launch ++ leBytes 4 n ++ leBytes 4 dead.length ++ leBytes 4 0 ++ leBytes ((n + 7) / 8) bits)
      if l.step && dead.isEmpty && s.stepState == 3 then s.readyVote else s
    else s

/-- Every step task is killed (19 R372, R373). -/
def State.killStep (s : State) : State :=
  (s.launches.filter (fun e => e.2.step)).foldl
    (fun s e => (e.2.nodes.foldl (fun s n => s.killNode e.1 n.1) (s.enterLaunch e.1)).tryComplete e.1) s

/-- The device strikes its open step (19 R372): the pennon bit of the cause, every step task killed, and the vote at
once in states 1 to 3. -/
def State.strike (s : State) (bit : BitVec 16) : State :=
  let s := s.pennonOr bit
  let s := s.killStep
  if 1 ≤ s.stepState && s.stepState ≤ 3 then s.readyVote else s

/-- A task is killed with its dependants; a node of the step graph strikes the step with the bit of its cause. -/
def State.killTask (s : State) (launch node : Nat) (bit : BitVec 16) : State :=
  let step := match Tab.find s.launches launch with | some l => l.step | none => false
  let s := s.killTree launch node
  (if step then s.strike bit else s).tryComplete launch

/-! Taking an exception. -/

/-- Whether a virtual address names another device (18 R352). -/
def Core.namesRemote (k : Core) (own : Nat) (va : Word) : Bool :=
  va ≠ 0 && va.toNat / 2 ^ 57 = 0 && k.rg.any (fun e =>
    let w := e.2.toNat
    fld w 192 192 == 1 && fld w 56 16 ≤ va.toNat / 65536 && va.toNat / 65536 < fld w 120 80 &&
      fld w 197 196 ≠ 0 && fld w 223 208 ≠ own)

/-- The fault event (18 R356). -/
def State.faultEvent (s : State) (c : Nat) (f : FaultRec) (first disp : Nat) (pc word : Word) : State :=
  let (l, n) := match (s.core c).occ with | some o => (o.launch, o.node) | none => (0, 0)
  let away := f.remote || (s.core c).namesRemote s.deviceId f.addr
  let va := match s.walk f.ipa with | some r => if f.ipa = 0 || away then 0 else r.leaf.va.toNat | none => 0
  s.emit 0x81 (leBytes 4 l ++ leBytes 4 n ++ leBytes 2 c ++ leBytes 2 f.code ++ leBytes 2 first ++ leBytes 1 disp ++
    leBytes 1 0 ++ leBytes 8 pc.toNat ++ leBytes 8 f.addr.toNat ++ leBytes 8 f.ipa ++ leBytes 8 va ++
    leBytes 8 word.toNat ++ leBytes 8 0)

/-- The fault record in h0 to h3 (18 R352). -/
def faultRegs (f : FaultRec) (member : Nat) (pc : Word) : Tab Word :=
  let b (x : Bool) : Nat := if x then 1 else 0
  let h0 := f.code + f.slot * 2 ^ 16 + member * 2 ^ 20 + b f.data * 2 ^ 23 + b f.write * 2 ^ 24 + b f.remote * 2 ^ 25 +
    f.trapno * 2 ^ 48
  [(0, BitVec.ofNat 64 h0), (1, pc), (2, f.addr), (3, BitVec.ofNat 64 f.ipa)]

/-- Whether the core's task has been asked to pre-empt (04 R69). -/
def State.isPreempting (s : State) (c : Nat) : Bool :=
  match (s.core c).occ with
  | some o => (match s.nodeSt o.launch o.node with | some n => n.state == .preempting | none => false)
  | none => false

/-- The core's task is killed by a fault, with its event (18 R353); a step task's kill strikes the step with FAULT
(19 R372). -/
def State.killByFault (s : State) (c : Nat) (f : FaultRec) (first : Nat) (word : Word) : State :=
  let pc := (s.core c).pc
  let s := s.faultEvent c f first 1 pc word
  match (s.core c).occ with
  | some o =>
    let live := !(s.core c).stopped
    let ms := s.gang c
    (s.killTask o.launch o.node 16).modCores (fun k => if live && k.killed then { k with fatal := true } else k) ms
  | none => s

/-- TAKING AN EXCEPTION (18 R350 to R354). Inside the handler every fault is SHADOW_DOUBLE, whose event carries both
codes (log 32). A violation, and any fault of a task in pre-empting state, kills the task. Otherwise the faulting member
moves its results to the snapshot, h0 to h3 take the fault record, h4 to h15 and the shadow predicates are zero, and the
handler's first bundle is due. -/
def State.takeFault (s : State) (c : Nat) (f : FaultRec) : State :=
  let k := s.core c
  match k.shadow with
  | some h =>
    let s := s.noteFault k.isStep fcShadowDouble
    s.killByFault c f h.taken.code 0
  | none =>
    let s := s.noteFault k.isStep f.code
    if faultClass f.code = 4 || s.isPreempting c then s.killByFault c f 0 0
    else
      let member := match k.occ with | some o => o.member | none => 0
      let f := { f with remote := f.remote || (f.slot ≠ 15 && k.namesRemote s.deviceId f.addr) }
      s.setCore c { k with
        pend := [],
        waits := [],
        shadow := some { h := faultRegs f member k.pc, p := [], pc := 0, isTarget := false, delay := none, now := 0,
                         pend := [], snap := k.pend, taken := f, wait := none } }

/-- A load at level 0 or 1 whose read failed is read again (18 R359, R362). -/
def Core.reread (k : Core) (ord : Nat) : Core :=
  let qs := k.peeks.map (fun q =>
    if q.ord = ord then
      { q with got := q.got.map (fun e => (e.1, e.2.1, (k.view q.level ord).reads e.2.1 e.2.2.length)) } else q)
  { k with peeks := qs, pend := k.pend.map (fun p => qs.foldl (fun p q => q.into p) p) }

/-- A failing access sent again (18 R359): every unit of a load reads anew; what a write has performed stays. -/
def Access.sentAgain (a : Access) : Access :=
  if a.kind == .load then { a with elems := a.elems.map (fun e => { e with done := false, got := [] }) } else a

/-- Whether the snapshot's fault was a failing access to resend (18 R359). -/
def Core.resendAfter (k : Core) (f : FaultRec) (time : Nat) : Core :=
  match f.access with
  | none => k
  | some id =>
    if f.data && k.land.any (fun a => a.id = id) then
      { k with
        resend := k.resend.filter (fun n => k.land.any (fun a => a.id = n && a.open)) ++ [id],
        land := k.land.map (fun a => if a.id = id then { a.sentAgain with fault := none, since := time } else a) }
    else if f.data then k.reread id
    else k

/-- RETURN FROM AN EXCEPTION (18 R359): the snapshot's results keep their cycles; a failing access is sent again and
holds the later ones; a run or collective that had not started is tried again. -/
def State.leaveShadow (s : State) (c : Nat) : State :=
  let k := s.core c
  match k.shadow with
  | none => s
  | some h =>
    let k := ({ k with shadow := none, pend := h.snap ++ k.pend, waits := [] }).resendAfter h.taken s.time
    let mine (id : Nat) (started : Bool) : Bool := !started && h.taken.access = some id
    let k := { k with colls := k.colls.map (fun x => if mine x.id x.started then { x with fault := none } else x) }
    let s := s.setCore c k
    { s with runs := s.runs.map (fun e =>
        (e.1, if e.2.core = c && mine e.2.id e.2.started then { e.2 with fault := none } else e.2)) }

/-- A before-issue fault of a syllable in a slot (18 R351, R352). -/
def slotFault (code slot : Nat) (addr : Word) : FaultRec := { code := code, slot := slot, addr := addr }

/-- Slot numbers, 0 S to 8 K (18 R352). -/
def slotNo : Slot → Nat
  | .s => 0 | .va => 1 | .vb => 2 | .mx => 3 | .ld => 4 | .st => 5 | .ca => 6 | .cb => 7 | .k => 8

end Sys2Proof.Machine
end

