-- ==== Sys2Proof/Machine/Flags.lean ====
section
/-! DEFINITION. The flags: OVF (07 R146), origin registers (07 R140), LOSS, SOFT and VETO (20 R382, R383), and the
conditions of integer compares (06 R118, 08 R165). -/

namespace Sys2Proof.Machine

/-- OVF is set when the offending result lands, in a task of a step graph only (07 R146). -/
def State.postOvf (s : State) (lat : Nat) (b : Bool) : State :=
  if b && s.me.isStep then s.post lat (.pennon 4) else s

/-- What a narrowing that meets a non-finite element writes when it lands (07 R140): ORIGIN and OV of the entry, and
OVF. -/
def State.postOrigin (s : State) (lat t : Nat) (o : Option (BitVec 32)) : State :=
  match o with
  | some v => (s.post lat (.origin t v)).postOvf lat true
  | none => s

/-- A condition on integers: a and b as read, and as read unsigned (06 R118). -/
def intCond (cc : Cond) (a b : Int) (ua ub : Nat) : Bool :=
  match cc with
  | .eq => ua == ub
  | .ne => ua != ub
  | .lt => a < b
  | .ge => a ≥ b
  | .ltu => ua < ub
  | .geu => ua ≥ ub
  | .le => a ≤ b
  | .gt => a > b
  | .leu => ua ≤ ub
  | .gtu => ua > ub
  | .un => false
  | .ord => false

/-- All ones or all zeros (06 R118). -/
def predAll (b : Bool) : PReg := if b then BitVec.allOnes 512 else 0

/-- A predicate result over the whole register. -/
def State.postPred (s : State) (lat pd : Nat) (v : PReg) : State :=
  s.post lat (.pred (if s.me.shadow.isSome then pd else physP s.me.prot pd) (BitVec.allOnes 512) v)

/-- A scalar result. -/
def State.postS (s : State) (lat sd : Nat) (v : Word) : State := s.post lat (.scalar sd v)

end Sys2Proof.Machine
end

