-- ==== Sys2Proof/Machine/Operands.lean ====
section
/-! DEFINITION. Operand forms: vector elements under a governing predicate (08 R154, R156), tensor-table entries and
their elements (07 R137 to R151), narrowing and widening (07 R138 to R141, 09 R175), and addresses of loads, stores and
atomics (11 R208 to R212, R219 to R223). -/

namespace Sys2Proof.Machine

/-! Vector elements (08 R154). -/

def lanes (w : Nat) (v : VReg) : List Nat :=
  let x := v.toNat
  (List.range (512 / w)).map (fun e => (x >>> (8 * w * e)) % 2 ^ (8 * w))

def joinLanes (w : Nat) (l : List Nat) : VReg :=
  BitVec.ofNat 4096 (l.foldr (fun x acc => x % 2 ^ (8 * w) + acc * 2 ^ (8 * w)) 0)

def lane (w : Nat) (v : VReg) (e : Nat) : Nat := (v.toNat >>> (8 * w * e)) % 2 ^ (8 * w)

/-- Element e of a width is governed by the bit of its lowest byte (08 R154). -/
def activeAt (p : PReg) (w e : Nat) : Bool := p.getLsbD (e * w)

/-- The bytes of the elements that a test selects. -/
def elemMask (w : Nat) (f : Nat → Bool) : PReg :=
  BitVec.ofNat 512 ((List.range (512 / w)).foldr (fun e acc => (if f e then 2 ^ w - 1 else 0) + acc * 2 ^ w) 0)

/-- The bytes that a vector result writes: those of active elements, or all under zeroing (08 R156). -/
def writeMask (p : PReg) (w : Nat) (z : Bool) : PReg :=
  if z || p == BitVec.allOnes 512 then BitVec.allOnes 512 else elemMask w (activeAt p w)

/-- A vector result: element results of active elements, zeros under zeroing (08 R156); OVF of active elements
(07 R146). `only` are the elements that the instruction writes (09 R174). -/
def State.postV (s : State) (lat w vd pg : Nat) (z : Bool) (only : Nat → Bool) (f : Nat → FRes) : State :=
  let k := s.me
  let p := k.pr pg
  let rs := (List.range (512 / w)).map (fun e => if only e && activeAt p w e then some (f e) else none)
  let mask := if z then BitVec.allOnes 512 else elemMask w (fun e => only e && activeAt p w e)
  let v := joinLanes w (rs.map (fun r => match r with | some x => x.code | none => 0))
  (s.post lat (.vector (physV k.vrot vd) mask v)).postOvf lat (rs.any (fun r => match r with | some x => x.ovf | none => false))

/-- The same with no flag and every element written. -/
def State.postVec (s : State) (lat w vd pg : Nat) (z : Bool) (f : Nat → Nat) : State :=
  s.postV lat w vd pg z (fun _ => true) (fun e => ⟨f e, false⟩)

/-- A vector compare's predicate (08 R165). -/
def State.postVP (s : State) (lat w pd pg : Nat) (z : Bool) (f : Nat → Bool) : State :=
  let k := s.me
  let p := k.pr pg
  s.post lat (.pred (physP k.prot pd) (writeMask p w z) (elemMask w (fun e => activeAt p w e && f e)))

/-- A whole vector register written (09 R183). -/
def State.postVAll (s : State) (lat vd : Nat) (v : VReg) : State :=
  s.post lat (.vector (physV s.me.vrot vd) (BitVec.allOnes 512) v)

/-! Tensor-table entries (07 R149). -/

def tf (e : Wide) (hi lo : Nat) : Nat := fld e.toNat hi lo
def tBase (e : Wide) : Nat := tf e 56 0
def tLevel (e : Wide) : Nat := tf e 59 57
def tKind (e : Wide) : Nat := tf e 67 64
def tBlock (e : Wide) : Nat := match tf e 85 84 with | 1 => 16 | 2 => 32 | _ => 0
def tRound (e : Wide) : Nat := tf e 87 86
def tExt (e : Wide) : Nat → Nat
  | 0 => tf e 127 96 | 1 => tf e 159 128 | 2 => tf e 191 160 | _ => tf e 223 192
def tStride (e : Wide) : Nat → Nat
  | 1 => tf e 263 224 | 2 => tf e 303 264 | _ => tf e 343 304
def tLayout (e : Wide) : Nat := tf e 345 344
def tSbase (e : Wide) : Nat := tf e 408 352
def tStream (e : Wide) : Nat := tf e 447 416

/-- The custom format of an entry of KIND 0 (07 R136); the bias is signed. -/
def tCustom (e : Wide) : Fmt := ⟨tf e 68 68, tf e 71 69, tf e 74 72, sx 8 (tf e 83 76), false⟩

/-- The standard type of an entry of KIND 1 to 12. -/
def tType (e : Wide) : ETy :=
  match tKind e with
  | 1 => .f64 | 2 => .f32 | 3 => .f16 | 4 => .bf16 | 5 => .i8 | 6 => .n8 | 7 => .i16 | 8 => .n16
  | 9 => .i32 | 10 => .n32 | 11 => .i64 | _ => .n64

/-- Code width in bits of a custom format. -/
def tBits (e : Wide) : Nat := tf e 68 68 + tf e 71 69 + tf e 74 72

/-- The element size in half bytes (07 R150). -/
def tHalf (e : Wide) : Nat := if tKind e = 0 then (if tBits e ≤ 4 then 1 else 2) else 2 * (tType e).width

/-- The bits of a code that are not written zero (07 R137). -/
def tCodeBits (e : Wide) : Nat := if tKind e = 0 then tBits e else 8 * (tType e).width

/-- Whether an entry is valid (07 R151). -/
def tValid (e : Wide) : Bool :=
  let custom := tKind e == 0
  let eb := (tHalf e + 1) / 2
  tLevel e ≤ 4 && tKind e ≤ 12 && tf e 85 84 ≠ 3 && tRound e ≠ 3 && tLayout e ≠ 3 &&
  (if custom then 2 ≤ tBits e && tBits e ≤ 8 else tf e 68 68 + tf e 71 69 + tf e 74 72 + tf e 83 76 + tf e 85 84 == 0) &&
  tExt e 0 ≠ 0 && tExt e 1 ≠ 0 && tExt e 2 ≠ 0 && tExt e 3 ≠ 0 &&
  tExt e 0 * tExt e 1 * tExt e 2 * tExt e 3 ≤ 2 ^ 64 &&
  tBase e % eb == 0 && tStride e 1 % eb == 0 && tStride e 2 % eb == 0 && tStride e 3 % eb == 0 &&
  !(tHalf e == 1 && tExt e 0 % 2 == 1) &&
  (tLayout e == 0 || (tExt e 0 % 64 == 0 && tExt e 1 % 64 == 0 && tBase e % 64 == 0 && tStride e 1 % 64 == 0))

/-- The logical index of an element (07 R150). -/
def tIndex (e : Wide) (i0 i1 i2 i3 : Nat) : Nat := ((i3 * tExt e 2 + i2) * tExt e 1 + i1) * tExt e 0 + i0

/-- The address of an element in half bytes (07 R150). -/
def tHalfAddr (e : Wide) (i0 i1 i2 i3 : Nat) : Nat :=
  let eb2 := tHalf e
  let off :=
    if tLayout e = 0 then 2 * (i1 * tStride e 1) + i0 * eb2
    else
      let r := i1 % 64
      let c := i0 % 64
      let q := if tLayout e = 1 then r * 64 + c else c * 64 + r
      2 * (i1 / 64 * tStride e 1) + i0 / 64 * 4096 * eb2 + q * eb2
  2 * tBase e + off + 2 * (i2 * tStride e 2) + 2 * (i3 * tStride e 3)

/-- The byte of an element's block scale (07 R138). -/
def tScaleAddr (e : Wide) (i0 i1 i2 i3 : Nat) : Nat :=
  let b := tBlock e
  let nb := (tExt e 0 + b - 1) / b
  tSbase e + ((i3 * tExt e 2 + i2) * tExt e 1 + i1) * nb + i0 / b

/-- A code read from bytes; upper bits are ignored (07 R137). -/
def tReadCode (e : Wide) (rd : Nat → Byte) (half : Nat) : Nat :=
  if tHalf e = 1 then ((rd (half / 2)).toNat / 16 ^ (half % 2)) % 2 ^ tBits e
  else ofLe ((List.range (tHalf e / 2)).map (fun k => rd (half / 2 + k))) % 2 ^ tCodeBits e

/-- The value of a code of the entry's format, before any block scale (07 R136, R131, R132). -/
def tCodeVal (e : Wide) (c : Nat) : FV :=
  if tKind e = 0 then fvOf (tCustom e) c
  else
    let t := tType e
    if t.isFloat then fvOf (fmtOf t) c
    else
      let k := intVal t.isSigned (8 * t.width) c
      .num (k < 0) k.natAbs 0

/-- A value times a power of two. -/
def FV.scale (v : FV) (k : Int) : FV :=
  match v with
  | .num n m x => .num n m (x + k)
  | v => v

/-- The format whose NaN codes the values of an entry carry. -/
def tNanFmt (e : Wide) : Fmt := if tKind e ≠ 0 && (tType e).isFloat then fmtOf (tType e) else fmt32

/-- An element widened: the exact value times its block scale, or the NaN that the reader creates for 0xFF (07 R138,
R141). `nan` is a code of `tNanFmt`. -/
def tWiden (e : Wide) (code scale nan : Nat) : FV :=
  if tBlock e = 0 then tCodeVal e code
  else if scale = 255 then .nan nan
  else (tCodeVal e code).scale ((scale : Int) - 127)

/-- An element of a tensor in a byte memory. -/
def tElem (e : Wide) (rd : Nat → Byte) (nan i0 i1 i2 i3 : Nat) : FV :=
  let c := tReadCode e rd (tHalfAddr e i0 i1 i2 i3)
  let sc := if tBlock e = 0 then 127 else (rd (tScaleAddr e i0 i1 i2 i3)).toNat
  tWiden e c sc nan

/-! Narrowing (07 R133 to R140). -/

/-- The mode of an entry for the element at a logical index (07 R135). -/
def tMode (e : Wide) (seed idx : Nat) : Mode :=
  match tRound e with
  | 0 => .rne
  | 1 => .rtz
  | _ => .sr (buntingWord 0 seed (tStream e) (idx % 2 ^ 64) (2 ^ 63) % 2 ^ 24)

/-- One value narrowed into an entry's format without a block (07 R133, R140; log 13 for a negative infinity into a
format without a sign). -/
def tNarrow (e : Wide) (seed idx : Nat) (src : Fmt) (v : FV) : Nat :=
  let custom := tKind e == 0
  let t := tType e
  match v with
  | .num n m x =>
    let a := (FV.num n m x).exact
    let md := tMode e seed idx
    if custom then roundNarrow (tCustom e) md a
    else if t.isFloat then roundNarrow (fmtOf t) md a
    else intPat (8 * t.width) (saturate t.isSigned (8 * t.width) (roundInt md a))
  | .inf n =>
    if custom then (if n && (tCustom e).s == 0 then 0 else (tCustom e).signed n (tCustom e).maxMag)
    else if t.isFloat then (fmtOf t).signed n ((fmtOf t).maxMag + 1)
    else intPat (8 * t.width) (if n then intMin t.isSigned (8 * t.width) else intMax t.isSigned (8 * t.width))
  | .nan c =>
    if custom then 0 else if t.isFloat then convNan src (fmtOf t) c else 0

/-- emax of a custom format (07 R136). -/
def Fmt.emax (f : Fmt) : Int := if f.e == 0 then (f.m : Int) - 1 - f.bias else 2 ^ f.e - 1 - f.bias

/-- The scale of a block from its finite values (07 R139). -/
def tScaleOf (e : Wide) (l : List FV) : Nat :=
  let mags := l.filterMap (fun v => match v with
    | .num _ m x => if m = 0 then none else (let (p, q) := (Exact.mk m 1 x false).frac; some (p, q))
    | _ => none)
  match mags with
  | [] => 127
  | x :: r =>
    let (p, q) := r.foldl (fun a b => if b.1 * a.2 > a.1 * b.2 then b else a) x
    (max (min (floorLog2 p q - (tCustom e).emax + 127) 254) 0).toNat

/-- The FP32 form of a non-finite value (07 R140). -/
def originOf (src : Fmt) (v : FV) : BitVec 32 :=
  match v with
  | .nan c => BitVec.ofNat 32 (convNan src fmt32 c)
  | .inf n => BitVec.ofNat 32 (fmt32.signed n (fmt32.maxMag + 1))
  | .num _ _ _ => 0

/-- A block narrowed: its codes, its scale, and the origin of its first non-finite element where the format records
one (07 R139, R140). `given` is a scale taken instead of R139's (09 R178). -/
structure Narrowed where
  codes : List Nat
  scale : Nat
  origin : Option (BitVec 32)
  deriving DecidableEq, Repr

def tNarrowBlock (e : Wide) (seed : Nat) (src : Fmt) (given : Option Nat) (xs : List (Nat × FV)) : Narrowed :=
  let bad := xs.find? (fun x => !x.2.isFinite)
  let keeps := tKind e ≠ 0 && (tType e).isFloat
  let org := if keeps then none else bad.map (fun x => originOf src x.2)
  if tBlock e = 0 then ⟨xs.map (fun x => tNarrow e seed x.1 src x.2), 0, org⟩
  else if bad.isSome then ⟨xs.map (fun _ => 0), 255, org⟩
  else
    let c := match given with | some g => g | none => tScaleOf e (xs.map (·.2))
    if c = 255 then ⟨xs.map (fun _ => 0), 255, none⟩
    else ⟨xs.map (fun x => tNarrow e seed x.1 src (x.2.scale (127 - (c : Int)))), c, none⟩

/-- Consecutive groups of n. -/
def chunks {α : Type} (n : Nat) : Nat → List α → List (List α)
  | 0, _ => []
  | fuel + 1, l => if l.isEmpty then [] else l.take n :: chunks n fuel (l.drop n)

/-- Codes and scales as bytes from a start, in half bytes: nibble pairs share a byte (07 R137). -/
def imageNat (half : Nat) (codes : List Nat) : Nat :=
  codes.foldr (fun c acc => c + acc * 16 ^ half) 0

/-! Register images (09 R175). -/

/-- A register image from codes and scales. -/
def regImage (e : Wide) (codes scales : List Nat) : VReg :=
  BitVec.ofNat 4096 (imageNat (tHalf e) codes + (if tBlock e = 0 then 0 else imageNat 2 scales * 2 ^ (8 * 480)))

/-- A code and a scale read from a register image. -/
def imgCode (e : Wide) (v : VReg) (i : Nat) : Nat := (v.toNat >>> (4 * tHalf e * i)) % 2 ^ tCodeBits e
def imgScale (e : Wide) (v : VReg) (i : Nat) : Nat :=
  if tBlock e = 0 then 127 else (v.toNat >>> (8 * (480 + i / tBlock e))) % 256

/-- Whether a type holds a finite value exactly (09 R176). -/
def holdsExactly (t : ETy) (v : FV) : Bool :=
  match v with
  | .num n m x =>
    let a := (FV.num n m x).exact
    if t.isFloat then
      (match fvOf (fmtOf t) (roundArith (fmtOf t) .rtz a).1 with
       | .num n' m' x' => ((FV.num n' m' x').exact).cmp a == 0
       | _ => false)
    else
      let (p, q) := a.frac
      p % q == 0 && intMin t.isSigned (8 * t.width) ≤ roundInt .rtz a && roundInt .rtz a ≤ intMax t.isSigned (8 * t.width)
  | _ => true

/-- Whether a standard type's values all lie in another's (09 R176). -/
def tyContains (dst src : ETy) : Bool :=
  if src == dst then true
  else if src.isFloat then
    (match src, dst with | .f16, .f32 | .f16, .f64 | .bf16, .f32 | .bf16, .f64 | .f32, .f64 => true | _, _ => false)
  else if dst.isFloat then neverRounds dst src
  else intMin dst.isSigned (8 * dst.width) ≤ intMin src.isSigned (8 * src.width) &&
       intMax src.isSigned (8 * src.width) ≤ intMax dst.isSigned (8 * dst.width)

/-- Whether VWIDEN.t can widen an entry into a type (09 R176): every code at the least and the greatest scale. -/
def widenOk (e : Wide) (t : ETy) : Bool :=
  if tKind e ≠ 0 then tyContains t (tType e)
  else
    let at' (k : Int) : Bool := (List.range (2 ^ tBits e)).all (fun c => holdsExactly t ((tCodeVal e c).scale k))
    if tBlock e = 0 then at' 0 else at' (-127) && at' 127

/-! Addresses of the LD and ST slots (11 R219 to R223). -/

def wrapAdd (a : Word) (k : Int) : Word := a + BitVec.ofInt 64 k

/-- base + sext(imm16) (11 R219). -/
def baseAddr (k : Core) (sbase : Nat) (imm : Int) : Word := wrapAdd (k.sc sbase) imm

/-- How a vector access forms its addresses. -/
inductive AddrForm where
  | contiguous | strided
  | indexed (v : Nat)
  | lanes (v : Nat)
  deriving DecidableEq, Repr

/-- The address of element e of a vector access (11 R221 to R223); lane accesses give the offset in the slice of the
element's lane. -/
def elemAddr (k : Core) (o : LsOp) (f : AddrForm) (w e : Nat) : Word :=
  let base := baseAddr k o.sbase o.imm
  match f with
  | .contiguous => base + k.sc o.sidx + BitVec.ofNat 64 (e * w)
  | .strided => base + BitVec.ofNat 64 e * k.sc o.sidx
  | .indexed v => base + k.sc o.sidx + BitVec.ofNat 64 (lane w (k.vr v) e)
  | .lanes v => base + k.sc o.sidx + BitVec.ofNat 64 (lane 4 (k.vr v) e)

/-- The active elements of a vector access: element numbers and addresses. -/
def activeElems (k : Core) (o : LsOp) (f : AddrForm) (w : Nat) : List (Nat × Word) :=
  let p := k.pr o.pg
  ((List.range (512 / w)).filter (activeAt p w)).map (fun e => (e, elemAddr k o f w e))

/-- The level of an address (11 R208): none for windows 0xF4 to 0xFF. -/
def levelOf (a : Word) : Option Nat :=
  let t := a.toNat / 2 ^ 56
  if t < 0xF0 then some 4 else if t ≤ 0xF3 then some (t - 0xF0) else none

def offsetOf (a : Word) : Nat := a.toNat % 2 ^ 56

/-- Whether n bytes at an address lie in the valid offsets of their window (11 R208). -/
def State.inWindow (s : State) (c : Nat) (a : Word) (n : Nat) : Bool :=
  let x := offsetOf a
  let g := match (s.core c).occ with | some o => o.gang | none => 1
  match levelOf a with
  | none => false
  | some 0 => x + n ≤ spBytes
  | some 1 => x + n ≤ lsBytes
  | some 2 => x / 2 ^ 22 < g && x % 2 ^ 22 + n ≤ spBytes
  | some 3 => x + n ≤ g * dsSlice s (dieOf c)
  | some _ => true

/-- The first of n bytes at an address that lies outside its window (18 R352). -/
def State.firstOut (s : State) (c : Nat) (a : Word) (n : Nat) : Word :=
  let x := offsetOf a
  let g := match (s.core c).occ with | some o => o.gang | none => 1
  let stop := match levelOf a with
    | some 0 => spBytes
    | some 1 => lsBytes
    | some 2 => x / 2 ^ 22 * 2 ^ 22 + spBytes
    | some 3 => g * dsSlice s (dieOf c)
    | _ => 0
  if s.inWindow c a 1 && x + n > stop then a + BitVec.ofNat 64 (stop - x) else a

/-- Banks and rounds of a level-0 access (11 R212): the distinct words in increasing number, and for each the round in
which its bank serves it. -/
def wordsOf (els : List (Nat × Nat)) : List Nat :=
  let ws := els.flatMap (fun e => if e.2 = 0 then [] else (List.range ((e.1 + e.2 - 1) / 64 - e.1 / 64 + 1)).map (fun k => e.1 / 64 + k))
  (ws.foldl (fun (t : Tab Unit) w => Tab.set t w ()) []).map (·.1)

def roundsOf (ws : List Nat) : List (Nat × Nat) :=
  (ws.foldl (fun (acc : List (Nat × Nat) × Tab Nat) w =>
    let n := Tab.get 0 acc.2 (w % 127)
    ((w, n) :: acc.1, Tab.set acc.2 (w % 127) (n + 1))) ([], [])).1.reverse

/-- The latency of a level-0 access (11 R212). -/
def latency0 (ws : List Nat) : Nat := 12 + 16 * ((roundsOf ws).foldl (fun m e => max m e.2) 0)

/-- Whether the words of an access break the limit of 11 R213 at a cycle: a word counts at the cycle its round starts;
any 16 consecutive cycles hold at most three distinct words of one bank in one class. -/
def lsBusy (now slot : Nat) (old : List (Nat × Nat × Nat)) (ws : List Nat) : Bool :=
  let new := (roundsOf ws).map (fun e => (e.1, now + 16 * e.2))
  let mine := (old.filter (fun e => e.1 = slot)).map (fun e => (e.2.1, e.2.2))
  let all := mine ++ new
  new.any (fun e =>
    let bank := all.filter (fun x => x.1 % 127 == e.1 % 127)
    (List.range 16).any (fun d =>
      let hi := e.2 + d
      let inWin := (bank.filter (fun x => x.2 ≤ hi && hi < x.2 + 16)).map (·.1)
      inWin.eraseDups.length > 3))

/-- The default landing distance of a level (06 R111). -/
def defaultDist (level : Nat) : Nat := if level = 2 then 40 else if level = 3 then 80 else 160

end Sys2Proof.Machine
end

