-- ==== Sys2Proof/Machine/Checks.lean ====
section
/-! DEFINITION. The checks and waits before issue (05 R88, R99, 06 R125, 10 R190 to R194, 11 R210, R216, 12 R230, 15
R294, 16 R315, R320, 17 R340, 18 R354, 20 R379), and the frame in which every syllable executes. -/

namespace Sys2Proof.Machine

/-! Copies (12 R229 to R238). -/

def shCnt (sh : Wide) (k : Nat) : Nat := tf sh (16 * k + 15) (16 * k) + 1
def shS (sh : Wide) (k : Nat) : Int := sx 32 (tf sh (32 * k + 127) (32 * k + 96))
def shD (sh : Wide) (k : Nat) : Int := sx 32 (tf sh (32 * k + 319) (32 * k + 288))
def shPlen (sh : Wide) : Nat := tf sh 491 480
def shAux (sh : Wide) : Nat := tf sh 499 492

/-- The index of each level for a piece number, level 0 innermost (12 R235). -/
def nestIdx (sh : Wide) (n : Nat) : Nat → Nat
  | 0 => n % shCnt sh 0
  | 1 => n / shCnt sh 0 % shCnt sh 1
  | 2 => n / (shCnt sh 0 * shCnt sh 1) % shCnt sh 2
  | 3 => n / (shCnt sh 0 * shCnt sh 1 * shCnt sh 2) % shCnt sh 3
  | 4 => n / (shCnt sh 0 * shCnt sh 1 * shCnt sh 2 * shCnt sh 3) % shCnt sh 4
  | _ => n / (shCnt sh 0 * shCnt sh 1 * shCnt sh 2 * shCnt sh 3 * shCnt sh 4) % shCnt sh 5

/-- Pieces of a nest. -/
def nestTotal (sh : Wide) : Nat := ((List.range 6).map (shCnt sh)).foldl (· * ·) 1

/-- The level whose destination stride a level uses: levels 0 and 1 exchanged on a transposed side (12 R235). -/
def xLevel (x : Bool) (k : Nat) : Nat := if x then (if k = 0 then 1 else if k = 1 then 0 else k) else k

def sumInt (l : List Int) : Int := l.foldl (· + ·) 0

def sOff (sh : Wide) (n : Nat) : Int := sumInt ((List.range 6).map (fun k => (nestIdx sh n k : Int) * shS sh k))
def dOff (sh : Wide) (x : Bool) (n : Nat) : Int :=
  sumInt ((List.range 6).map (fun k => (nestIdx sh n k : Int) * shD sh (xLevel x k)))

/-- The granule of an entry (12 R235). -/
def granule (e : Wide) : Nat := if tHalf e = 1 then 1 else tHalf e / 2

/-- The bytes that a side moves in one piece. -/
def pieceBytes (form : CopyForm) (sh e : Wide) : Nat :=
  match form with
  | .copy | .gathc | .copyx => shPlen sh + 1
  | .copyt | .copy2 | .copyr => granule e

/-- The least offset and one past the greatest byte offset of a strided side. -/
def spanOf (cnt : Nat → Nat) (str : Nat → Int) (unit : Nat) : Int × Int :=
  let t (k : Nat) : Int := ((cnt k : Int) - 1) * str k
  (sumInt ((List.range 6).map (fun k => min 0 (t k))), sumInt ((List.range 6).map (fun k => max 0 (t k))) + unit)

/-- One past the last byte of a tensor's footprint (12 R235). -/
def footEnd (e : Wide) : Nat :=
  (tHalfAddr e (tExt e 0 - 1) (tExt e 1 - 1) (tExt e 2 - 1) (tExt e 3 - 1) + tHalf e + 1) / 2

/-- A side of a copy: its entry, the first byte and one past the last of its span, and whether it is written. -/
structure Side where
  e : Wide
  lo : Int
  hi : Int
  write : Bool
  deriving DecidableEq, Repr

/-- The rows that GATHC chooses (12 R237). -/
def gathRows (sh : Wide) : Nat := shCnt sh 1 * shCnt sh 2 * shCnt sh 3 * shCnt sh 4 * shCnt sh 5

/-- The place of an index element relative to its tensor (07 R150; AUX is LINEAR). -/
def gathPlace (e : Wide) (i0 i1 i2 i3 : Nat) : Nat :=
  i0 * granule e + i1 * tStride e 1 + i2 * tStride e 2 + i3 * tStride e 3

/-- One past the last byte of the first n elements of AUX (12 R237): strides decide which of them lies highest. -/
def gathEnd (e : Wide) (n : Nat) : Nat :=
  let q := n - 1
  let i0 := q % tExt e 0
  let i1 := q / tExt e 0 % tExt e 1
  let i2 := q / (tExt e 0 * tExt e 1) % tExt e 2
  let i3 := q / (tExt e 0 * tExt e 1 * tExt e 2)
  let tops := [gathPlace e i0 i1 i2 i3] ++
    (if i1 > 0 then [gathPlace e (tExt e 0 - 1) (i1 - 1) i2 i3] else []) ++
    (if i2 > 0 then [gathPlace e (tExt e 0 - 1) (tExt e 1 - 1) (i2 - 1) i3] else []) ++
    (if i3 > 0 then [gathPlace e (tExt e 0 - 1) (tExt e 1 - 1) (tExt e 2 - 1) (i3 - 1)] else [])
  tops.foldl max 0 + granule e

/-- The sides of a copy in the order source, destination, AUX (12 R235, R237). -/
def copySides (form : CopyForm) (sh tS tD tA : Wide) : List Side :=
  let side (e : Wide) (o : Int × Int) (w : Bool) : Side := ⟨e, (tBase e : Int) + o.1, (tBase e : Int) + o.2, w⟩
  let src : Side := match form with
    | .gathc =>
      let t : Int := ((shCnt sh 0 : Int) - 1) * shS sh 0
      side tS (min 0 t, ((tExt tS 1 : Int) - 1) * shS sh 1 + max 0 t + (shPlen sh + 1)) false
    | f => side tS (spanOf (shCnt sh) (shS sh) (pieceBytes f sh tS)) false
  let dst := side tD (spanOf (shCnt sh) (fun k => shD sh (xLevel (form == .copyt) k)) (pieceBytes form sh tD)) true
  let aux : List Side := match form with
    | .copy2 => [side tA (spanOf (shCnt sh) (fun k => shD sh (xLevel true k)) (granule tA)) true]
    | .gathc => [side tA (0, gathEnd tA (gathRows sh)) false]
    | _ => []
  [src, dst] ++ aux

/-- The window address or the virtual address of an offset of an entry. -/
def entAddr (e : Wide) (off : Int) : Word :=
  if tLevel e < 4 then BitVec.ofInt 64 (off + (0xF0 + tLevel e : Nat) * 2 ^ 56) else BitVec.ofInt 64 off

/-- Whether a byte of a side at level 0 to 3 lies outside its window (11 R208), and the first such byte. -/
def State.sideOut (s : State) (c : Nat) (x : Side) : Option Word :=
  let n := (x.hi - x.lo).toNat
  if tLevel x.e ≥ 4 then none
  else if x.lo < 0 || x.lo ≥ 2 ^ 56 || !s.inWindow c (entAddr x.e x.lo) (min n (2 ^ 57)) then
    some (if 0 ≤ x.lo && x.lo < 2 ^ 56 then s.firstOut c (entAddr x.e x.lo) n else entAddr x.e x.lo)
  else none

/-- Whether a form uses AUX (12 R229). -/
def usesAux : CopyForm → Bool
  | .copy2 | .gathc | .copyx => true
  | _ => false

/-- 12 R235, R237, R238: COPY_SHAPE. -/
def badShape (form : CopyForm) (sh tS tD tA : Wide) : Bool :=
  let total := nestTotal sh * pieceBytes form sh tD * (if form == .copy2 then 2 else 1)
  total > 2 ^ 40 ||
  (match form with
   | .copyt => shPlen sh ≠ 0 || granule tS ≠ granule tD
   | .copy2 => shPlen sh ≠ 0 || granule tS ≠ granule tD || granule tA ≠ granule tD
   | .copyr => shPlen sh ≠ 0
   | .gathc => !(tKind tA == 10 || tKind tA == 12) || tLayout tA ≠ 0 || shS sh 1 ≤ 0 ||
       (List.range 4).any (fun k => shS sh (k + 2) ≠ 0)
   | .copyx => tLevel tA ≠ 0 || tBase tA % 16 ≠ 0
   | .copy => false)

/-- 12 R235, R237: TT_BOUNDS. -/
def badBounds (form : CopyForm) (sh tA : Wide) (sides : List Side) : Bool :=
  let auxCount := tExt tA 0 * tExt tA 1 * tExt tA 2 * tExt tA 3
  (match sides with
   | s :: d :: r =>
     let out (x : Side) : Bool := x.lo < tBase x.e || x.hi > footEnd x.e
     out s || out d || (form == .copy2 && r.any out)
   | _ => false) ||
  (form == .gathc && gathRows sh > auxCount)

/-- 12 R235: COPY_ALIGN. -/
def badAlign (form : CopyForm) (sh tS tD tA : Wide) : Bool :=
  let used (k : Nat) : Bool := shCnt sh k > 1
  let bad (m : Nat) (x : Int) : Bool := x % (m : Int) ≠ 0
  match form with
  | .copy | .copyx =>
    (shPlen sh + 1) % 32 ≠ 0 || tBase tS % 32 ≠ 0 || tBase tD % 32 ≠ 0 ||
      (List.range 6).any (fun k => used k && (bad 32 (shS sh k) || bad 32 (shD sh k)))
  | .gathc =>
    (shPlen sh + 1) % 32 ≠ 0 || tBase tS % 32 ≠ 0 || tBase tD % 32 ≠ 0 ||
      (used 0 && bad 32 (shS sh 0)) || (tExt tS 1 > 1 && bad 32 (shS sh 1)) ||
      (List.range 6).any (fun k => used k && bad 32 (shD sh k))
  | .copyr =>
    (List.range 6).any (fun k => used k && (bad (granule tS) (shS sh k) || bad (granule tD) (shD sh k)))
  | .copyt =>
    (List.range 6).any (fun k => used k && (bad (granule tS) (shS sh k) || bad (granule tD) (shD sh (xLevel true k))))
  | .copy2 =>
    (List.range 6).any (fun k => used k &&
      (bad (granule tS) (shS sh k) || bad (granule tD) (shD sh k) || bad (granule tA) (shD sh (xLevel true k))))

/-- The range register that holds a virtual address, and the check of a whole span in it (12 R238, 16 R321, 17 R342). -/
def rangeOf (rg : Tab (BitVec 256)) (va : Nat) : Option (BitVec 256) :=
  if va / 2 ^ 57 ≠ 0 then none
  else ((List.range 16).map (fun n => Tab.get 0 rg n)).find? (fun g =>
    let w := g.toNat
    fld w 192 192 == 1 && fld w 56 16 ≤ va / 65536 && va / 65536 < fld w 120 80)

/-- The code that a span of n bytes raises with its first failing byte (18 R352), or the range that holds it. -/
def spanRange (rg : Tab (BitVec 256)) (va n : Nat) (kd : AKind) : Except (Nat × Nat) (BitVec 256) :=
  match rangeOf rg va with
  | none => .error (fcRangeMiss, va)
  | some g =>
    let w := g.toNat
    if va + n > fld w 120 80 * 65536 then .error (fcRangeMiss, fld w 120 80 * 65536)
    else if (if kd.writes then fld w 194 194 == 0 else fld w 193 193 == 0) then .error (fcRangePerm, va)
    else .ok g

/-- 15 R294: the check of a barrier address. -/
def State.barCheck (s : State) (c : Nat) (a : Word) : Option Nat :=
  if !isLocal a || !s.inWindow c a 16 then some (if isLocal a then fcLocalBounds else if a.toNat % 16 ≠ 0 then fcBarAlign else fcBarLevel)
  else if a.toNat % 16 ≠ 0 then some fcBarAlign
  else match levelOf a with
    | some 0 => none
    | some 2 => none
    | _ => some fcBarLevel

/-- The barrier that a checked address names. -/
def State.barLoc (s : State) (c : Nat) (a : Word) : BarLoc :=
  match levelOf a with
  | some 2 => let (t, off) := s.localPlace c 2 (offsetOf a); ⟨t, off⟩
  | _ => ⟨c, offsetOf a⟩

/-- A barrier operand: absent when the field is 0 (12 R229, 10 R194). -/
def State.optBar (s : State) (c sb : Nat) : Option BarLoc :=
  if sb = 0 then none else some (s.barLoc c ((s.core c).sc sb))

def State.optBarFault (s : State) (c sb slot : Nat) : Option FaultRec :=
  if sb = 0 then none
  else
    let a := (s.core c).sc sb
    (s.barCheck c a).map (fun code => slotFault code slot (if code = fcLocalBounds then s.firstOut c a 16 else a))

/-- The first failure of a list of checks. -/
def firstOf : List (Option FaultRec) → Option FaultRec
  | [] => none
  | some f :: _ => some f
  | none :: r => firstOf r

def failIf (b : Bool) (code slot : Nat) (addr : Word) : Option FaultRec :=
  if b then some (slotFault code slot addr) else none

/-- 12 R230. -/
def State.copyFault (s : State) (c : Nat) (form : CopyForm) (o : CpOp) : Option FaultRec :=
  let k := s.core c
  let slot := match o.eng with | .a => 6 | .b => 7
  let sh := Tab.get 0 (match o.eng with | .a => k.shA | .b => k.shB) o.sh
  let tS := Tab.get 0 k.tt o.tsrc
  let tD := Tab.get 0 k.tt o.tdst
  let tA := Tab.get 0 k.tt (shAux sh)
  let sides := copySides form sh tS tD tA
  firstOf [
    failIf (!tValid tS || !tValid tD || (usesAux form && !tValid tA) ||
      (form == .copyr && (tKind tS == 0 || tKind tD == 0))) fcTtInvalid slot 0,
    failIf (badShape form sh tS tD tA) fcCopyShape slot 0,
    failIf (badBounds form sh tA sides) fcTtBounds slot 0,
    firstOf (sides.map (fun x => (s.sideOut c x).map (fun a => { slotFault fcLocalBounds slot a with write := x.write }))),
    failIf (badAlign form sh tS tD tA) fcCopyAlign slot 0,
    firstOf (sides.map (fun x =>
      if tLevel x.e < 4 then none
      else match spanRange k.rg x.lo.toNat (x.hi - x.lo).toNat (if x.write then .write else .read) with
        | .error (code, a) => some { code := code, slot := slot, write := x.write, addr := BitVec.ofNat 64 a }
        | .ok _ => none)),
    failIf (form == .copyx && (tLevel tD ≠ 4 || (match rangeOf k.rg (tBase tD) with
      | some g => fld g.toNat 197 196 ≠ 1
      | none => true))) fcCopyRemote slot (entAddr tD (tBase tD)),
    s.optBarFault c o.sbar slot]

/-! Matrix instructions (10 R190 to R203). -/

/-- The pair of KIND fields: accumulator tag, group and occupancy for a depth (10 R190). -/
def pairing (kA kB depth : Nat) : Option (Nat × Nat × Nat) :=
  if kA = 1 && kB = 1 then some (0, 1, 2 * depth)
  else if kA = 2 && kB = 2 then some (1, 4, depth / 2)
  else if (kA = 3 || kA = 4) && (kB = 3 || kB = 4) then some (1, 16, depth / 8)
  else if kA = 0 && kB = 0 then some (1, 32, depth / 16)
  else if (kA = 5 || kA = 6) && (kB = 5 || kB = 6) then some (2, 0, depth / 16)
  else none

/-- An origin operand (10 R191). -/
def originIdx (w : Word) (n : Nat) : Nat := fld w.toNat (16 * n + 15) (16 * n)

def badOrigin (e : Wide) (w : Word) : Bool := (List.range 4).any (fun n => originIdx w n ≥ tExt e n)

/-- The fields of the unfolding scalars (10 R201). -/
def unfoldK0 (w : Word) : Nat := fld w.toNat 23 0
def unfoldTaps (f : Word) : Nat := (fld f.toNat 3 0 + 1) * (fld f.toNat 7 4 + 1)

/-- Rows of an MDRAIN's clipped window (10 R192, R203). -/
def drainRows (e : Wide) (o : Word) : Nat := min 64 (tExt e 1 - originIdx o 1)
def drainGroups (e : Wide) (o : Word) : Nat := (drainRows e o + 7) / 8

def matOk (e : Wide) : Bool := tValid e && tLevel e == 0

/-- The format tag of an accumulator; ZERO when nothing has set one (10 R189). -/
def Core.tag (k : Core) (a : Nat) : Nat := Tab.get 3 k.atag a

def State.mmaFault (s : State) (c : Nat) (o : MmaOp) (unfold : Bool) : Option FaultRec :=
  let k := s.core c
  let tA := Tab.get 0 k.tt o.tA
  let tB := Tab.get 0 k.tt o.tB
  let w := k.sc o.soffA
  let f := k.sc (o.soffA + 1)
  let pr := pairing (tKind tA) (tKind tB) (32 * (o.kn + 1))
  firstOf [
    failIf (!matOk tA || !matOk tB) fcTtInvalid 3 0,
    failIf ((if unfold then fld w.toNat 63 52 ≥ tExt tA 3 || unfoldK0 w ≥ unfoldTaps f * tExt tA 0 else badOrigin tA w) ||
      badOrigin tB (k.sc o.soffB)) fcTtBounds 3 0,
    failIf (match pr with
      | none => true
      | some (t, _, _) => !o.z && k.tag o.acc ≠ t && k.tag o.acc ≠ 3) fcMxFormat 3 0,
    failIf (unfold && f.toNat / 2 ^ 16 ≠ 0) fcMxUnfold 3 0,
    failIf (k.now < k.busyC) fcMxBusy 3 0,
    s.optBarFault c o.sbar 3]

def State.drainFault (s : State) (c t soffB sbar : Nat) : Option FaultRec :=
  let k := s.core c
  let e := Tab.get 0 k.tt t
  let w := k.sc soffB
  firstOf [
    failIf (!matOk e) fcTtInvalid 3 0,
    failIf (badOrigin e w) fcTtBounds 3 0,
    failIf (tBlock e ≠ 0 && originIdx w 0 % tBlock e ≠ 0) fcMxFormat 3 0,
    failIf (k.now < k.busyD) fcMxBusy 3 0,
    s.optBarFault c sbar 3]

def State.mloadFault (s : State) (c t soffA sbar : Nat) : Option FaultRec :=
  let k := s.core c
  let e := Tab.get 0 k.tt t
  firstOf [
    failIf (!matOk e) fcTtInvalid 3 0,
    failIf (badOrigin e (k.sc soffA)) fcTtBounds 3 0,
    failIf (!(tKind e == 1 || tKind e == 2 || tKind e == 9)) fcMxFormat 3 0,
    failIf (k.now < k.busyC) fcMxBusy 3 0,
    s.optBarFault c sbar 3]

/-! Loads and stores (11 R210). -/

/-- What an LD- or ST-slot syllable asks for: its slot, its elements (number, address, size), whether it writes, is an
atomic, and whether it makes level-0 and level-1 accesses only by lane (11 R223). -/
structure LsReq where
  slot : Nat
  els : List (Nat × Word × Nat)
  write : Bool
  atomic : Bool
  lanes : Bool
  deriving DecidableEq, Repr

def scalarReq (k : Core) (slot sbase sidx : Nat) (imm : Int) (w : Nat) (write atomic idx : Bool) : LsReq :=
  let a := baseAddr k sbase imm + (if idx then k.sc sidx else 0)
  ⟨slot, [(0, a, w)], write, atomic, false⟩

def vectorReq (k : Core) (slot : Nat) (o : LsOp) (f : AddrForm) (w : Nat) (write : Bool) : LsReq :=
  ⟨slot, (activeElems k o f w).map (fun e => (e.1, e.2, w)), write, false, (match f with | .lanes _ => true | _ => false)⟩

def atomReq (k : Core) (o : AtOp) (cas : Bool) : LsReq := scalarReq k 4 o.sbase o.sidx o.imm 8 true true (!cas)

/-- The request of an instruction, if it is a load, store or atomic. -/
def lsReq (k : Core) (i : Instr) : Option LsReq :=
  match i with
  | .ld o => some (scalarReq k 4 o.sbase o.sidx o.imm (2 ^ o.size) false false true)
  | .vld o => some (vectorReq k 4 o .contiguous (2 ^ o.size) false)
  | .vlds o => some (vectorReq k 4 o .strided (2 ^ o.size) false)
  | .vgath o => some (vectorReq k 4 o (.indexed o.reg) (2 ^ o.size) false)
  | .lsld o => some (vectorReq k 4 o (.lanes o.reg) 4 false)
  | .st o => some (scalarReq k 5 o.sbase o.sidx o.imm (2 ^ o.size) true false true)
  | .vst o => some (vectorReq k 5 o .contiguous (2 ^ o.size) true)
  | .vsts o => some (vectorReq k 5 o .strided (2 ^ o.size) true)
  | .vscat o => some (vectorReq k 5 o (.indexed (o.reg + 1)) (2 ^ o.size) true)
  | .lsst o => some (vectorReq k 5 o (.lanes (o.reg + 1)) 4 true)
  | .aadd o | .amin o | .amax o | .aand o | .aor o | .axor o | .aswap o | .afadd o => some (atomReq k o false)
  | .acas o => some (atomReq k o true)
  | .aaddNr o | .aminNr o | .amaxNr o | .aandNr o | .aorNr o | .axorNr o | .aswapNr o | .afaddNr o =>
    some (atomReq k o false)
  | _ => none

/-- The level of a request's active elements; none when there is none. -/
def reqLevel (r : LsReq) : Option Nat :=
  if r.lanes then (if r.els.isEmpty then none else some 1)
  else match r.els with
    | [] => none
    | e :: _ => levelOf e.2.1

/-- The words of a level-0 request (11 R212). -/
def reqWords (r : LsReq) : List Nat := wordsOf (r.els.map (fun e => (offsetOf e.2.1, e.2.2)))

/-- The address of an element in a fault record (18 R352): a lane form's is that of its slice in the lane window (11 R208, R223; log
33). -/
def LsReq.addrOf (r : LsReq) (e : Nat × Word × Nat) : Word := if r.lanes then windowAddr 1 (e.1 * 4096) + e.2.1 else e.2.1

/-- 11 R210, and 11 R223 for the lane forms. -/
def State.lsFault (s : State) (c : Nat) (r : LsReq) : Option FaultRec :=
  let k := s.core c
  let at' (code : Nat) (p : Nat × Word × Nat → Bool) : Option FaultRec :=
    (r.els.find? p).map (fun e =>
      { code := code, slot := r.slot, write := r.write,
        addr := if code = fcLocalBounds && !r.lanes then s.firstOut c e.2.1 e.2.2 else r.addrOf e })
  if r.lanes then
    firstOf [at' fcLocalBounds (fun e => e.2.1.toNat ≥ 4096), at' fcMisalign (fun e => e.2.1.toNat % 4 ≠ 0)]
  else
    let lv := reqLevel r
    firstOf [
      at' fcLocalBounds (fun e => isLocal e.2.1 && !s.inWindow c e.2.1 e.2.2),
      at' fcLevelMix (fun e => levelOf e.2.1 != lv),
      at' fcMisalign (fun e => e.2.1.toNat % e.2.2 ≠ 0),
      at' fcLsLevel (fun _ => r.atomic && lv == some 1),
      (if lv == some 4 then
        r.els.findSome? (fun e =>
          match translate s.deviceId k.rg e.2.1 (if r.atomic then .atomic else if r.write then .write else .read) false with
          | .error code => some { code := code, slot := r.slot, write := r.write, addr := e.2.1 }
          | .ok _ => none)
       else none),
      (if lv == some 0 && lsBusy k.now r.slot k.lsWords (reqWords r) then
        some { code := fcLsBusy, slot := r.slot, write := r.write }
       else none)]

/-- The range of a maintenance instruction: its level-4 start and length after widening to granules (11 R227). -/
def maintRange (k : Core) (o : RgOp) (gran : Nat) : Nat × Nat :=
  let a := (baseAddr k o.sbase o.imm).toNat
  let len := (k.sc o.sidx).toNat
  let n := if len = 0 then gran else len
  let lo := a / gran * gran
  let hi := (a + n + gran - 1) / gran * gran
  (lo, hi - lo)

/-- The first failure of a range that may run over several range registers; the fuel is one more than the registers. -/
def coverRange (rg : Tab (BitVec 256)) (kd : AKind) : Nat → Nat → Nat → Option (Nat × Nat)
  | 0, lo, hi => if lo < hi then some (fcRangeMiss, lo) else none
  | fuel + 1, lo, hi =>
    if hi ≤ lo then none
    else match rangeOf rg lo with
      | none => some (fcRangeMiss, lo)
      | some g =>
        let w := g.toNat
        if (if kd.writes then fld w 194 194 == 0 else fld w 193 193 == 0) || fld w 197 196 ≠ 0 then some (fcRangePerm, lo)
        else coverRange rg kd fuel (fld w 120 80 * 65536) hi

/-- FLUSH, DISCARD and REARM (11 R210, R227). -/
def State.maintFault (s : State) (c : Nat) (o : RgOp) (op : MaintOp) : Option FaultRec :=
  let k := s.core c
  let a := baseAddr k o.sbase o.imm
  let len := (k.sc o.sidx).toNat
  let kd : AKind := match op with | .flush => .flush | .discard => .discard | .rearm => .rearm
  let (lo, n) := maintRange k o (if op == .rearm then 32 else 128)
  let bad (b : Bool) (code : Nat) : Option FaultRec :=
    if b then some { code := code, slot := 5, write := op != .flush, addr := a } else none
  firstOf [
    bad (isLocal a && !s.inWindow c a 1) fcLocalBounds,
    bad (op == .rearm && (a.toNat % 32 ≠ 0 || len % 32 ≠ 0)) fcMisalign,
    bad (isLocal a) fcLsLevel,
    (coverRange k.rg kd 17 lo (lo + n)).map (fun e =>
      { code := e.1, slot := 5, write := op != .flush, addr := BitVec.ofNat 64 e.2 }),
    bad (len > 2 ^ 24) fcRangeLen]

/-- PREF (11 R210, R227): an address in no window, and a range too long. A failure of translation drops it. -/
def State.prefFault (s : State) (c : Nat) (o : RgOp) : Option FaultRec :=
  let k := s.core c
  let a := baseAddr k o.sbase o.imm
  firstOf [failIf (isLocal a && !s.inWindow c a 1) fcLocalBounds 4 a, failIf ((k.sc o.sidx).toNat > 2 ^ 24) fcRangeLen 4 a]

/-! The K slot. -/

/-- The program of a number: the kind-9 sections of the task's container in table order (16 R320). -/
def State.program (s : State) (c n : Nat) : Option (List Word) :=
  match (s.core c).occ with
  | none => none
  | some o => match Tab.find s.containers o.handle with
    | none => none
    | some h => (h.sections.filterMap (fun x => match x with | .program w => some w | _ => none))[n]?

/-- A microprogram that NMRUN accepts (05 R100, 16 R315). -/
def programOk (w : List Word) : Bool :=
  let ds := w.map (fun x => decodeNM x.toNat)
  let ok := ds.all (fun d => match d with | .ok _ => true | .error _ => false)
  let loops := (List.range ds.length).zip ds |>.filterMap (fun e => match e.2 with | .ok (.nloop t) => some (e.1, t) | _ => none)
  0 < w.length && w.length ≤ 1024 && ok &&
  (match ds.getLast? with | some (.ok .nend) => true | _ => false) &&
  loops.length ≤ 1 && loops.all (fun e => e.2 < e.1)

/-- The address of a parameter block or descriptor: its level and its alignment (16 R320, 17 R340). -/
def blockBad (a : Word) : Bool := a.toNat % 64 ≠ 0 || (levelOf a != some 0 && levelOf a != some 4)

/-- A block at level 0 that leaves its window (11 R208). -/
def State.blockOut (s : State) (c : Nat) (a : Word) (n : Nat) : Bool := levelOf a == some 0 && !s.inWindow c a n

/-- The count of a barrier instruction (15 R299). -/
def countOf (k : Core) : BCount → Nat
  | .const n => n
  | .reg n => (k.sc n).toNat % 2 ^ 48

def countBad (k : Core) : BCount → Bool
  | .const _ => false
  | .reg n => (k.sc n).toNat / 2 ^ 48 ≠ 0

def State.barInstrFault (s : State) (c sb : Nat) (n : Option BCount) : Option FaultRec :=
  let k := s.core c
  let a := k.sc sb
  firstOf [(s.barCheck c a).map (fun code => slotFault code 8 (if code = fcLocalBounds then s.firstOut c a 16 else a)),
    failIf (match n with | some x => countBad k x | none => false) fcBarCount 8 0]

/-- The communicator word of a number (17 R339). -/
def State.comm (s : State) (c : Nat) : Word := Tab.get 0 s.comms c
def commValid (w : Word) : Bool := w.getLsbD 32

/-- Loop counts (06 R125): c[k] from the scalars. -/
def loopCounts (k : Core) (nd sa n0 : Nat) (x : Bool) : List Nat :=
  (List.range nd).map (fun i =>
    if x then (if i = 0 then n0 else (k.sc (sa + i - 1)).toNat % 2 ^ 32) else (k.sc (sa + i)).toNat % 2 ^ 32)

/-- LOOP_PLACE and LOOP_COUNT (05 R101, 06 R125). -/
def loopFault (k : Core) (cs : List Nat) (e : Nat) : Option FaultRec :=
  firstOf [
    failIf (k.loop.active || k.delay.isSome) fcLoopPlace 0 0,
    failIf (cs.any (· == 0) || cs.headD 0 + e > 2 ^ 32 - 1) fcLoopCount 0 0]

/-! What a syllable may be in the core's context (05 R99, 18 R354, 20 R379). -/

def isTerminal (k : Core) : Bool := match k.occ with | some o => o.step && o.terminal | none => false

/-- Scalar fields and predicate fields of the S and K syllables that the shadow context admits; none for the others
(18 R354). -/
def shadowFields (i : Instr) : Option (List Nat × List Nat) :=
  match i with
  | .nop _ _ g => some ([], [g])
  | .add d a b | .sub d a b | .mul d a b | .mulh d a b | .mulhu d a b | .div d a b | .divu d a b | .rem d a b
  | .remu d a b | .and d a b | .or d a b | .xor d a b | .shl d a b | .shr d a b | .sar d a b | .min d a b
  | .max d a b | .minu d a b | .maxu d a b => some ([d, a, b], [])
  | .sel d a b n => some ([d, a, b], [n])
  | .addi d a _ | .andi d a _ | .ori d a _ | .xori d a _ | .shli d a _ | .shri d a _ | .sari d a _ => some ([d, a], [])
  | .clz d a | .popc d a => some ([d, a], [])
  | .movj d _ => some ([d], [])
  | .movp d n => some ([d], [n])
  | .cmpCc _ p a b => some ([a, b], [p])
  | .cmpiCc _ p a _ => some ([a], [p])
  | .li d _ | .lih d _ => some ([d], [])
  | .fadd _ d a b | .fsub _ d a b | .fmul _ d a b | .ffma _ d a b | .fdiv _ d a b => some ([d, a, b], [])
  | .fsqrt _ d a => some ([d, a], [])
  | .fcmpCc _ _ p a b => some ([a, b], [p])
  | .fcvt _ _ d a => some ([d, a], [])
  | .br _ => some ([], [])
  | .brc p _ _ => some ([], [p])
  | .jr a => some ([a], [])
  | .sysrd d _ => some ([d], [])
  | .pand d a b | .por d a b | .pxor d a b => some ([], [d, a, b])
  | .pnot d a => some ([], [d, a])
  | .pset d a _ => some ([a], [d])
  | .clock d => some ([d], [])
  | .hrd d _ => some ([d], [])
  | .hwr n a => if n < 64 then some ([a], []) else none
  | .hpage d a _ => some ([d, a], [])
  | .hfreeze a => some ([a], [])
  | .eret => some ([], [])
  | .trap _ => some ([], [])
  | _ => none

/-- ILL_INSTR for the context: privileged syllables outside the handler (05 R99), everything that the handler may not
hold (18 R354), step instructions of other tasks (20 R379). -/
def ctxBad (k : Core) (i : Instr) : Bool :=
  if k.shadow.isSome then
    (match shadowFields i with
     | some (r, p) => r.any (· ≥ 16) || p.any (· ≥ 4)
     | none => true)
  else match i with
    | .hrd _ _ | .hwr _ _ | .hpage _ _ _ | .hfreeze _ | .eret => true
    | .stepwr _ _ | .curadv _ _ _ | .seqnext _ _ | .losschk _ _ | .pennon _ _ => !k.isStep
    | .stepend => !isTerminal k
    | _ => false

def ctxFault (k : Core) (sl : Slot) (i : Instr) : Option FaultRec :=
  failIf (ctxBad k i) fcIllInstr (slotNo sl) 0

/-- The operand checks of a syllable on one core (05 R88, step 9, and LOOP_PLACE of step 8). -/
def State.operandFault (s : State) (c : Nat) (sl : Slot) (i : Instr) : Option FaultRec :=
  let k := s.core c
  match i with
  | .loop nd sa _ e => loopFault k (loopCounts k nd sa 0 false) e
  | .loopx nd sa _ n0 => loopFault k (loopCounts k nd sa n0 true) 0
  | .vnarrowT o =>
    let e := Tab.get 0 k.tt o.vc
    failIf (!tValid e || (tHalf e + 1) / 2 > o.ty.width || tKind e ≥ 5) fcTtInvalid (slotNo sl) 0
  | .vscaleT o =>
    let e := Tab.get 0 k.tt o.vc
    failIf (!tValid e || (tHalf e + 1) / 2 > o.ty.width || tKind e ≥ 5 || tBlock e == 0) fcTtInvalid (slotNo sl) 0
  | .vwidenT o =>
    let e := Tab.get 0 k.tt o.vc
    failIf (!tValid e || !widenOk e o.ty) fcTtInvalid (slotNo sl) 0
  | .mzero _ => failIf (k.now < k.busyC) fcMxBusy 3 0
  | .mma o => s.mmaFault c o false
  | .mmau o _ => s.mmaFault c o true
  | .mdrain _ t f b _ _ => s.drainFault c t f b
  | .mload _ t f b _ => s.mloadFault c t f b
  | .flush o => s.maintFault c o .flush
  | .discard o => s.maintFault c o .discard
  | .rearm o => s.maintFault c o .rearm
  | .pref o => s.prefFault c o
  | .copy o => s.copyFault c .copy o
  | .copyt o => s.copyFault c .copyt o
  | .copy2 o => s.copyFault c .copy2 o
  | .copyr o => s.copyFault c .copyr o
  | .gathc o => s.copyFault c .gathc o
  | .copyx o => s.copyFault c .copyx o
  | .binit b n | .bexpect b n | .barrive b n => s.barInstrFault c b (some n)
  | .bwait _ b _ => s.barInstrFault c b none
  | .btoken _ b => s.barInstrFault c b none
  | .nmrun p b n =>
    let a := k.sc p
    firstOf [
      failIf (match s.program c n with | some w => !programOk w | none => true) fcIllNmprog 8 0,
      failIf (blockBad a) fcNmParam 8 a,
      failIf (s.blockOut c a 256) fcLocalBounds 8 (s.firstOut c a 256),
      s.optBarFault c b 8]
  | .coll d b n =>
    let a := k.sc d
    firstOf [
      failIf (!commValid (s.comm n)) fcCollComm 8 0,
      failIf (blockBad a) fcCollDesc 8 a,
      failIf (s.blockOut c a 64) fcLocalBounds 8 (s.firstOut c a 64),
      s.optBarFault c b 8]
  | _ => match lsReq k i with
    | some r => s.lsFault c r
    | none => none

/-! Waits before issue (01 R22, R23). -/

/-- Landing-buffer entries that a syllable reserves (11 R222, R225, R227; 12 R230; 15 R301; 16 R320; 17 R340). -/
def entriesOf (k : Core) (i : Instr) : Nat :=
  match i with
  | .flush _ | .discard _ | .rearm _ | .copy _ | .copyt _ | .copy2 _ | .copyr _ | .gathc _ | .copyx _ | .bwait _ _ _
  | .btoken _ _ | .nmrun _ _ _ | .coll _ _ _ => 1
  | _ => match lsReq k i with
    | some r => (match reqLevel r with | some l => if l ≥ 2 then 1 else 0 | none => 0)
    | none => 0

/-- The overlap test of the range scoreboard (11 R216). -/
def scoreHit (k : Core) (i : Instr) : Bool :=
  match lsReq k i with
  | none => false
  | some r =>
    match reqLevel r with
    | none => false
    | some lv =>
      if lv > 1 then false
      else
        let place (e : Nat × Word × Nat) : Nat := lv * 2 ^ 56 + (if r.lanes then e.1 * 4096 + e.2.1.toNat else offsetOf e.2.1)
        let lo := r.els.foldl (fun m e => min m (place e)) (2 ^ 64)
        let hi := r.els.foldl (fun m e => max m (place e + e.2.2)) 0
        k.score.any (fun x => (r.write || x.write) && x.lo < hi && lo < x.hi)

/-- Slots that a link-queue syllable moves (11 R226). -/
def lqCount (v : Bool) : Nat := if v then 64 else 1

/-- The wait of a named barrier (10 R194). -/
def State.mxWaits (s : State) (c sbar stok : Nat) : Bool :=
  match s.optBar c sbar with
  | none => false
  | some b =>
    (s.core c).barq.any (fun o => o.bar = b) || !(s.barPassed b ((s.core c).sc stok).toNat)

/-- The cause under which a syllable freezes its core before issue, first in the order of 01 R23; landing-buffer
entries are counted over a whole bundle, `need` of them. -/
def State.waitCause (s : State) (c need : Nat) (i : Instr) : Option Nat :=
  let k := s.core c
  let mx : Bool := match i with
    | .mma o | .mmau o _ => s.mxWaits c o.sbar o.stok
    | .mdrain _ _ _ b t _ | .mload _ _ _ b t => s.mxWaits c b t
    | _ => false
  let lq : Bool := match i with
    | .lqpop v _ q => (Tab.get [] k.lq q).length < lqCount v
    | .lqpsh v _ q => Tab.get 512 k.credits q < lqCount v || (Tab.get Link.reset s.links q).state != .active
    | _ => false
  if mx then some 2
  else if lq then some 3
  else if scoreHit k i then some 4
  else if need > 0 && k.entries + need > 256 then some 5
  else none

/-! The frame of a syllable. -/

/-- A syllable on the core that executes: illegal in its context, or a failed check, takes the exception (05 R88); a
wait freezes one period (01 R23); otherwise its effect happens and the issue number advances. -/
def syl (sl : Slot) (i : Instr) (s : State) (body : State → State) : Host.Outcome State Fault Refusal :=
  if s.cur > 255 then .fault (.noSuchCore s.cur)
  else
    let k := s.me
    match firstOf [ctxFault k sl i, s.operandFault s.cur sl i] with
    | some f => .next (s.takeFault s.cur f)
    | none =>
      match s.waitCause s.cur (entriesOf k i) i with
      | some cause => .next (s.freeze s.cur cause (fun m => if m = s.cur then [cause] else []))
      | none => let t := body s; .next { t with seq := t.seq + 1 }

/-- A syllable that only writes results: no check but its context, no wait. -/
theorem syl_ok (sl : Slot) (i : Instr) (s : State) (body : State → State) (hc : s.cur ≤ 255)
    (hf : firstOf [ctxFault s.me sl i, s.operandFault s.cur sl i] = none)
    (hw : s.waitCause s.cur (entriesOf s.me i) i = none) :
    syl sl i s body = .next { body s with seq := (body s).seq + 1 } := by
  unfold syl
  rw [if_neg (by omega)]
  simp only [hf, hw]

end Sys2Proof.Machine
end

