-- ==== Sys2Proof/Machine/Due.lean ====
section
/-! DEFINITION. What a core finds at a cycle boundary: faults to take (18 R351), late data (01 R21), landings (06 R105),
the bundle that is due and the checks and waits before it issues (05 R88, 01 R23). -/

namespace Sys2Proof.Machine

/-! What is recorded and not yet taken (18 R351). -/

/-- MX_CORRUPT (10 R196, 18 R352): raised at the landing cycle of the matrix instruction. -/
def mxRec : FaultRec := { code := fcMxCorrupt, slot := 3, data := true }

/-- The first second mismatch that stands is taken. -/
def takeBad : List MxRec → List MxRec
  | [] => []
  | x :: r => if x.bad then { x with bad := false } :: r else x :: takeBad r

/-- Failures of a core that may be taken now, with their issue numbers: loads and returning atomics at their landing
cycle, stores at once, runs and collectives that failed, and faults that landed. -/
def State.recorded (s : State) (c : Nat) : List (Nat × FaultRec) :=
  let k := s.core c
  k.land.filterMap (fun a =>
    match a.fault, a.landAt with
    | some f, none => some (a.id, f)
    | some f, some t => if t ≤ k.now then some (a.id, f) else none
    | none, _ => none) ++
  k.nmRuns.filterMap (fun n => match Tab.find s.runs n with
    | some r => r.fault.map (fun f => (r.id, f))
    | none => none) ++
  k.colls.filterMap (fun x => x.fault.map (fun f => (x.id, f))) ++
  (k.mx.filter (fun x => x.bad && x.due ≤ k.now)).map (fun x => (x.id, mxRec)) ++
  k.faults.map (fun f => (f.access.getD 0, f))

/-- The earliest-issued of a list. -/
def earliest : List (Nat × FaultRec) → Option FaultRec
  | [] => none
  | x :: r => some (r.foldl (fun a b => if b.1 < a.1 then b else a) x).2

/-- The fault TRAP (18 R360). -/
def trapRec (n : Nat) : FaultRec := { code := fcTrap, slot := 8, trapno := n }

/-- What a member takes at this boundary: a recorded failure before a TRAP (18 R351, R360). -/
def State.memberFault (s : State) (m : Nat) : Option FaultRec :=
  match earliest (s.recorded m) with
  | some f => some f
  | none => (s.core m).trap.map trapRec

/-- The first member of a gang that holds a fault, and the fault (18 R351). -/
def State.gangFault (s : State) : List Nat → Option (Nat × FaultRec)
  | [] => none
  | m :: r => match s.memberFault m with
    | some f => some (m, f)
    | none => State.gangFault s r

/-- A record leaves those that wait. -/
def Core.dropFault (k : Core) (f : FaultRec) : Core :=
  if f.code = fcTrap then { k with trap := none }
  else if f.code = fcMxCorrupt then { k with mx := takeBad k.mx }
  else { k with faults := k.faults.erase f }

/-- A second mismatch of a step task sets CORR and FAULT in the landing cycle (10 R196, R197, 18 R350). -/
def State.raiseMx (s : State) (ms : List Nat) : State :=
  if ms.any (fun m => let k := s.core m; k.isStep && k.mx.any (fun x => x.bad && x.due ≤ k.now)) then s.pennonOr 24 else s

/-! Late data and landing. -/

/-- The cause under which a member waits for data that are late (01 R21, R23). -/
def State.lateNow (s : State) (c : Nat) : List Nat :=
  let k := s.core c
  k.land.filterMap (fun a => match a.landAt with
    | some t => if t ≤ k.now && a.fault.isNone && (s.accEff c a).isNone then some (s.lateCause c a) else none
    | none => none)

/-- The cause that stands first in 01 R23. -/
def firstCause : List Nat → Option Nat
  | [] => none
  | x :: r => some (r.foldl min x)

/-- Landing-buffer entries whose cycle has come become results (01 R21, R22). -/
def State.landAcc (s : State) (c : Nat) : State :=
  let k := s.core c
  let now' (a : Access) : Bool := match a.landAt with | some t => t ≤ k.now | none => false
  let rdy := k.land.filter now'
  if rdy.isEmpty then s
  else s.setCore c { k with
    land := k.land.filter (fun a => !(now' a)),
    pend := rdy.foldl (fun p a => match s.accEff c a with
      | some e => pendIns ⟨k.now, a.id, e⟩ p
      | none => p) k.pend }

/-- Everything due in this cycle lands on every member (06 R105). -/
def State.landAll (s : State) (ms : List Nat) : State := ms.foldl (fun s m => (s.landAcc m).landPend m) s

/-- A frozen period: stores to local memories that are due perform, nothing else moves (06 R109). -/
def State.freezeGang (s : State) (c cause : Nat) (ms : List Nat) (own : Nat → List Nat) : State :=
  (ms.foldl (fun s m => s.performLocals m) s).freeze c cause own

/-! The bundle that is due. -/

/-- What the fetch unit gives for the bundle that is due. -/
inductive Due where
  | held (cause ipa : Nat)
  | fault (f : FaultRec)
  | run (i : Instr)
  | ok (h : Header) (parcels : List Nat)
  deriving DecidableEq, Repr

def fetchRec (code ipa : Nat) (va : Word) : FaultRec := { code := code, addr := va, ipa := ipa }

/-- Steps 1 to 3 of 05 R88. -/
def State.dueHeader (s : State) (c : Nat) (pc : Word) (target : Bool) : Due :=
  if target && pc.toNat % 4 ≠ 0 then .fault { code := fcBadTarget, addr := pc }
  else match s.parcelAt c pc 0 with
    | .held w ipa => .held w ipa
    | .fail code ipa => .fault (fetchRec code ipa pc)
    | .ok w => match decodeHeader w with
      | .error _ => .run (.illBundle target (BitVec.ofNat 32 w))
      | .ok h => .ok h [w]

/-- Step 4 of 05 R88: the later parcels, from the lowest address on. -/
def State.dueRest (s : State) (c : Nat) (pc : Word) (h : Header) : Nat → Nat → List Nat → Due
  | 0, _, ps => .ok h ps
  | n + 1, k, ps => match s.parcelAt c pc k with
    | .held w ipa => .held w ipa
    | .fail code ipa => .fault (fetchRec code ipa (pc + BitVec.ofNat 64 (4 * k)))
    | .ok w => s.dueRest c pc h n (k + 1) (ps ++ [w])

/-- The syllables of a bundle with their slots (05 R83). -/
def bundleSyls (h : Header) (ps : List Nat) : List (Slot × Instr) :=
  (sylWords h.slots (ps.drop 1)).map (fun e => (e.1, sylInstr e.1 e.2))

/-- Branches (06 R123). -/
def isBranch : Instr → Bool
  | .br _ | .brc _ _ _ | .jr _ | .call _ | .ret => true
  | _ => false

def isLoop : Instr → Bool
  | .loop _ _ _ _ | .loopx _ _ _ _ => true
  | _ => false

/-- Syllables that member 0 alone decides for the gang (05 R89). -/
def isFlow (i : Instr) : Bool := isBranch i || isLoop i || i == .endTask

/-- Step 5 of 05 R88: the first illegal syllable. -/
def firstIll (k : Core) (l : List (Slot × Instr)) : Option Instr :=
  (l.find? (fun e => ctxBad k e.2 || (match e.2 with | .illInstr _ _ => true | _ => false))).map (·.2)

/-- Steps 6 to 8 of 05 R88. -/
def placeFault (k : Core) (delay : Bool) (l : List (Slot × Instr)) : Option FaultRec :=
  firstOf [
    if k.shadow.isNone && k.loop.active && !k.loop.whole && k.loop.len ≥ 64 then some { code := fcLoopLong } else none,
    failIf (delay && l.any (fun e => isBranch e.2)) fcDelayBranch 0 0,
    failIf ((delay || k.loop.active) && l.any (fun e => isLoop e.2)) fcLoopPlace 0 0]

/-- Step 9 of 05 R88 on one member. -/
def State.sylFault (s : State) (m first : Nat) (l : List (Slot × Instr)) : Option FaultRec :=
  firstOf (l.map (fun e => if isFlow e.2 && m ≠ first then none else s.operandFault m e.1 e.2))

/-- Step 9 over the members whose guard holds, the lowest gang index first (05 R84, R89). -/
def State.gangSylFault (s : State) (first : Nat) (l : List (Slot × Instr)) : List Nat → Option (Nat × FaultRec)
  | [] => none
  | m :: r => match s.sylFault m first l with
    | some f => some (m, f)
    | none => State.gangSylFault s first l r

/-- The waits of the members whose guard holds before issue (01 R22, R23, R25): the member, the slot and the cause. -/
def State.gangWaits (s : State) (on : List Nat) (l : List (Slot × Instr)) : List (Nat × Slot × Nat) :=
  on.flatMap (fun m =>
    let need := (l.map (fun e => entriesOf (s.core m) e.2)).foldl (· + ·) 0
    l.filterMap (fun e => (s.waitCause m need e.2).map (fun w => (m, e.1, w))))

/-- The causes of a list of waits, and those of one member. -/
def causesOf (ws : List (Nat × Slot × Nat)) : List Nat := ws.map (·.2.2)
def causesAt (ws : List (Nat × Slot × Nat)) (m : Nat) : List Nat := causesOf (ws.filter (fun w => w.1 == m))

/-- What steps 1 to 9 of 05 R88, and the waits after them, leave of the bundle that a gang has due: a fetch that is held,
the fault of a member, a decode fault, a safe point to stop at, the waits of its members, or a bundle that issues. -/
inductive Ready where
  | held (cause ipa : Nat)
  | fault (m : Nat) (f : FaultRec)
  | run (i : Instr)
  | safe
  | waits (ws : List (Nat × Slot × Nat))
  | issue (h : Header) (parcels : List Nat) (l : List (Slot × Instr)) (on : List Nat)
  deriving DecidableEq, Repr

/-- The checks and waits of a bundle whose parcels are present (05 R88, R89). -/
def State.readySyls (s : State) (c : Nat) (ms : List Nat) (h : Header) (ps : List Nat) : Ready :=
  let k := s.core c
  let l := bundleSyls h ps
  match firstIll k l with
  | some i => .run i
  | none => match placeFault k k.delay.isSome l with
    | some f => .fault c f
    | none =>
      let on := ms.filter (fun m => (s.core m).cond h.guard)
      match s.gangSylFault c l on with
      | some (m, f) => .fault m f
      | none =>
        let ws := s.gangWaits on l
        if ws.isEmpty then .issue h ps l on else .waits ws

/-- The bundle due; `safe` says that its header would stop the task at a safe point. -/
def State.ready (s : State) (c : Nat) (ms : List Nat) (safe : Bool) : Ready :=
  let k := s.core c
  match s.dueHeader c k.pc k.isTarget with
  | .held cause ipa => .held cause ipa
  | .fault f => .fault c f
  | .run i => .run i
  | .ok h ps0 =>
    if h.sp && safe then .safe
    else match s.dueRest c k.pc h h.parcels 1 ps0 with
      | .held cause ipa => .held cause ipa
      | .fault f => .fault c f
      | .run i => .run i
      | .ok h ps => s.readySyls c ms h ps

/-- The state after the landings of a gang that stands before the issue of a bundle, by its first core: the task runs,
nothing has ended it or taken it to the handler, no fault is recorded and no data are late (18 R351, 01 R21). -/
def State.beforeIssue (s : State) (c : Nat) : Option (Nat × State) :=
  match (s.core c).occ with
  | none => none
  | some o =>
    let k := s.core o.first
    let ms := s.gang o.first
    if !k.begun || k.stopped || k.ended || ms.any (fun m => (s.core m).shadow.isSome) then none
    else if (s.gangFault ms).isSome || !(ms.flatMap s.lateNow).isEmpty then none
    else some (o.first, s.landAll ms)

/-- The IPAs of the parcels of the bundle due, from its header on, unless the loop buffer holds it (05 R85, R101). -/
def State.fetchIpas (s : State) (c : Nat) : List Nat :=
  let k := s.core c
  if k.shadow.isNone && (k.loop.active || k.delay.isSome) && (bufFind k.loop.body k.pc).isSome then []
  else
    let more := match s.parcelAt c k.pc 0 with
      | .ok w => (match decodeHeader w with | .ok h => h.parcels | .error _ => 0)
      | _ => 0
    (List.range (more + 1)).filterMap (fun n =>
      match translate s.deviceId k.rg (k.pc + BitVec.ofNat 64 (4 * n)) .fetch false with
      | .ok (_, ipa) => some ipa
      | .error _ => none)

/-- Whether a wait of a core has lasted a time in ns. -/
def State.frozenFor (s : State) (c cause ns : Nat) : Bool :=
  match Tab.find (s.core c).waits (waitKey cause) with
  | some t => s.time ≥ t + ns
  | none => false

/-- The first member of a core's gang whose bundle has waited so long under a cause, and the slot that waits (15 R301,
11 R226). -/
def State.waitedOut (s : State) (c cause ns : Nat) : Option (Nat × Slot) :=
  match s.beforeIssue c with
  | none => none
  | some (first, t) => match t.ready first (s.gang first) false with
    | .waits ws => (ws.find? (fun w => w.2.2 == cause && s.frozenFor w.1 cause ns)).map (fun w => (w.1, w.2.1))
    | _ => none

/-- A wait before issue that has reached its limit: the fault of its slot, and the bundle does not issue. -/
def State.timeoutBefore (s : State) (c cause ns code : Nat) : State :=
  match s.waitedOut c cause ns with
  | some (m, sl) => s.takeFault m (slotFault code (slotNo sl) 0)
  | none => s

/-- 100 ms of wall time (15 R301, 11 R226, 18 R357). -/
def ms100 : Nat := 100000000

end Sys2Proof.Machine
end

