-- ==== Sys2Proof/Machine/Wire.lean ====
section
/-! DEFINITION. The sending side of links and scale-out flows (17 R324 to R338): routes, numbering, arbitration, groups
of protected channels, and replay. -/

namespace Sys2Proof

open Machine

/-! Flits (17 R327). -/

/-- CRC-32C of a byte, least bit first (log 27). -/
def crcBits : Nat → Nat → Nat
  | 0, c => c
  | n + 1, c => crcBits n (if c % 2 = 1 then Nat.xor (c / 2) 0x82F63B78 else c / 2)

def crc32c (l : List Byte) : Nat :=
  Nat.xor (l.foldl (fun c b => crcBits 8 (Nat.xor c b.toNat)) 0xFFFFFFFF) 0xFFFFFFFF

def Flit.get (f : Flit) (hi lo : Nat) : Nat := fld f.hdr.toNat hi lo
def Flit.put (f : Flit) (hi lo v : Nat) : Flit := { f with hdr := BitVec.ofNat 128 (setFld f.hdr.toNat hi lo v) }
def Flit.seqNo (f : Flit) : Nat := f.get 11 0
def Flit.ack (f : Flit) : Nat := f.get 23 12
def Flit.vc (f : Flit) : Nat := f.get 26 24
def Flit.kind (f : Flit) : Nat := f.get 29 27
def Flit.sop (f : Flit) : Bool := f.get 30 30 == 1
def Flit.eop (f : Flit) : Bool := f.get 31 31 == 1
def Flit.dst (f : Flit) : Nat := f.get 47 32
def Flit.src (f : Flit) : Nat := f.get 63 48
def Flit.len (f : Flit) : Nat := f.get 70 64
def Flit.core (f : Flit) : Nat := f.get 79 72
def Flit.data (f : Flit) : List Byte := f.payload.take f.len

/-- The CRC that a flit should carry. -/
def Flit.crcOf (f : Flit) : Nat := crc32c (leBytes 12 f.hdr.toNat ++ padTo 64 f.payload)

/-- Whether a receiver keeps a flit (17 R327). -/
def Flit.good (f : Flit) : Bool :=
  f.get 127 96 == f.crcOf && f.kind ≤ 4 && f.get 71 71 == 0 && f.get 95 80 == 0

/-- A flit as it leaves: SEQ, ACK and CRC filled in. -/
def Flit.seal (f : Flit) (seqNo ack : Nat) : Flit :=
  let g : Flit := (f.put 11 0 seqNo).put 23 12 ack
  g.put 127 96 g.crcOf

end Sys2Proof

namespace Sys2Proof.Machine

/-- A flit without its number, ACK and CRC. -/
def mkFlit (vc kind : Nat) (sop eop : Bool) (dst src core : Nat) (l : List Byte) : Flit :=
  { hdr := BitVec.ofNat 128 (vc * 2 ^ 24 + kind * 2 ^ 27 + bit sop * 2 ^ 30 + bit eop * 2 ^ 31 + dst * 2 ^ 32 +
      src * 2 ^ 48 + l.length * 2 ^ 64 + core * 2 ^ 72),
    payload := padTo 64 l }

/-! Links and flows. -/

/-- The key of a scale-out flow (17 R337). -/
def flowKey (port dev : Nat) : Nat := 2 ^ 20 + port * 65536 + dev

/-- A flow before its first flit: it is ACTIVE as soon as its port is enabled. -/
def State.flow (s : State) (key : Nat) : Link :=
  match Tab.find s.flows key with
  | some l => l
  | none =>
    let w := Tab.get 0 s.portWord (6 + (key - 2 ^ 20) / 65536)
    { Link.reset with word := w, state := if w.getLsbD 40 then .active else .off }

def State.link (s : State) (key : Nat) : Link :=
  if key < 2 ^ 20 then Tab.get Link.reset s.links key else s.flow key

def State.setLink (s : State) (key : Nat) (l : Link) : State :=
  if key < 2 ^ 20 then { s with links := Tab.set s.links key l } else { s with flows := Tab.set s.flows key l }

/-- Link and flow keys in use. -/
def State.linkKeys (s : State) : List Nat := List.range 6 ++ Tab.keys s.flows

def Link.mode (l : Link) (vc : Nat) : Nat := fld l.word.toNat (2 * vc + 1) (2 * vc)
def Link.weight (l : Link) (vc : Nat) : Nat :=
  if vc = 2 then fld l.word.toNat 23 16 else if vc = 3 then fld l.word.toNat 31 24 else fld l.word.toNat 39 32
def Link.enabled (l : Link) : Bool := l.word.getLsbD 40

/-- The number of the last flit received in order and released (17 R327, R335): a group that is not checked yet is not
covered. -/
def Link.ackNo (l : Link) : Nat :=
  let firsts := l.rxGroup.filterMap (fun e => e.2.head?.map Flit.seqNo)
  let back (n : Nat) : Nat := (l.rxNext + 4096 - n) % 4096
  let far := firsts.foldl (fun m n => max m (back n)) 0
  (l.rxNext + 4096 - far + 4095) % 4096

/-- The key number of one direction of a link or flow: a new key at each training to ACTIVE (17 R335). `q` is the sender's
link. -/
def linkKey (q n src dst : Nat) : Nat := ((n * 2 ^ 21 + q) * 65536 + src) * 65536 + dst

/-- A payload under a group's key stream, from a place in the group on; the same gives the payload back (17 R335). -/
def streamed (key n at' : Nat) (l : List Byte) : List Byte :=
  ((List.range 64).zip (padTo 64 l)).map (fun e => e.2 ^^^ Config.groupStream key n (at' + e.1))

/-- Headers with their CRC fields zeroed (17 R335). -/
def groupAad (l : List Flit) : List Byte := l.flatMap (fun f => leBytes 16 (f.put 127 96 0).hdr.toNat)

/-! Routing (17 R333). -/

def coord (dev dim : Nat) : Nat := dev / 16 ^ dim % 16
def State.ring (s : State) (dim : Nat) : Nat := fld s.fabric.toNat (4 * dim + 3) (4 * dim) + 1

/-- The device at the other end of a link (17 R333). -/
def State.neighbour (s : State) (q : Nat) : Nat :=
  let d := q / 2
  let n := s.ring d
  let x := coord s.deviceId d
  let y := if q % 2 = 0 then (x + 1) % n else (x + n - 1) % n
  s.deviceId - x * 16 ^ d + y * 16 ^ d

/-- The device at the other end of a link or flow. -/
def State.peerOf (s : State) (key : Nat) : Nat := if key < 2 ^ 20 then s.neighbour key else key % 65536

/-- The keys of the two directions of a link or flow after its n-th training. -/
def State.keyOut (s : State) (key n : Nat) : Nat := linkKey (if key < 2 ^ 20 then key else 2 ^ 20) n s.deviceId (s.peerOf key)
def State.keyIn (s : State) (key n : Nat) : Nat :=
  linkKey (if key < 2 ^ 20 then Nat.xor key 1 else 2 ^ 20) n (s.peerOf key) s.deviceId

/-- The address of a scale-out port of a device (17 R337). -/
def State.portAddr (s : State) (port dev : Nat) : BitVec 128 := BitVec.ofNat 128 (s.fprefix.toNat * 2 ^ 64 + port * 65536 + dev)

/-- A flit on a link, or in a datagram of its flow: it goes to the port from which the other device answers (17 R337; log 45). -/
def State.wireOut (s : State) (key : Nat) (f : Flit) : Out :=
  if key < 2 ^ 20 then .flit key f
  else
    let p := (key - 2 ^ 20) / 65536
    .datagram p (s.portAddr p s.deviceId) (s.portAddr (s.deviceId % 2) (key % 65536)) [f]

/-- Whether the shorter way from a coordinate to another is the + direction; a tie takes +. -/
def plusWay (n a b : Nat) : Bool := 2 * ((b + n - a) % n) ≤ n

/-- The link that a flit takes at this device. `arrived` is the link that it came in on, if it did. -/
def State.route (s : State) (src dst : Nat) (arrived : Option Nat) : Option Nat :=
  let own := s.deviceId
  if coord dst 3 ≠ coord own 3 then
    let key := flowKey (dst % 2) dst
    if (s.link key).state == .down then none else some key
  else if (List.range 3).any (fun d => coord dst d ≥ s.ring d) then none
  else match (List.range 3).find? (fun d => coord dst d ≠ coord own d) with
    | none => none
    | some d =>
      let n := s.ring d
      let came : Option Bool := match arrived with | some a => if a / 2 = d then some (decide (a % 2 = 1)) else none | none => none
      let short := plusWay n (coord own d) (coord dst d)
      let (plus, turned) : Bool × Bool := match came with
        | some p => (p, p != plusWay n (coord src d) (coord dst d))
        | none => (short, false)
      let lk (p : Bool) : Nat := 2 * d + (if p then 0 else 1)
      if (s.link (lk plus)).state != .down then some (lk plus)
      else if turned then none
      else if (s.link (lk (!plus))).state == .down then none
      else some (lk (!plus))

/-! Sending (17 R328, R334, R335). -/

/-- The channel that sends next (17 R334), and the weighted sharing's turn after it. -/
def Link.pick (l : Link) : Option (Nat × Nat × Nat) :=
  let has (v : Nat) : Bool := !l.stopped.contains v && l.waiting.any (fun f => f.vc == v)
  match [0, 1, 6, 4].find? has with
  | some v => some (v, l.rrAt, l.rrLeft)
  | none =>
    if has l.rrAt && l.rrLeft > 0 then some (l.rrAt, l.rrAt, l.rrLeft - 1)
    else
      let order := if l.rrAt = 2 then [3, 5, 2] else if l.rrAt = 3 then [5, 2, 3] else [2, 3, 5]
      match order.find? has with
      | some v => some (v, v, l.weight v - 1)
      | none => none

/-- Takes the first waiting flit of a channel. -/
def takeVc (v : Nat) : List Flit → Option (Flit × List Flit)
  | [] => none
  | f :: r => if f.vc = v then some (f, r) else (takeVc v r).map (fun e => (e.1, f :: e.2))

/-- One flit leaves with the next number. -/
def State.txFlit (s : State) (key : Nat) (wire plain : Flit) : State :=
  let l := s.link key
  let f := wire.seal l.txSeq l.ackNo
  let l := { l with
    txSeq := (l.txSeq + 1) % 4096,
    unacked := l.unacked ++ [(f, plain)],
    ackSent := l.ackNo,
    lastAck := if l.unacked.isEmpty then s.time else l.lastAck,
    lastRx := if l.unacked.isEmpty then s.time else l.lastRx }
  { s.setLink key l with out := s.out ++ [s.wireOut key f] }

/-- A flit without a number leaves: idle, NAK or training (17 R327). -/
def State.txBare (s : State) (key kind : Nat) (l : List Byte) : State :=
  let x := s.link key
  let f : Flit := { mkFlit 0 kind false false (s.peerOf key) s.deviceId 0 [] with payload := padTo 64 l }
  { s.setLink key { x with ackSent := x.ackNo } with out := s.out ++ [s.wireOut key (f.seal 0 x.ackNo)] }

/-- The tag flit of a closed group (17 R335). -/
def State.sendTag (s : State) (key vc : Nat) : State :=
  let l := s.link key
  let g := Tab.get [] l.txGroup vc
  let l := { l with closing := l.closing.filter (· != vc) }
  match g with
  | [] => s.setLink key l
  | f :: _ =>
    let n := Tab.get 0 l.groupNo vc
    let tag := padTo 16 (Config.groupTag (s.keyOut key (Tab.get 0 l.txKey vc)) n (groupAad g) (g.flatMap (·.payload)))
    let t := mkFlit vc 4 false false f.dst s.deviceId 0 tag
    let l := { l with txGroup := Tab.del l.txGroup vc, groupNo := Tab.set l.groupNo vc (n + 1), groupAt := Tab.del l.groupAt vc }
    (s.setLink key l).txFlit key t t

/-- The next flit of a link leaves, if one may: the tag of a closed group, else a data flit (17 R328, R334, R335). -/
def State.txNext (s : State) (key : Nat) : State :=
  let l := s.link key
  if l.state != .active || l.unacked.length ≥ 2048 then s
  else match l.closing with
  | v :: _ => s.sendTag key v
  | [] => match l.pick with
    | none => s
    | some (v, at', left) => match takeVc v l.waiting with
      | none => s
      | some (f, rest) =>
        let l := { l with waiting := rest, rrAt := at', rrLeft := left }
        let m := l.mode v
        if m = 0 then (s.setLink key l).txFlit key f f
        else
          let g := Tab.get [] l.txGroup v
          let l := if g.isEmpty then { l with txKey := Tab.set l.txKey v l.keyNo, groupAt := Tab.set l.groupAt v s.time } else l
          let k := s.keyOut key (Tab.get 0 l.txKey v)
          let w := if m = 2 then { f with payload := streamed k (Tab.get 0 l.groupNo v) (64 * g.length) f.payload } else f
          let s := (s.setLink key l).txFlit key w f
          let l := s.link key
          let sent := match l.unacked.getLast? with | some e => e.1 | none => w
          let g := g ++ [sent]
          s.setLink key { l with txGroup := Tab.set l.txGroup v g, closing := if g.length ≥ 4 then l.closing ++ [v] else l.closing }

/-- Every flit that may leave a link leaves. -/
def State.pump (s : State) (key : Nat) : State :=
  let l := s.link key
  (List.range (2 * l.waiting.length + l.closing.length)).foldl (fun s _ => s.txNext key) s

/-- A group closes (17 R335): its tag flit follows as soon as the window has room for it (R328). -/
def State.closeGroup (s : State) (key vc : Nat) : State :=
  let l := s.link key
  if (Tab.get [] l.txGroup vc).isEmpty || l.closing.contains vc then s
  else (s.setLink key { l with closing := l.closing ++ [vc] }).pump key

/-- An idle flit (17 R327, R328): it carries the ACK of a direction that has nothing else to send. -/
def State.sendIdle (s : State) (key : Nat) : State :=
  if (s.link key).state == .active then s.txBare key 1 [] else s

/-- Every ACK that is still to be sent leaves in an idle flit. -/
def State.idleAcks (s : State) : State :=
  s.linkKeys.foldl (fun s k => if (s.link k).ackSent = (s.link k).ackNo then s else s.sendIdle k) s

/-- A flit is handed to a link: it waits until the link is ACTIVE and its window and channel are open. -/
def State.sendOn (s : State) (key : Nat) (f : Flit) : State :=
  let l := s.link key
  (s.setLink key { l with waiting := l.waiting ++ [f] }).pump key

/-- The flits of a packet: a head flit and data flits of at most 64 bytes (23 R404). -/
def packetFlits (vc dst src core : Nat) (parts : List (List Byte)) : List Flit :=
  (List.range parts.length).zip parts |>.map (fun e =>
    mkFlit vc 0 (e.1 == 0) (e.1 + 1 == parts.length) dst src core e.2)

/-- A packet sent to a device; none when no route reaches it (17 R333). -/
def State.sendPacket (s : State) (vc dst core : Nat) (parts : List (List Byte)) : Option State :=
  match s.route s.deviceId dst none with
  | none => none
  | some key => some ((packetFlits vc dst s.deviceId core parts).foldl (fun s f => s.sendOn key f) s)

/-- An ACTIVE link or flow stops its data and trains again (17 R329, R331). -/
def State.retrainNow (s : State) (key : Nat) : State :=
  let l := s.link key
  if l.state == .active then s.setLink key { l with state := .retrain, partnerAt := s.time, disagree := 0, sent := false } else s

/-- A margin plan takes effect; each link whose equalisation it changes retrains (21 R397). -/
def State.takePlan (s : State) : State :=
  match s.nextPlan with
  | none => s
  | some p => (p.equal.filter (fun e => Tab.find s.plan.equal e.1 != some e.2)).foldl (fun s e => s.retrainNow e.1)
      { s with plan := p, nextPlan := none }

/-- Link-queue credits return to the neighbour; while the link is not ACTIVE they do not (11 R226, 17 R338). -/
def State.giveCredit (s : State) (q core n : Nat) : State :=
  let l := s.link q
  if l.state == .active then { s with out := s.out ++ [.credit q core n] }
  else s.setLink q { l with owed := Tab.set l.owed core (Tab.get 0 l.owed core + n) }

/-- Link-queue slots that a flit has carried to the neighbour, or lost: the oldest push of its core on that link. -/
def lqFlitDone (q : Nat) : List (Nat × Nat × Nat) → List (Nat × Nat × Nat)
  | [] => []
  | (o, x, n) :: r => if x = q then (if n ≤ 1 then r else (o, x, n - 1) :: r) else (o, x, n) :: lqFlitDone q r

def State.lqDone (s : State) (q : Nat) (l : List Flit) : State :=
  l.foldl (fun s f => if f.vc = 4 && f.kind = 0 then s.modCore f.core (fun k => { k with lqSent := lqFlitDone q k.lqSent }) else s) s

/-- Flits that an ACK covers leave the replay buffer (17 R328). -/
def State.coverAck (s : State) (key ack : Nat) : State :=
  let l := s.link key
  match (List.range l.unacked.length).find? (fun i => match l.unacked[i]? with | some e => e.1.seqNo == ack | none => false) with
  | none => s
  | some i =>
    let s := s.lqDone key ((l.unacked.take (i + 1)).map (·.2))
    s.setLink key { s.link key with unacked := l.unacked.drop (i + 1), lastAck := s.time }

/-- An ACK that covers flits makes room for the next. -/
def State.takeAckNo (s : State) (key ack : Nat) : State :=
  let t := s.coverAck key ack
  if (t.link key).unacked.length = (s.link key).unacked.length then s else t.pump key

/-- Every unacknowledged flit is sent again in its order (17 R328). -/
def State.resendAll (s : State) (key : Nat) : State :=
  let l := s.link key
  if l.unacked.isEmpty || l.state != .active then s
  else
    let s := s.setLink key { l with replays := min (2 ^ 32 - 1) (l.replays + 1), lastAck := s.time }
    { s with out := s.out ++ l.unacked.map (fun e => s.wireOut key e.1) }

end Sys2Proof.Machine
end

