-- ==== Sys2Proof/Machine/CopyOps.lean ====
section
/-! DEFINITION. The copy engines (12 R235 to R243, 23 R404, R405): what a copy reads and writes piece by piece, its arrivals,
retirement and failure, and the range scoreboard (11 R216). -/

namespace Sys2Proof.Machine

/-! Engines. -/

def Core.engine (k : Core) : Eng → Engine
  | .a => k.engA
  | .b => k.engB

def Core.setEngine (k : Core) (e : Eng) (x : Engine) : Core :=
  match e with
  | .a => { k with engA := x }
  | .b => { k with engB := x }

/-- The path number of an engine (15 R303). -/
def engPath : Eng → Nat
  | .a => 1
  | .b => 2

/-- A copy of an engine replaced. -/
def Engine.setCopy (x : Engine) (q : Copy) : Engine := { x with queue := x.queue.map (fun y => if y.id = q.id then q else y) }

def State.setCopy (s : State) (c : Nat) (e : Eng) (q : Copy) : State :=
  s.modCore c (fun k => k.setEngine e ((k.engine e).setCopy q))

/-- A field of the completion record replaced (12 R234). -/
def recPut (w : Word) (hi lo v : Nat) : Word := BitVec.ofNat 64 (setFld w.toNat hi lo v)

/-! The range scoreboard (11 R216). -/

/-- Bytes between two spans. -/
def spanGap (a : Span) (lo hi : Nat) : Nat := if hi < a.lo then a.lo - hi else if a.hi < lo then lo - a.hi else 0

/-- The entry that a new span merges into: the nearest, then the lower first byte, then the earliest. -/
def nearSpan (lo hi : Nat) : List Span → Option Span
  | [] => none
  | x :: r => some (r.foldl (fun b y =>
      if spanGap y lo hi < spanGap b lo hi ∨ (spanGap y lo hi = spanGap b lo hi ∧ y.lo < b.lo) then y else b) x)

/-- A side of a copy recorded. -/
def scoreAdd (l : List Span) (lo hi : Nat) (write : Bool) (id : Nat) : List Span :=
  if l.length < 32 then l ++ [⟨lo, hi, write, [id], id⟩]
  else match nearSpan lo hi l with
    | none => l
    | some x =>
      let y : Span := { x with lo := min x.lo lo, hi := max x.hi hi, write := x.write || write,
                               copies := x.copies ++ [id] }
      (List.range l.length).zip l |>.map (fun e => if l.findIdx? (fun z => z == x) = some e.1 then y else e.2)

/-- A copy's entries released. -/
def scoreDrop (l : List Span) (id : Nat) : List Span :=
  (l.map (fun x => { x with copies := x.copies.filter (· != id) })).filter (fun x => !x.copies.isEmpty)

/-! The requests of a copy (12 R235, R239): sectors of a piece for the forms that move pieces, else the piece itself, numbered
in the order of the nest. -/

/-- Whether a form moves 32-byte sectors. -/
def CopyForm.sectors : CopyForm → Bool
  | .copy | .gathc | .copyx => true
  | _ => false

/-- Requests of a piece, and of a copy. -/
def Copy.secs (q : Copy) : Nat := if q.form.sectors then (shPlen q.sh + 1) / 32 else 1
def Copy.total (q : Copy) : Nat := nestTotal q.sh * q.secs

/-- Bytes of a request at its source and at each destination. -/
def Copy.srcLen (q : Copy) : Nat := if q.form.sectors then 32 else granule q.tS
def Copy.dstLen (q : Copy) : Nat := if q.form.sectors then 32 else granule q.tD

/-- The piece of a request, and the offsets of its destinations. -/
def Copy.piece (q : Copy) (u : Nat) : Nat := u / q.secs
def Copy.dstOff (q : Copy) (u : Nat) : Int := tBase q.tD + dOff q.sh (q.form == .copyt) (q.piece u) + (32 * (u % q.secs) : Nat)
def Copy.auxOff (q : Copy) (u : Nat) : Int := tBase q.tA + dOff q.sh true (q.piece u)

/-- The index tensor's element for a piece of GATHC (12 R237). -/
def gathIdx (sh : Wide) (n : Nat) : Nat :=
  nestIdx sh n 1 + shCnt sh 1 * (nestIdx sh n 2 + shCnt sh 2 * (nestIdx sh n 3 + shCnt sh 3 * (nestIdx sh n 4 + shCnt sh 4 * nestIdx sh n 5)))

def Copy.idxOff (q : Copy) (k : Nat) : Int :=
  let g := gathIdx q.sh k
  let i0 := g % tExt q.tA 0
  let i1 := g / tExt q.tA 0 % tExt q.tA 1
  let i2 := g / (tExt q.tA 0 * tExt q.tA 1) % tExt q.tA 2
  let i3 := g / (tExt q.tA 0 * tExt q.tA 1 * tExt q.tA 2)
  (tHalfAddr q.tA i0 i1 i2 i3 / 2 : Nat)

/-- Where the source bytes of a request are: in GATHC only once its index has come, and zero bytes for an index out of
range. -/
inductive SrcAt where
  | index
  | zeros
  | at (off : Int)
  deriving DecidableEq, Repr

def Copy.source (q : Copy) (u : Nat) : SrcAt :=
  let k := q.piece u
  let j : Int := (32 * (u % q.secs) : Nat)
  if q.form ≠ .gathc then .at (tBase q.tS + sOff q.sh k + j)
  else match Tab.find q.idx k with
    | none => .index
    | some x => if x < tExt q.tS 1 then .at (tBase q.tS + (x : Int) * shS q.sh 1 + (nestIdx q.sh k 0 : Int) * shS q.sh 0 + j) else .zeros

/-- Whether a request has performed, and how many have. -/
def Copy.isDone (q : Copy) (u : Nat) : Bool := u < q.next || q.early.contains u
def Copy.doneNo (q : Copy) : Nat := q.next + q.early.length

/-- A copy whose requests have all performed. -/
def Copy.whole (q : Copy) : Bool := q.next ≥ q.total

/-- Requests performed: n of them from u on. -/
def Copy.mark (q : Copy) (u n : Nat) : Copy :=
  let q := { q with flight := q.flight.filter (fun r => r.u < u || u + n ≤ r.u), emitted := max q.emitted (u + n) }
  if u = q.next && q.early.isEmpty then { q with next := u + n }
  else
    let early := ((List.range n).map (u + ·)).filter (fun m => !q.isDone m) ++ q.early
    let next := (List.range early.length).foldl (fun m _ => if early.contains m then m + 1 else m) q.next
    { q with next := next, early := early.filter (fun m => m ≥ next) }

/-- A request in flight. -/
def Copy.req (q : Copy) (u : Nat) : Req := (q.flight.find? (fun r => r.u = u)).getD ⟨u, [], [], []⟩
def Copy.setReq (q : Copy) (r : Req) : Copy :=
  { q with flight := if q.flight.any (fun x => x.u = r.u) then q.flight.map (fun x => if x.u = r.u then r else x) else q.flight ++ [r] }

/-- The aligned 8-byte parts of n bytes (14 R273). -/
def eights (n : Nat) : List (Nat × Nat) := if n ≤ 8 then [(0, n)] else (List.range (n / 8)).map (fun k => (8 * k, 8))

/-- The source bytes of a request so far, and the parts still to read: all of them at once when none has been read. -/
def Req.bytes (r : Req) : List Byte := r.got.flatMap (·.2)
def Req.toRead (r : Req) (n : Nat) : List (Nat × Nat) :=
  if r.got.isEmpty then [(0, n)] else if r.bytes.length ≥ n then [] else (eights n).filter (fun p => (Tab.find r.got p.1).isNone)

/-- The parts of a destination still to write. -/
def toWrite (put : List Nat) (n : Nat) : List (Nat × Nat) :=
  if put.isEmpty then [(0, n)] else (eights n).filter (fun p => !put.contains p.1)

/-- The parts that a written range covers. -/
def putParts (off n : Nat) : List Nat := (eights n).map (fun p => off + p.1)

/-! Reading and writing a side. -/

/-- What one side of an access gives. A wait and a failure keep what has performed before them: the state and the bytes. -/
inductive Side4 where
  | wait (s : State) (got : List Byte)
  | fail (s : State) (code : Nat) (addr : Word) (ipa : Nat) (got : List Byte)
  | remote (dev ipa : Nat)
  | ok (s : State) (data : List Byte)

/-- The parts of [a, a + n) within one aligned unit of m bytes each; the fuel is the number of parts. -/
def alignedParts (m : Nat) : Nat → Nat → Nat → List (Nat × Nat)
  | 0, _, _ => []
  | fuel + 1, a, n =>
    if n = 0 then []
    else
      let x := min n (m - a % m)
      (a, x) :: alignedParts m fuel (a + x) (n - x)

/-- Sectors (12 R239), and the 2,048-byte blocks of write packets (23 R404). -/
def partsOf (a n : Nat) : List (Nat × Nat) := alignedParts 32 (n / 32 + 2) a n
def blocks2k (a n : Nat) : List (Nat × Nat) := alignedParts 2048 (n / 2048 + 2) a n

/-- Reads of level-4 units in order; `iss` gives the issuer of the part at an IPA. One that has waited 1 ms for its WOS sector
fails (14 R282). -/
def State.readParts (iss : Nat → Issuer) (va : Word) (ipa : Nat) : List (Nat × Nat) → State → List Byte → Side4
  | [], s, got => .ok s got
  | p :: r, s, got => match s.gRead (iss p.1) p.1 p.2 with
    | .wait cause =>
      if s.wosLate (iss p.1).key then .fail (s.leave (iss p.1).key) fcWosWait (va + BitVec.ofNat 64 (p.1 - ipa)) p.1 got
      else .wait (s.await (iss p.1) .read p.1 p.2 cause) got
    | .fail code => .fail (s.leave (iss p.1).key) code (va + BitVec.ofNat 64 (p.1 - ipa)) p.1 got
    | .done s b => State.readParts iss va ipa r s (got ++ b)

/-- Writes of level-4 units in order; what is returned is what has been written. -/
def State.writeParts (iss : Nat → Issuer) (home : Bool) (va : Word) (ipa : Nat) (l : List Byte) :
    List (Nat × Nat) → State → List Byte → Side4
  | [], s, got => .ok s got
  | p :: r, s, got =>
    let b := (l.drop (p.1 - ipa)).take p.2
    match s.gWrite (iss p.1) home p.1 b with
    | .wait cause => .wait (s.await (iss p.1) .write p.1 p.2 cause) got
    | .fail code => .fail (s.leave (iss p.1).key) code (va + BitVec.ofNat 64 (p.1 - ipa)) p.1 got
    | .done s _ => State.writeParts iss home va ipa l r s (got ++ b)

/-- The issuer of part of a copy's request (13 R261), by the part's IPA: side 0 is the source, 1 and 2 the destinations, 3 the
index. -/
def State.copyIssuer (s : State) (c : Nat) (e : Eng) (q : Copy) (u side ipa : Nat) : Issuer :=
  (s.core c).issuer c q.step .copy (.copy c e q.id u side ipa)

/-- Bytes read at an offset of an entry: levels 0 and 1 with the core's own earlier stores and atomics (12 R241). -/
def State.sideRead (s : State) (c : Nat) (e : Eng) (q : Copy) (u side : Nat) (en : Wide) (off : Int) (n : Nat) : Side4 :=
  let a := off.toNat
  if tLevel en ≤ 1 then
    let s := if tLevel en = 0 then s.settleAtoms c q.id a n else s
    .ok s (((s.core c).view (tLevel en) q.id).reads a n)
  else if tLevel en < 4 then
    let (t, o) := s.localPlace c (tLevel en) a
    .ok s (((s.core t).lm (if tLevel en = 2 then 0 else 2)).reads o n)
  else match translate s.deviceId (s.core c).rg (entAddr en off) .read true with
    | .error code => .fail s code (entAddr en off) 0 []
    | .ok (dev, ipa) =>
      if dev ≠ s.deviceId then .remote dev ipa
      else State.readParts (s.copyIssuer c e q u side) (entAddr en off) ipa (partsOf ipa n) s []

/-- Bytes written at an offset of an entry. -/
def State.sideWrite (s : State) (c : Nat) (e : Eng) (q : Copy) (u side : Nat) (home : Bool) (en : Wide) (off : Int) (l : List Byte) : Side4 :=
  let a := off.toNat
  if tLevel en ≤ 1 then .ok (s.localWrite c (tLevel en) (cellsAt a l)) l
  else if tLevel en < 4 then
    let (t, o) := s.localPlace c (tLevel en) a
    .ok (s.localWrite t (if tLevel en = 2 then 0 else 2) (cellsAt o l)) l
  else match translate s.deviceId (s.core c).rg (entAddr en off) .write true with
    | .error code => .fail s code (entAddr en off) 0 []
    | .ok (dev, ipa) =>
      if dev ≠ s.deviceId then .remote dev ipa
      else State.writeParts (s.copyIssuer c e q u side) home (entAddr en off) ipa l (partsOf ipa l.length) s []

/-- The other device that an offset of an entry names, and the IPA there. -/
def State.remoteOf (s : State) (c : Nat) (en : Wide) (off : Int) (kd : AKind) : Option (Nat × Nat) :=
  if tLevel en < 4 then none
  else match translate s.deviceId (s.core c).rg (entAddr en off) kd true with
    | .ok (dev, ipa) => if dev ≠ s.deviceId then some (dev, ipa) else none
    | .error _ => none

/-! Failure and retirement (12 R240, R242). -/

/-- A byte range of global memory left undefined per byte (12 R242, 16 R323, 17 R345), whatever holds it up, unless no
write of the issuer could have reached it: free values, and on a WOS page a free written bit where none is set. -/
def State.freeBytes (s : State) (iss : Issuer) (ipa n : Nat) : State :=
  (partsOf ipa n).foldl (fun s p =>
    match s.walk p.1 with
    | none => s
    | some r =>
      let l := r.leaf
      let barred := l.tier ≥ 2 || l.get 8 8 == 0 || (l.v && !iss.step && 1 ≤ s.stepState && s.stepState ≤ 5) ||
        (s.typeCheck iss .write r).isSome
      if barred then s
      else
        let free := (List.range p.2).map (fun k => Config.freeByte (s.fresh + k))
        let t := { s.wrBytes l.v iss.step none (r.pa p.1) free with fresh := s.fresh + p.2 + 1 }
        let t := if l.type = 2 && !s.isWritten (r.pa p.1) && (Config.freeByte (s.fresh + p.2)).getLsbD 0 then t.setWritten iss.step (r.pa p.1) true else t
        t.dropCached none p.1 p.2) s

/-- The same of a core's own memories, and of none of another device. -/
def State.freeSide (s : State) (c : Nat) (q : Copy) (en : Wide) (off : Int) (n : Nat) : State :=
  if tLevel en < 4 then
    let (t, o) := if tLevel en ≤ 1 then (c, off.toNat) else s.localPlace c (tLevel en) off.toNat
    let free := (List.range n).map (fun k => Config.freeByte (s.fresh + k))
    { s.localWrite t (if tLevel en = 1 then 1 else if tLevel en = 3 then 2 else 0) (cellsAt o free) with fresh := s.fresh + n }
  else match translate s.deviceId (s.core c).rg (entAddr en off) .write true with
    | .ok (dev, ipa) => if dev = s.deviceId then s.freeBytes ((s.core c).issuer c q.step .copy (.fetch c)) ipa n else s
    | .error _ => s

/-- Every destination byte of a copy is undefined (12 R242, R243). -/
def State.scramble (s : State) (c : Nat) (q : Copy) : State :=
  (List.range (nestTotal q.sh)).foldl (fun s k =>
    let u := k * q.secs
    let s := s.freeSide c q q.tD (q.dstOff u) (q.dstLen * q.secs)
    if q.form == .copy2 then s.freeSide c q q.tA (q.auxOff u) (granule q.tA) else s) s

/-- A copy leaves its engine: its entry and its spans are released. -/
def State.dropCopy (s : State) (c : Nat) (e : Eng) (id : Nat) : State :=
  s.modCore c (fun k =>
    let x := k.engine e
    { k.setEngine e { x with queue := x.queue.filter (fun q => q.id ≠ id) } with score := scoreDrop k.score id })

/-- Nothing of a copy is on its way. -/
def Copy.quiet (q : Copy) : Bool := q.outst.isEmpty && q.asked.isEmpty

/-- A copy all of whose bytes have performed and been acknowledged, with every arrival made (12 R240): no failure behind it and no
kill reaches it any more. -/
def Copy.retired (q : Copy) : Bool := q.whole && q.quiet && !q.failed

/-- The origin that a COPYR's narrowing met first in logical order is recorded once its last element has been updated, or once it has
failed and what was outstanding has ended (07 R140, 12 R242; log 43). -/
def State.settleOrigin (s : State) (c : Nat) (q : Copy) : State :=
  match q.origin with
  | some o => if (q.whole || q.failed) && q.outst.isEmpty then s.applyEff c ⟨0, q.id, .origin q.dstT o.2⟩ else s
  | none => s

/-- Failed copies without outstanding requests retire, and so does a whole copy that has been acknowledged. -/
def State.retireCopies (s : State) (c : Nat) (e : Eng) : State :=
  (((s.core c).engine e).queue.filter (fun q => q.quiet && (q.failed || q.whole))).foldl (fun s q =>
    (if q.failed then s.settleOrigin c q else s).dropCopy c e q.id) s

/-- A copy fails, and with it every copy behind it: no more arrivals, nothing more is emitted. -/
def Copy.fail (q : Copy) : Copy := { q with failed := true, bar := none, flight := [] }

/-- A copy fails (12 R242): the record and the address if none stands, the host's event, FAULT; the destinations of the copy
and of those behind it that have emitted are undefined. Earlier copies of the engine go on, and so do those behind that have retired
already; what is outstanding completes, and then the failed ones retire. -/
def State.copyFail (s : State) (c : Nat) (e : Eng) (id code : Nat) (addr : Word) (ipa : Nat) : State :=
  let k := s.core c
  let x := k.engine e
  match x.queue.find? (fun q => q.id = id) with
  | none => s
  | some q =>
    if q.failed || k.killed then s
    else
      let x := if x.record.getLsbD 16 then x
        else { x with
          record := recPut (recPut (recPut (recPut x.record 15 0 code) 16 16 1) 17 17 (bit (q.form == .copy2))) 47 32 (q.num % 65536),
          failAddr := addr }
      let gone := x.queue.dropWhile (fun y => y.id ≠ id)
      let x := { x with failed := true, queue := x.queue.takeWhile (fun y => y.id ≠ id) ++ gone.map (fun y => if y.retired then y else y.fail) }
      let s := (s.setCore c (k.setEngine e x)).noteFault q.step code
      let s := if q.step && code = fcEccUncorr then s.pennonOr 8 else s
      let s := s.faultEvent c { code := code, addr := addr, ipa := ipa } 0 2 k.pc 0
      ((gone.filter (fun y => y.id = id || (y.emitted > 0 && !y.failed && !y.retired))).foldl (fun s y => s.scramble c y) s).retireCopies c e

/-- Arrivals at a copy's barrier (12 R240). -/
def State.copyArrive (s : State) (q : Copy) (n : Nat) : State :=
  match q.bar with
  | some b => if n = 0 then s else s.barApply b (.arrive n)
  | none => s

/-- A copy of an engine. -/
def State.copyOf (s : State) (c : Nat) (e : Eng) (id : Nat) : Option Copy := ((s.core c).engine e).queue.find? (fun q => q.id = id)

/-! Bytes written more than once (12 R235). -/

/-- A span put into disjoint spans that stand highest first. -/
def spanAdd (a n : Nat) : List (Nat × Nat) → List (Nat × Nat)
  | [] => [(a, n)]
  | e :: r =>
    if e.1 + e.2 < a then (a, n) :: e :: r
    else if a + n < e.1 then e :: spanAdd a n r
    else spanAdd (min a e.1) (max (a + n) (e.1 + e.2) - min a e.1) r

/-- Whether a span meets one of them. -/
def spanHits (a n : Nat) : List (Nat × Nat) → Bool
  | [] => false
  | e :: r => if e.1 + e.2 ≤ a then false else if e.1 < a + n then true else spanHits a n r

/-- The places of n bytes at an offset of an entry, as index, place and length: a core's memory, an IPA of a device, and the
frame that an own page has. -/
def State.placesOf (s : State) (c : Nat) (e : Wide) (off : Int) (n : Nat) : List (Nat × Nat × Nat) :=
  if tLevel e < 4 then
    let (t, o) := if tLevel e ≤ 1 then (c, off.toNat) else s.localPlace c (tLevel e) off.toNat
    let space := if tLevel e = 1 then 1 else if tLevel e = 3 then 2 else 0
    [(0, (t * 4 + space) * 2 ^ 64 + o, n)]
  else match translate s.deviceId (s.core c).rg (entAddr e off) .write true with
    | .error _ => []
    | .ok (dev, ipa) =>
      (0, (dev + 1) * 2 ^ 80 + ipa, n) ::
        (if dev ≠ s.deviceId then []
         else (pageParts (n / 65536 + 2) ipa (ipa + n)).filterMap (fun p =>
           (s.walk p.1).map (fun r => (p.1 - ipa, 2 ^ 120 + r.pa p.1, p.2))))

/-- Whether a copy has written one of the bytes before. -/
def Copy.again (q : Copy) (l : List (Nat × Nat × Nat)) : Bool := l.any (fun e => spanHits e.2.1 e.2.2 q.wrote)

/-- The bytes that a copy writes at some places: those that it has written before are undefined. -/
def State.freshen (s : State) (q : Copy) (l : List (Nat × Nat × Nat)) (data : List Byte) : List Byte :=
  if !q.again l then data
  else ((List.range data.length).zip data).map (fun b =>
    if l.any (fun e => e.1 ≤ b.1 && b.1 < e.1 + e.2.2 && spanHits (e.2.1 + (b.1 - e.1)) 1 q.wrote) then Config.freeByte (s.fresh + b.1)
    else b.2)

/-- The free values that it has used. -/
def State.freshened (s : State) (q : Copy) (l : List (Nat × Nat × Nat)) (n : Nat) : State :=
  if q.again l then { s with fresh := s.fresh + n } else s

/-- The places noted as written. -/
def Copy.note (q : Copy) (l : List (Nat × Nat × Nat)) : Copy := { q with wrote := l.foldl (fun w e => spanAdd e.2.1 e.2.2 w) q.wrote }

/-! Order (12 R239; 13 R272; 14 R275, R277, R280; 15 R303). -/

/-- Whether two lists of places have a common byte. -/
def placesMeet (l m : List (Nat × Nat × Nat)) : Bool :=
  l.any (fun a => m.any (fun b => a.2.1 < b.2.1 + b.2.2 && b.2.1 < a.2.1 + a.2.2))

/-- The source places that a request of GATHC may read before its index is known: those of every row (12 R237; 14 R275). -/
def Copy.rowsOf (q : Copy) (u : Nat) : List (Wide × Int × Nat) :=
  (List.range (tExt q.tS 1)).map (fun (x : Nat) =>
    (q.tS, tBase q.tS + (x : Int) * shS q.sh 1 + (nestIdx q.sh (q.piece u) 0 : Int) * shS q.sh 0 + (32 * (u % q.secs) : Nat), 32))

/-- The sides of a request that have a place: the entry, the offset and the length. -/
def Copy.sidesOf (q : Copy) (u : Nat) : List (Wide × Int × Nat) :=
  (match q.source u with
   | .at off => [(q.tS, off, q.srcLen)]
   | .index => [(q.tA, q.idxOff (q.piece u), granule q.tA)] ++ q.rowsOf u
   | .zeros => []) ++
  [(q.tD, q.dstOff u, q.dstLen)] ++ (if q.form == .copy2 then [(q.tA, q.auxOff u, granule q.tA)] else [])

def State.placesOfReq (s : State) (c : Nat) (q : Copy) (u : Nat) : List (Nat × Nat × Nat) :=
  (q.sidesOf u).flatMap (fun y => s.placesOf c y.1 y.2.1 y.2.2)

/-- How an SC access orders a place (14 R277): SC itself, an access that it orders, or one that it leaves alone. -/
inductive ScClass where
  | sc
  | ordered
  | free
  deriving DecidableEq, Repr

/-- The page of a place on this device. -/
def State.pageOf (s : State) (c : Nat) (en : Wide) (off : Int) : Option PageRef :=
  if tLevel en < 4 then none
  else match translate s.deviceId (s.core c).rg (entAddr en off) .read true with
    | .ok (dev, ipa) => if dev = s.deviceId then s.walk ipa else none
    | .error _ => none

def State.scClass (s : State) (c : Nat) (en : Wide) (off : Int) : ScClass :=
  if tLevel en ≤ 1 then .free
  else match s.pageOf c en off with
    | some r => if r.leaf.type = 1 then .sc else if r.leaf.type = 2 then .free else .ordered
    | none => .ordered

def State.reqClass (s : State) (c : Nat) (q : Copy) (u : Nat) : List ScClass := (q.sidesOf u).map (fun y => s.scClass c y.1 y.2.1)

/-- Whether an earlier request must perform before a later one: SC requests in their order and as a fence, and requests to
one page that moves. -/
def State.reqFirst (s : State) (c : Nat) (q : Copy) (u : Nat) (q' : Copy) (u' : Nat) : Bool :=
  let a := s.reqClass c q u
  let b := s.reqClass c q' u'
  (a.contains .sc && b.any (· != .free)) || (b.contains .sc && a.any (· != .free)) ||
  (q'.sidesOf u').any (fun y => match s.pageOf c y.1 y.2.1 with
    | some r => r.leaf.mov && (q.sidesOf u).any (fun z => match s.pageOf c z.1 z.2.1 with
        | some r' => (s.wholeOf r').base == (s.wholeOf r).base
        | none => false)
    | none => false)

/-- Requests of a copy before one that have not performed. -/
def Copy.undone (q : Copy) (upto : Nat) : List Nat := ((List.range (upto - q.next)).map (q.next + ·)).filter (fun u => !q.isDone u)

/-- Whether a request must wait for an earlier one of its engine. -/
def State.copyWaits (s : State) (c : Nat) (e : Eng) (q : Copy) (u : Nat) : Bool :=
  let before := ((s.core c).engine e).queue.takeWhile (fun y => y.id ≠ q.id) |>.filter (fun y => !y.failed)
  let prior := q.undone u
  if prior.isEmpty && before.all Copy.whole && (q :: before).all (fun y => y.outst.isEmpty) then false
  else
    prior.any (fun v => s.reqFirst c q v q u) ||
    before.any (fun y => (y.undone y.total).any (fun v =>
      placesMeet (s.placesOfReq c y v) (s.placesOfReq c q u) || s.reqFirst c y v q u)) ||
    ((q :: before).any (fun y => !y.outst.isEmpty) && (s.reqClass c q u).contains .sc)

/-- Requests that a piece or sector of a copy may have outstanding at once: one for its source and then one for each destination,
each of one side (12 R239). -/
def Copy.width (q : Copy) : Nat := if q.form == .copy2 then 2 else 1

/-- Requests of an engine that have been emitted and are outstanding (12 R239). -/
def Engine.requests (x : Engine) : Nat :=
  (x.queue.map (fun q => (if q.failed then 0 else q.width * (q.emitted - q.doneNo)) +
    (q.outst.map (fun o => (o.n + 31) / 32)).foldl (· + ·) 0)).foldl (· + ·) 0

/-- Whether a request of a copy may be emitted, or has been, and may act (12 R239, R242): every earlier copy of the queue
has emitted its last, no more than 2,048 are outstanding, and no fence holds it (15 R303). -/
def State.mayEmit (s : State) (c : Nat) (e : Eng) (q : Copy) (u : Nat) : Bool :=
  let x := (s.core c).engine e
  !q.failed && !(s.core c).killed && u < q.total && !q.isDone u &&
  (x.queue.takeWhile (fun y => y.id ≠ q.id)).all (fun y => y.failed || y.emitted ≥ y.total) &&
  x.requests + q.width * (u + 1 - max q.emitted q.next) ≤ 2048 && !(s.fenceHolds c (engPath e) q.id 0) && !s.copyWaits c e q u

/-! Remote traffic (23 R404). -/

/-- The head of a write packet (23 R404). -/
def packetHead (ipa n c : Nat) (e : Eng) (step arrivals : Bool) (barrier : Nat) : List Byte :=
  leBytes 8 ipa ++ leBytes 2 n ++ leBytes 1 c ++ leBytes 1 (engCode e + 2 * bit step + 4 * bit arrivals) ++ leBytes 4 barrier

/-- One packet sent; none when no route reaches the device. -/
def State.sendWrite (s : State) (c : Nat) (e : Eng) (q : Copy) (dev ipa : Nat) (l : List Byte) : Option State :=
  let x := q.form == .copyx
  let head := packetHead ipa l.length c e q.step x (if x then tBase q.tA else 0)
  s.sendPacket 5 dev (if x then c else 0) (head :: chunks 64 (l.length / 64 + 1) l)

/-- Bytes of a copy go to another device: outstanding until acknowledged (12 R239, R240). None when no route is left. -/
def State.sendBytes (s : State) (c : Nat) (e : Eng) (q : Copy) (en : Wide) (off : Int) (dev ipa : Nat) (l : List Byte) : Option (State × Copy) :=
  let at' := s.placesOf c en off l.length
  let l := s.freshen q at' l
  ((s.freshened q at' l.length).sendWrite c e q dev ipa l).map (fun t =>
    (t, { q.note at' with outst := q.outst ++ [⟨dev, ipa, l.length, entAddr en off⟩] }))

/-! One request. -/

/-- Counts a zero-filled GATHC piece (12 R234, R237). -/
def State.countZero (s : State) (c : Nat) (e : Eng) : State :=
  s.modCore c (fun k =>
    let x := k.engine e
    k.setEngine e { x with record := recPut x.record 31 18 (min 16383 (fld x.record.toNat 31 18 + 1)) })

/-- Requests of a copy have performed: a piece of zeros is counted once it is whole. -/
def State.finishReqs (s : State) (c : Nat) (e : Eng) (q : Copy) (u n : Nat) : State :=
  let q := q.mark u n
  let k := q.piece u
  let ended := q.form == .gathc && (List.range q.secs).all (fun j => q.isDone (k * q.secs + j))
  let zero := ended && (match Tab.find q.idx k with | some x => x ≥ tExt q.tS 1 | none => false)
  let q := if ended then { q with idx := Tab.del q.idx k } else q
  let s := s.setCopy c e q
  (if zero then s.countZero c e else s).settleOrigin c q

/-- The logical index of the element at a byte address (12 R236): the lowest, or (address - BASE) div eb. -/
def logicalOf (e : Wide) (a : Nat) : Nat :=
  let eb := tHalf e / 2
  let found := (List.range (tExt e 3)).findSome? (fun i3 => (List.range (tExt e 2)).findSome? (fun i2 =>
    (List.range (tExt e 1)).findSome? (fun i1 =>
      let row := tBase e + i2 * tStride e 2 + i3 * tStride e 3 + (if tLayout e = 0 then i1 else i1 / 64) * tStride e 1
      if a < row || (a - row) % eb ≠ 0 then none
      else
        let x := (a - row) / eb
        let i0 : Option Nat :=
          if tLayout e = 0 then some x
          else
            let qq := x % 4096
            let (r, c) : Nat × Nat := if tLayout e = 1 then (qq / 64, qq % 64) else (qq % 64, qq / 64)
            if r = i1 % 64 then some (x / 4096 * 64 + c) else none
        match i0 with
        | some i => if i < tExt e 0 then some (tIndex e i i1 i2 i3) else none
        | none => none)))
  found.getD ((a - tBase e) / eb)

/-- COPYR's update of one element (12 R236): the new code, OVF, and the origin to record. -/
structure Reduced where
  code : Nat
  ovf : Bool
  origin : Option (BitVec 32)
  deriving DecidableEq, Repr

def reduceWith (tS tD : Wide) (cx : NanCtx) (seed src dst addr : Nat) : Reduced :=
  let sv := tCodeVal tS src
  let dv := tCodeVal tD dst
  let t := tType tD
  let f := if t.isFloat then fmtOf t else fmt32
  let conv (e : Wide) (c : Nat) : Nat := convNan (tNanFmt e) f c
  let v : FV :=
    if sv.isNan || dv.isNan then
      .nan (pickNan f ((if sv.isNan then [conv tS src] else []) ++ (if dv.isNan then [conv tD dst] else [])))
    else match exAdd sv dv with
      | .invalid => .nan (newNan f cx)
      | .inf n => .inf n
      | .val e => if e.n = 0 then .num e.zneg 0 0 else .num (e.n < 0) e.n.natAbs e.x
  let code := tNarrow tD seed (logicalOf tD addr) f v
  let fresh := sv.isFinite && dv.isFinite && t.isFloat && !(tCodeVal tD code).isFinite
  let bad := !v.isFinite
  { code := code, ovf := fresh || (bad && !t.isFloat) || (bad && sv.isFinite && dv.isFinite),
    origin := if bad && !t.isFloat then some (originOf f v) else none }

/-- COPYR's update of one element of a copy. -/
def reduceElem (q : Copy) (seed src dst addr : Nat) : Reduced :=
  reduceWith q.tS q.tD ⟨q.layer.toNat, q.stepNo.toNat⟩ seed src dst addr


/-- The origin that a narrowing records, if its element's logical index is the lowest so far (07 R140). -/
def Copy.noteOrigin (q : Copy) (index : Nat) (o : Option (BitVec 32)) : Copy :=
  match o with
  | none => q
  | some v => match q.origin with
    | some w => if index < w.1 then { q with origin := some (index, v) } else q
    | none => { q with origin := some (index, v) }

/-- COPYR's update of one element of this device (12 R236), indivisible: after the core's own earlier stores and atomics on
it at levels 0 and 1, where an atomic of scope `.grp` executes at level 4 (15 R306). -/
def State.reduceReq (s : State) (c : Nat) (e : Eng) (q : Copy) (u : Nat) (src : List Byte) : Side4 × Copy :=
  let n := granule q.tD
  let off := q.dstOff u
  let at' := s.placesOf c q.tD off n
  let new (old : List Byte) : Reduced := reduceElem q q.seed (ofLe src) (ofLe old) off.toNat
  let bytes (old : List Byte) : List Byte := s.freshen q at' (leBytes n (new old).code)
  let fin (t : State) (old : List Byte) : Side4 × Copy :=
    let t := t.freshened q at' n
    (.ok (if (new old).ovf && q.step then t.pennonOr 4 else t) (bytes old), (q.note at').noteOrigin (logicalOf q.tD off.toNat) (new old).origin)
  if tLevel q.tD < 4 then
    match s.sideRead c e q u 1 q.tD off n with
    | .ok t old =>
      let t := if tLevel q.tD ≤ 1 then t.modCore c (fun k => k.mapFlight (Pend.cut q.id (tLevel q.tD) ((List.range n).map (off.toNat + ·)))) else t
      (match t.sideWrite c e q u 1 true q.tD off (bytes old) with
       | .ok t _ => fin t old
       | x => (x, q))
    | x => (x, q)
  else match translate s.deviceId (s.core c).rg (entAddr q.tD off) .atomic true with
    | .error code => (.fail s code (entAddr q.tD off) 0 [], q)
    | .ok (_, ipa) =>
      let iss := s.copyIssuer c e q u 1 ipa
      match s.gUpdate iss ipa n bytes with
      | .wait w => (.wait (s.await iss .atomic ipa n w) [], q)
      | .fail code => (.fail (s.leave iss.key) code (entAddr q.tD off) ipa [], q)
      | .done t old => fin t old

/-- A request's source bytes are asked of another device, in the order of emission (12 R238, R239); the answer comes as a
turn (log 16). -/
def State.askBytes (s : State) (c : Nat) (e : Eng) (q : Copy) (u dev ipa n : Nat) (addr : Word) : State :=
  let ready := (q.undone u).all (fun v => q.asked.any (fun x => x.1 = v) || (q.req v).bytes.length ≥ q.srcLen)
  let same := q.asked.any (fun x => x.1 = u || (n ≠ q.srcLen && q.piece x.1 = q.piece u))
  if !ready || same then s
  else if (s.route s.deviceId dev none).isNone then s.copyFail c e q.id fcFabricUnreach addr ipa
  else { s.setCopy c e { q with asked := q.asked ++ [(u, dev)] } with out := s.out ++ [.readReq dev ipa n c e q.step] }

/-- Parts of a request's source are read, each where it can be. -/
def State.readReq (s : State) (c : Nat) (e : Eng) (id u : Nat) (off : Int) : List (Nat × Nat) → State
  | [] => s
  | p :: rest => match s.copyOf c e id with
    | none => s
    | some q =>
      let at' := off + (p.1 : Int)
      match s.sideRead c e q u 0 q.tS at' p.2 with
      | .ok t l => State.readReq (t.setCopy c e (q.setReq { q.req u with got := Tab.set (q.req u).got p.1 l })) c e id u off rest
      | .wait t _ => State.readReq t c e id u off rest
      | .fail t code a i _ => t.copyFail c e id code a i
      | .remote dev ipa => if p.1 = 0 && p.2 = q.srcLen then s.askBytes c e q u dev ipa p.2 (entAddr q.tS at') else s

/-- Parts of a request are written at one destination, and the arrivals follow (12 R240); one on another device is left to
`sendReady`. -/
def State.writeReq (s : State) (c : Nat) (e : Eng) (id u side : Nat) (en : Wide) (off : Int) (l : List Byte) : List (Nat × Nat) → State
  | [] => s
  | p :: rest => match s.copyOf c e id with
    | none => s
    | some q =>
      let at' := off + (p.1 : Int)
      let places := s.placesOf c en at' p.2
      let b := s.freshen q places ((l.drop p.1).take p.2)
      match s.sideWrite c e q u side false en at' b with
      | .ok t _ =>
        let r := q.req u
        let r := if side = 2 then { r with put2 := r.put2 ++ putParts p.1 p.2 } else { r with put := r.put ++ putParts p.1 p.2 }
        let t := ((t.freshened q places p.2).setCopy c e ((q.note places).setReq r)).copyArrive q p.2
        State.writeReq t c e id u side en off l rest
      | .wait t _ => State.writeReq t c e id u side en off l rest
      | .fail t code a i _ => t.copyFail c e id code a i
      | .remote _ _ => s

/-- Whether every part of a destination has been written. -/
def putAll (put : List Nat) (n : Nat) : Bool := !put.isEmpty && (toWrite put n).isEmpty

/-- COPYR's element is updated here, or at the other device (12 R236, R238). -/
def State.reduceStep (s : State) (c : Nat) (e : Eng) (q : Copy) (u : Nat) (l : List Byte) : State :=
  let off := q.dstOff u
  match s.remoteOf c q.tD off .atomic with
  | some (dev, ipa) =>
    if u ≠ q.next then s
    else if (s.route s.deviceId dev none).isNone then s.copyFail c e q.id fcFabricUnreach (entAddr q.tD off) ipa
    else
      let at' := s.placesOf c q.tD off (granule q.tD)
      let r : ReducePkt := { src := s.deviceId, ipa := ipa, core := c, eng := e, step := q.step, tS := q.tS, tD := q.tD,
                             layer := q.layer, stepNo := q.stepNo, seed := q.seed, offset := off.toNat, value := l, twice := q.again at' }
      let q : Copy := { q.note at' with outst := q.outst ++ [⟨dev, ipa, granule q.tD, entAddr q.tD off⟩] }
      let t : State := { s with out := s.out ++ [.reduceReq dev r] }
      t.finishReqs c e q u 1
  | none => match s.reduceReq c e q u l with
    | (.ok t w, q) => (t.finishReqs c e q u 1).copyArrive q w.length
    | (.wait t _, _) => t
    | (.fail t code a i _, _) => t.copyFail c e q.id code a i
    | (.remote _ _, _) => s

/-- The requests of one piece, from one on, whose bytes go into one write packet (23 R404): consecutive ones up to a 2,048-byte
boundary of the destination. -/
def Copy.packetLen (q : Copy) (u ipa : Nat) : Nat :=
  if q.form.sectors then min (q.secs - u % q.secs) ((2048 - ipa % 2048) / 32) else 1

/-- The next requests of a copy in the order of the nest go to another device once all their bytes are there. -/
def State.sendReady (s : State) (c : Nat) (e : Eng) (id : Nat) : Nat → State
  | 0 => s
  | fuel + 1 => match s.copyOf c e id with
    | none => s
    | some q =>
      let u := q.next
      let r := q.req u
      if q.failed || q.whole || (s.core c).killed || q.form == .copyr then s
      else match (if putAll r.put q.dstLen then none else s.remoteOf c q.tD (q.dstOff u) .write) with
        | some (dev, ipa) =>
          let n := q.packetLen u ipa
          let reqs := (List.range n).map (fun i => q.req (u + i))
          if reqs.any (fun r => r.bytes.length < q.srcLen) then s
          else match s.sendBytes c e q q.tD (q.dstOff u) dev ipa (reqs.flatMap Req.bytes) with
            | none => s.copyFail c e id fcFabricUnreach (entAddr q.tD (q.dstOff u)) ipa
            | some (t, q) =>
              if q.form == .copy2 then State.sendReady (t.setCopy c e (q.setReq { r with put := putParts 0 q.dstLen })) c e id fuel
              else State.sendReady (t.finishReqs c e q u n) c e id fuel
        | none =>
          if q.form == .copy2 && r.bytes.length ≥ q.srcLen && !putAll r.put2 (granule q.tA) then
            match s.remoteOf c q.tA (q.auxOff u) .write with
            | some (dev, ipa) => (match s.sendBytes c e q q.tA (q.auxOff u) dev ipa r.bytes with
              | none => s.copyFail c e id fcFabricUnreach (entAddr q.tA (q.auxOff u)) ipa
              | some (t, q) => State.sendReady (t.setCopy c e (q.setReq { r with put2 := putParts 0 (granule q.tA) })) c e id fuel)
            | none => s
          else if q.form == .copy2 && putAll r.put q.dstLen && putAll r.put2 (granule q.tA) then
            State.sendReady (s.finishReqs c e q u 1) c e id fuel
          else s

/-- The units of a destination that a turn may write by themselves (14 R273): whole sectors of a WOS page, else its aligned 8-byte
parts. -/
def State.destUnits (s : State) (c : Nat) (en : Wide) (off : Int) (n : Nat) : List (Nat × Nat) :=
  match s.pageOf c en off with
  | some r => if r.leaf.type = 2 then [(0, n)] else eights n
  | none => eights n

/-- The destinations of a request whose source bytes are all there. `part` names one part of one side. -/
def State.deliver (s : State) (c : Nat) (e : Eng) (id u : Nat) (part : Option (Nat × Nat)) : State :=
  match s.copyOf c e id with
  | none => s
  | some q =>
    let l := (q.req u).bytes
    if l.length < q.srcLen || q.failed || q.isDone u then s
    else if q.form == .copyr then s.reduceStep c e q u l
    else
      let pick (side : Nat) (put : List Nat) (n : Nat) : List (Nat × Nat) :=
        match part with
        | some p =>
          let units := if side = 2 then s.destUnits c q.tA (q.auxOff u) n else s.destUnits c q.tD (q.dstOff u) n
          if p.1 = side then (if putAll put n then [] else units.filter (fun x => x.1 = p.2 && !put.contains x.1)) else []
        | none => if putAll put n then [] else toWrite put n
      let s := s.writeReq c e id u 1 q.tD (q.dstOff u) l (pick 1 (q.req u).put q.dstLen)
      let s := if q.form == .copy2 then s.writeReq c e id u 2 q.tA (q.auxOff u) l (pick 2 (q.req u).put2 (granule q.tA)) else s
      match s.copyOf c e id with
      | none => s
      | some q =>
        let r := q.req u
        if !q.failed && putAll r.put q.dstLen && (q.form != .copy2 || putAll r.put2 (granule q.tA)) then s.finishReqs c e q u 1
        else s.sendReady c e id (q.flight.length + 2)

/-- The index of a GATHC piece, read by the copy's source path (12 R237). -/
def State.readIndex (s : State) (c : Nat) (e : Eng) (q : Copy) (u : Nat) : State :=
  let k := q.piece u
  match s.sideRead c e q u 3 q.tA (q.idxOff k) (granule q.tA) with
  | .ok t b => t.setCopy c e { q with idx := Tab.set q.idx k (ofLe b) }
  | .wait t _ => t
  | .fail t code a i _ => t.copyFail c e q.id code a i
  | .remote dev ipa => s.askBytes c e q u dev ipa (granule q.tA) (entAddr q.tA (q.idxOff k))

/-- The source of a request whose index, if it needs one, is there. -/
def State.fetchReq (s : State) (c : Nat) (e : Eng) (id u : Nat) (part : Option (Nat × Nat)) : State :=
  match s.copyOf c e id with
  | none => s
  | some q =>
    let r := q.req u
    match q.source u with
    | .index => s
    | .zeros => s.setCopy c e (q.setReq { r with got := [(0, List.replicate q.srcLen 0)] })
    | .at off =>
      let parts := match part with
        | some p => if p.1 = 0 && r.bytes.length < q.srcLen then (eights q.srcLen).filter (fun x => x.1 = p.2 && (Tab.find r.got x.1).isNone) else []
        | none => r.toRead q.srcLen
      if q.asked.any (fun x => x.1 = u) then s else s.readReq c e id u off parts

/-- One request of a copy goes as far as it can, or one part of one of its sides does: side 0 is the source, 1 the destination,
2 COPY2's second one. -/
def State.copyReq (s : State) (c : Nat) (e : Eng) (id u : Nat) (part : Option (Nat × Nat)) : State :=
  match s.copyOf c e id with
  | none => s
  | some q =>
    if !s.mayEmit c e q u then s
    else
      let q := { q with emitted := max q.emitted (u + 1) }
      let s := s.setCopy c e q
      let s := match q.source u with
        | .index => if q.asked.any (fun x => q.piece x.1 = q.piece u) then s else s.readIndex c e q u
        | _ => s
      (s.fetchReq c e id u part).deliver c e id u part

/-- Bytes that another device has returned for a request: an index of GATHC, or the source; or the code that it failed with
(12 R238, R242; log 16); what comes after a kill is discarded (15 R305, 19 R370). -/
def State.copyData (s : State) (c : Nat) (e : Eng) (n u code : Nat) (data : List Byte) : State :=
  match ((s.core c).engine e).queue[n]? with
  | none => s
  | some q => match q.asked.find? (fun x => x.1 = u) with
    | none => s
    | some a =>
      let q := { q with asked := q.asked.erase a }
      let s := s.setCopy c e q
      let (addr, ipa) := match q.source u with
        | .at off => (entAddr q.tS off, ((s.remoteOf c q.tS off .read).getD (0, 0)).2)
        | _ => (entAddr q.tA (q.idxOff (q.piece u)), ((s.remoteOf c q.tA (q.idxOff (q.piece u)) .read).getD (0, 0)).2)
      if (s.core c).killed then s
      else if q.failed then s.retireCopies c e
      else if code ≠ 0 then s.copyFail c e q.id code addr ipa
      else match q.source u with
        | .index => s.setCopy c e { q with idx := Tab.set q.idx (q.piece u) (ofLe (data.take (granule q.tA))) }
        | _ => (s.setCopy c e (q.setReq { q.req u with got := [(0, padTo q.srcLen data)] })).deliver c e q.id u none

/-- Request u of the n-th copy of an engine, or a part of it. -/
def State.reqTurn (s : State) (c : Nat) (e : Eng) (n u : Nat) (part : Option (Nat × Nat)) : State :=
  match ((s.core c).engine e).queue[n]? with
  | none => s
  | some q => s.copyReq c e q.id u part

/-- A piece whose requests follow one another at once: those of a copy at the head that has none in flight. None when one of
them would wait, fail or leave the device. -/
def State.pieceAtOnce (s : State) (c : Nat) (e : Eng) (q : Copy) : Option State :=
  let u := q.next
  let n := 32 * q.secs
  let first := ((s.core c).engine e).queue.all (fun y => y.id ≥ q.id || y.whole)
  if !q.form.sectors || u % q.secs ≠ 0 || !q.flight.isEmpty || !q.early.isEmpty || q.form == .gathc || !first ||
      !s.mayEmit c e q u || ((s.core c).engine e).requests + q.secs > 2048 then none
  else
    let off := tBase q.tS + sOff q.sh (q.piece u)
    match s.sideRead c e q u 0 q.tS off n with
    | .ok t l =>
      let at' := t.placesOf c q.tD (q.dstOff u) n
      (match t.sideWrite c e q u 1 false q.tD (q.dstOff u) (t.freshen q at' l) with
       | .ok t _ => some (((t.freshened q at' n).finishReqs c e (q.note at') u q.secs).copyArrive q n)
       | _ => none)
    | _ => none

/-- The requests of one piece, in order. -/
def State.runPiece (s : State) (c : Nat) (e : Eng) (id k : Nat) : State :=
  match s.copyOf c e id with
  | none => s
  | some q =>
    match (if q.next = k * q.secs then s.pieceAtOnce c e q else none) with
    | some t => t
    | none => ((List.range q.secs).map (k * q.secs + ·)).foldl (fun s u => s.copyReq c e id u none) s

/-- Every copy of an engine performs what it can, in order. -/
def State.runCopy (s : State) (c : Nat) (e : Eng) : State :=
  (((s.core c).engine e).queue.filter (fun q => !q.whole && !q.failed)).foldl (fun s q =>
    let k := q.piece q.next
    (List.range (nestTotal q.sh - k)).foldl (fun s i => s.runPiece c e q.id (k + i)) s) s

/-! Issue. -/

/-- A copy issues (12 R230, R232): the values read are its own for life; an engine that has failed retires it at once. -/
def State.issueCopy (s : State) (form : CopyForm) (o : CpOp) : State :=
  let c := s.cur
  let k := s.me
  let x := k.engine o.eng
  let sh := Tab.get 0 (match o.eng with | .a => k.shA | .b => k.shB) o.sh
  let tS := Tab.get 0 k.tt o.tsrc
  let tD := Tab.get 0 k.tt o.tdst
  let tA := Tab.get 0 k.tt (shAux sh)
  if x.failed then s.modMe (fun k => k.setEngine o.eng { x with next := x.next + 1 })
  else
    let q : Copy := { id := s.seq, num := x.next, form := form, sh := sh, tS := tS, tD := tD, tA := tA, step := k.isStep,
                      layer := k.layer, stepNo := s.scb.step, bar := s.optBar c o.sbar, seed := s.scb.seed.toNat, next := 0, early := [],
                      emitted := 0, flight := [], asked := [], idx := [], dstT := o.tdst, outst := [], wrote := [],
                      origin := none, failed := false }
    let near := (copySides form sh tS tD tA).filter (fun y => tLevel y.e ≤ 1)
    let score := near.foldl (fun l y =>
      scoreAdd l (tLevel y.e * 2 ^ 56 + y.lo.toNat) (tLevel y.e * 2 ^ 56 + y.hi.toNat) y.write s.seq) k.score
    s.modMe (fun k => { k.setEngine o.eng { x with queue := x.queue ++ [q], next := x.next + 1 } with score := score })

/-! Requests of other devices (23 R405, 12 R238). -/

/-- The issuer of a remote request. -/
def remoteIssuer (step : Bool) (id ipa0 ipa : Nat) : Issuer := ⟨step, 0, 0, 0, .remote, .remote id (ipa - ipa0)⟩

/-- Arrivals of COPYX at this device: dropped and counted when the core runs no task (12 R238). -/
def State.remoteArrive (s : State) (core off n : Nat) : State :=
  if (s.core core).begun then s.barApply ⟨core, off⟩ (.arrive n) else s.countN tcArrivals n

/-- The acknowledgement of a write packet (23 R405). -/
def State.sendWriteAck (s : State) (p : WritePkt) (code : Nat) : State :=
  let l := leBytes 8 p.ipa ++ leBytes 2 code ++ leBytes 1 p.core ++ leBytes 1 (engCode p.eng) ++ leBytes 4 0
  (s.sendPacket 1 p.src 0 [l]).getD s

/-- Where a remote request goes and what it has done: its source, the IPA and length, and whether it writes. -/
def RemoteReq.span : RemoteReq → Nat × Nat × Nat × Bool
  | .write p _ => (p.src, p.ipa, p.data.length, true)
  | .read src ipa len _ _ => (src, ipa, len, false)
  | .reduce r => (r.src, r.ipa, granule r.tD, true)

/-- Whether an earlier request of the same device must perform first: both touch a byte, or one touches an SC page (14 R275,
R277). -/
def State.remoteWaits (s : State) (id : Nat) (q : RemoteReq) : Bool :=
  let (src, a, n, w) := q.span
  (s.remote.takeWhile (fun e => e.1 ≠ id)).any (fun e =>
    let (src', b, m, w') := e.2.span
    src = src' && (((w || w') && a < b + m && b < a + n) || (s.onType 4 a 1 && !s.onType 4 b 2) || (s.onType 4 b 1 && !s.onType 4 a 2)))

/-- A write packet goes on performing from a byte on, each unit at its home (23 R405): finished, failed, or still waiting. -/
def State.runWrite (id : Nat) (p : WritePkt) : List (Nat × Nat) → Nat → State → State × Option Nat
  | [], done, s => if done ≥ p.data.length then (s.sendWriteAck p 0, none) else (s, some done)
  | b :: r, done, s =>
    let iss := remoteIssuer p.step id p.ipa b.1
    match s.gWrite iss true b.1 ((p.data.drop done).take b.2) with
    | .wait cause => (s.await iss .write b.1 b.2 cause, some done)
    | .fail code => ((s.leave iss.key).sendWriteAck p code, none)
    | .done s _ => State.runWrite id p r (done + b.2) (if p.arrivals then s.remoteArrive p.core p.barrier b.2 else s)

/-- An element that another device's COPYR updates: read and written as one, where an atomic on its page executes
(12 R236). -/
def State.runReduce (s : State) (id : Nat) (r : ReducePkt) : State × Bool :=
  let iss := remoteIssuer r.step id r.ipa r.ipa
  let n := granule r.tD
  let answer (s : State) (code : Nat) (ovf : Bool) (o : Option (BitVec 32)) : State :=
    { s.leave iss.key with out := s.out ++ [.reduceReply r.src r.ipa code r.core r.eng ovf o] }
  let new (old : List Byte) : Reduced :=
    reduceWith r.tS r.tD ⟨r.layer.toNat, r.stepNo.toNat⟩ r.seed (ofLe r.value) (ofLe old) r.offset
  let bytes (old : List Byte) : List Byte :=
    if r.twice then (List.range n).map (fun k => Config.freeByte (s.fresh + k)) else leBytes n (new old).code
  match s.gUpdate iss r.ipa n bytes with
  | .wait cause => (s.await iss .atomic r.ipa n cause, true)
  | .fail code => (answer s code false none, false)
  | .done t old => (answer (if r.twice then { t with fresh := t.fresh + n } else t) 0 (new old).ovf (new old).origin, false)

/-- The units of a request that this turn may perform: all that are left, or the next 8 bytes (14 R273); a WOS sector is one
unit when it is written. -/
def State.unitsLeft (s : State) (one : Bool) (ipa n : Nat) (write : Bool) : List (Nat × Nat) :=
  if one && !(write && s.onType 4 ipa 2) then (alignedParts 8 2 ipa n).take 1
  else if one then (partsOf ipa n).take 1 else partsOf ipa n

/-- A remote request performs as far as it can, or one unit of it; what must wait is kept. -/
def State.serve (s : State) (id : Nat) (q : RemoteReq) (one : Bool) : State × Option RemoteReq :=
  if s.remoteWaits id q then (s, some q)
  else match q with
  | .write p done =>
    let (s, w) := State.runWrite id p (s.unitsLeft one (p.ipa + done) (p.data.length - done) true) done s
    (s, w.map (fun d => .write p d))
  | .read src ipa len step got =>
    let at' := ipa + got.length
    match State.readParts (remoteIssuer step id ipa) 0 at' (s.unitsLeft one at' (len - got.length) false) s got with
    | .wait t got => (t, some (.read src ipa len step got))
    | .fail t code _ _ _ => ({ t with out := t.out ++ [.readReply src ipa code []] }, none)
    | .remote _ _ => (s, none)
    | .ok t l => if l.length ≥ len then ({ t with out := t.out ++ [.readReply src ipa 0 l] }, none) else (t, some (.read src ipa len step l))
  | .reduce r =>
    let (s, more) := s.runReduce id r
    (s, if more then some q else none)

/-- A waiting remote request is tried again. -/
def State.retryRemote (s : State) (n : Nat) (one : Bool) : State :=
  match s.remote[n]? with
  | none => s
  | some e =>
    let (s, w) := s.serve e.1 e.2 one
    { s with remote := match w with
        | some q => s.remote.map (fun x => if x.1 = e.1 then (e.1, q) else x)
        | none => s.remote.filter (fun x => x.1 ≠ e.1) }

/-- A remote request arrives; it performs what it can, unless a turn for one unit of a request comes next (log 8). -/
def State.takeRemote (s : State) (q : RemoteReq) : State :=
  let n := s.remote.length
  let s := { s with remote := s.remote ++ [(s.nextRemote, q)], nextRemote := s.nextRemote + 1 }
  match s.turns with
  | .remote _ true :: _ => s
  | _ => s.retryRemote n false

/-- The acknowledgement of bytes that a copy of this device has sent to another (23 R405): the copy's arrivals, unless its core has
been killed (15 R305), or its failure. -/
def State.takeWriteAck (s : State) (src ipa code core : Nat) (e : Eng) : State :=
  let mine (o : Sent) : Bool := o.dev = src && o.ipa = ipa
  match ((s.core core).engine e).queue.find? (fun q => q.outst.any mine) with
  | none => s
  | some q =>
    match q.outst.find? mine with
    | none => s
    | some o =>
      let q := { q with outst := q.outst.erase o }
      let s := s.setCopy core e q
      if (s.core core).killed then s
      else if q.failed then s.retireCopies core e
      else if code ≠ 0 then s.copyFail core e q.id code o.addr ipa
      else (s.copyArrive q o.n).settleOrigin core q

/-- The answer to COPYR's update of an element at another device (12 R236): OVF and the origin are the copy's own. -/
def State.takeReduceReply (s : State) (src ipa code core : Nat) (e : Eng) (ovf : Bool) (origin : Option (BitVec 32)) : State :=
  let mine (o : Sent) : Bool := o.dev = src && o.ipa = ipa
  match ((s.core core).engine e).queue.find? (fun q => q.outst.any mine) with
  | none => s
  | some q =>
    let index := match q.outst.find? mine with | some o => logicalOf q.tD o.addr.toNat | none => 0
    let s := s.setCopy core e (q.noteOrigin index origin)
    (if ovf && q.step && !(s.core core).killed then s.pennonOr 4 else s).takeWriteAck src ipa code core e

end Sys2Proof.Machine
end

