-- ==== Sys2Proof/Machine/NearMemory.lean ====
section
/-! DEFINITION. Near-memory units (16): NMRUN, the launcher's checks and start, the microinstructions, and the end of a run. -/

namespace Sys2Proof.Machine

/-! Units and rows (16 R311, R312, R316). -/

def NmUnit.idle : NmUnit := { q := [], run := none, row := 0, idx := 0, queue := [], part := [], undo := [] }

def State.unit (s : State) (u : Nat) : NmUnit := Tab.get NmUnit.idle s.units u
def State.setUnit (s : State) (u : Nat) (x : NmUnit) : State := { s with units := Tab.set s.units u x }
def State.run (s : State) (n : Nat) : Option NmRun := Tab.find s.runs n
def State.setRun (s : State) (n : Nat) (r : NmRun) : State := { s with runs := Tab.set s.runs n r }

/-- The placing stream: the valid stream of lowest number (16 R312). -/
def NmRun.placing (r : NmRun) : Option Stream := r.streams.find? (·.valid)

/-- The unit of a row (16 R312, 13 R250). -/
def NmRun.unitOf (r : NmRun) (row : Nat) : Nat :=
  match r.placing with
  | some x => nmuOf (x.ipa + 512 * row)
  | none => 0

/-- The first row of a unit from a row on. -/
def NmRun.rowFrom (r : NmRun) (u row : Nat) : Option Nat :=
  ((List.range (r.rows - row)).map (row + ·)).find? (fun x => r.unitOf x == u)

/-- The units that have rows. -/
def NmRun.units (r : NmRun) : List Nat :=
  Tab.keys ((List.range r.rows).foldl (fun (t : Tab Unit) x => Tab.set t (r.unitOf x) ()) [])

/-- The issuer of a unit of a run's row, and of the read of its parameter block (13 R261, 16 R321, R323). -/
def State.rowIssuer (s : State) (r : NmRun) (u row stream off : Nat) : Issuer :=
  (s.core r.core).issuer r.core r.step .nm (.row r.id u row stream off)
def State.blockIssuer (s : State) (r : NmRun) (ipa : Nat) : Issuer := (s.core r.core).issuer r.core r.step .block (.block r.id ipa)

/-- A unit takes a run: lane registers zero, the first of its rows (16 R316). -/
def State.takeRun (s : State) (u n : Nat) : State :=
  match s.run n with
  | none => s
  | some r => match r.rowFrom u 0 with
    | none => s
    | some row => s.setUnit u { s.unit u with q := [], run := some n, row := row, idx := 0, part := [], undo := [] }

/-- A unit's run has ended on it; the next queued run starts (16 R322). -/
def State.unitDone (s : State) (u : Nat) : State :=
  let x := s.unit u
  match x.queue with
  | [] => s.setUnit u NmUnit.idle
  | n :: rest => (s.setUnit u { NmUnit.idle with queue := rest }).takeRun u n

/-- A run takes its place at a unit. -/
def State.sendRun (s : State) (u n : Nat) : State :=
  let x := s.unit u
  if x.run.isNone then s.takeRun u n else s.setUnit u { x with queue := x.queue ++ [n] }

/-- Whether a run may reach a unit: a core's runs reach every unit in the order of their issue (16 R322). -/
def State.mayReach (s : State) (n u : Nat) : Bool :=
  match s.run n with
  | some r => r.started && !r.stopped && r.reach.contains u &&
      !(s.runs.any (fun e => e.1 < n && e.2.core == r.core && (e.2.reach.contains u || (!e.2.started && e.2.fault.isNone && !e.2.stopped))))
  | none => false

/-- A run reaches a unit. -/
def State.reachUnit (s : State) (n u : Nat) : State :=
  match s.run n with
  | some r => if s.mayReach n u then (s.setRun n { r with reach := r.reach.erase u }).sendRun u n else s
  | none => s

/-- Every run that may reach a unit does, in the order of their issue. -/
def State.reachAll (s : State) (u : Nat) : State := (Tab.keys s.runs).foldl (fun s n => s.reachUnit n u) s

/-- Whether a run still has a unit, or one to reach. -/
def State.runActive (s : State) (n : Nat) : Bool :=
  s.units.any (fun e => e.2.run == some n || e.2.queue.contains n) || (match s.run n with | some r => !r.reach.isEmpty | none => false)

/-! Microinstructions (16 R314 to R319). -/

/-- The microinstruction that executes on the current unit, with its run; the flag says that the program goes on to the
next one. Nothing happens on a
unit without a run. -/
def micro (s : State) (body : NmRun → NmUnit → State → State × Bool) : Host.Outcome State Fault Refusal :=
  let u := s.curUnit
  let x := s.unit u
  match x.run with
  | none => .next s
  | some n => match s.run n with
    | none => .next s
    | some r =>
      if r.stopped then .next (s.unitDone u)
      else
        let (t, on) := body r x s
        .next (if on then t.setUnit u { t.unit u with idx := (t.unit u).idx + 1 } else t)

def lane32 (v : VReg) (l : Nat) : Nat := lane 4 v l

/-- A result for each lane; a non-finite one from finite operands sets OVF for a step run (16 R317). -/
def laneOp (o : NmOp) (f : NmRun → Nat → Nat → Nat → FRes) (r : NmRun) (x : NmUnit) (s : State) : State × Bool :=
  let a := Tab.get 0 x.q o.na
  let b := Tab.get 0 x.q o.nb
  let c := Tab.get 0 x.q o.nc
  let rs := (List.range 128).map (fun l => f r (lane32 a l) (lane32 b l) (lane32 c l))
  let s := s.setUnit s.curUnit { x with q := Tab.set x.q o.nd (joinLanes 4 (rs.map (·.code))) }
  (if r.step && rs.any (·.ovf) then s.pennonOr 4 else s, true)

/-- The layer and step of the NaNs that a run creates (16 R317). -/
def NmRun.cx (r : NmRun) : NanCtx := ⟨r.layer.toNat, r.stepNo.toNat⟩

def f32Lane (r : NmRun) (ops : List Nat) (g : List FV → Ex) : FRes := fop fmt32 r.cx .rne ops g
def iLane (k : Int) : FRes := ⟨intPat 32 k, false⟩
def iSigned (a : Nat) : Int := intVal true 32 a

/-- The bytes and written bits that the NSTs of the row under way have replaced stand again (16 R321; log 44). -/
def State.undoRow (s : State) (r : NmRun) (u : Nat) : State :=
  (s.unit u).undo.reverse.foldl (fun s e =>
    match s.walk e.ipa with
    | none => s
    | some p =>
      let s := (s.wrBytes p.leaf.v r.step none (p.pa e.ipa) e.data).dropCached none e.ipa e.data.length
      if p.leaf.type = 2 && !e.bit then s.setWritten r.step (p.pa e.ipa) false else s) s

/-- A run fails on a unit (16 R321): the row keeps its old bytes and the unit stops; FAULT; the core takes the failure. The other
units go on, and the bytes that this one does not write never arrive at the barrier. -/
def State.unitFail (s : State) (u : Nat) (r : NmRun) (code : Nat) (va : Word) (ipa : Nat) (write : Bool) : State :=
  let f : FaultRec := { code := code, slot := 8, data := true, write := write, addr := va, ipa := ipa, access := some r.id,
                        after := true }
  let s := s.undoRow r u
  ((s.modCore r.core (fun k => if k.killed then k else { k with faults := k.faults ++ [f] })).noteFault r.step code).unitDone u

/-- The units of a row access that have not performed, of n bytes each. -/
def NmUnit.left (x : NmUnit) (n : Nat) : List Nat := ((List.range (512 / n)).map (n * ·)).filter (fun o => (Tab.find x.part o).isNone)

/-- Units of NLD's row are read, each where it can be (16 R318). -/
def State.loadRow (u : Nat) (r : NmRun) (stream : Nat) (t : Stream) (row : Nat) : List Nat → State → State
  | [], s => s
  | off :: rest, s =>
    let ipa := t.ipa + 512 * row + off
    let va := t.va + BitVec.ofNat 64 (512 * row + off)
    let iss := s.rowIssuer r u row stream off
    match s.gRead iss ipa 8 with
    | .wait cause =>
      if s.wosLate iss.key then (s.leave iss.key).unitFail u r fcWosWait va ipa false
      else State.loadRow u r stream t row rest (s.await iss .read ipa 8 cause)
    | .fail code => (s.leave iss.key).unitFail u r code va ipa false
    | .done s b =>
      let x := s.unit u
      State.loadRow u r stream t row rest (s.setUnit u { x with part := Tab.set x.part off b })

/-- Units of NST's row are written, each where it can be, and their arrivals follow (16 R318). -/
def State.storeRow (u : Nat) (r : NmRun) (stream : Nat) (t : Stream) (row n : Nat) (l : List Byte) : List Nat → State → State
  | [], s => s
  | off :: rest, s =>
    let ipa := t.ipa + 512 * row + off
    let iss := s.rowIssuer r u row stream off
    let old : RowUndo := match s.walk ipa with
      | some p => ⟨ipa, if p.leaf.tier ≥ 2 then [] else s.rdBytes p.leaf.v r.step (p.pa ipa) n, s.isWritten (p.pa ipa)⟩
      | none => ⟨ipa, [], false⟩
    match s.gWrite iss true ipa ((l.drop off).take n) with
    | .wait cause => State.storeRow u r stream t row n l rest (s.await iss .write ipa n cause)
    | .fail code => (s.leave iss.key).unitFail u r code (t.va + BitVec.ofNat 64 (512 * row + off)) ipa true
    | .done s _ =>
      let x := s.unit u
      let s := s.setUnit u { x with part := Tab.set x.part off [], undo := x.undo ++ [old] }
      State.storeRow u r stream t row n l rest (match r.bar with | some b => s.barApply b (.arrive n) | none => s)

/-- The length of a unit that NST writes: a WOS sector, else 8 bytes (14 R273). -/
def State.storeUnit (s : State) (t : Stream) (row : Nat) : Nat := if s.onType 4 (t.ipa + 512 * row) 2 then 32 else 8

/-- The row access under way is whole: it begins anew for the next microinstruction. -/
def State.endRow (s : State) (u : Nat) : State := s.setUnit u { s.unit u with part := [] }

/-- NLD (16 R318): the units of the row that are left, and the lane register once all of them are there. -/
def execNld (qd stream : Nat) (s : State) : Host.Outcome State Fault Refusal :=
  micro s (fun r x s =>
    let u := s.curUnit
    match r.streams[stream]? with
    | none => (s, false)
    | some t =>
      let s := State.loadRow u r stream t x.row (x.left 8) s
      let y := s.unit u
      if y.run == x.run && y.part.length = 64 then
        ((s.setUnit u { y with q := Tab.set y.q qd (BitVec.ofNat 4096 (ofLe (y.part.flatMap (·.2)))) }).endRow u, true)
      else (s, false))

/-- NST (16 R318): the units of the row that are left. -/
def execNst (stream qa : Nat) (s : State) : Host.Outcome State Fault Refusal :=
  micro s (fun r x s =>
    let u := s.curUnit
    match r.streams[stream]? with
    | none => (s, false)
    | some t =>
      let n := s.storeUnit t x.row
      let s := State.storeRow u r stream t x.row n (leBytes 512 (Tab.get 0 x.q qa).toNat) (x.left n) s
      let y := s.unit u
      if y.run == x.run && y.part.length * n = 512 then (s.endRow u, true) else (s, false))

/-- NPARAM. -/
def execNparam (qd k : Nat) (s : State) : Host.Outcome State Fault Refusal :=
  micro s (fun r x s =>
    (s.setUnit s.curUnit { x with q := Tab.set x.q qd (joinLanes 4 (List.replicate 128 (r.params.getD k 0).toNat)) }, true))

/-- NADD. -/
def execNadd (o : NmOp) (s : State) : Host.Outcome State Fault Refusal :=
  micro s (laneOp o (fun r a b _ => if o.i32 then iLane (iSigned a + iSigned b) else f32Lane r [a, b] (bin exAdd)))

/-- NSUB. -/
def execNsub (o : NmOp) (s : State) : Host.Outcome State Fault Refusal :=
  micro s (laneOp o (fun r a b _ => if o.i32 then iLane (iSigned a - iSigned b) else f32Lane r [a, b] (bin exSub)))

/-- NMUL. -/
def execNmul (o : NmOp) (s : State) : Host.Outcome State Fault Refusal :=
  micro s (laneOp o (fun r a b _ => if o.i32 then iLane (iSigned a * iSigned b) else f32Lane r [a, b] (bin exMul)))

/-- NFMA. -/
def execNfma (o : NmOp) (s : State) : Host.Outcome State Fault Refusal :=
  micro s (laneOp o (fun r a b c => f32Lane r [a, b, c] (tri exFma)))

/-- NDIV. -/
def execNdiv (o : NmOp) (s : State) : Host.Outcome State Fault Refusal :=
  micro s (laneOp o (fun r a b _ => f32Lane r [a, b] (bin exDiv)))

/-- NSQRT. -/
def execNsqrt (o : NmOp) (s : State) : Host.Outcome State Fault Refusal :=
  micro s (laneOp o (fun r a _ _ => f32Lane r [a] (una exSqrt)))

/-- NRSQ. -/
def execNrsq (o : NmOp) (s : State) : Host.Outcome State Fault Refusal :=
  micro s (laneOp o (fun r a _ _ => f32Lane r [a] (una exRsq)))

/-- The larger or the smaller (08 R162; signed for `.i32`). -/
def nmMinMax (i32 mn : Bool) (a b : Nat) : Nat :=
  if i32 then intPat 32 (if mn then min (iSigned a) (iSigned b) else max (iSigned a) (iSigned b)) else fMinMax fmt32 mn a b

/-- NMAX. -/
def execNmax (o : NmOp) (s : State) : Host.Outcome State Fault Refusal :=
  micro s (laneOp o (fun _ a b _ => ⟨nmMinMax o.i32 false a b, false⟩))

/-- NMIN. -/
def execNmin (o : NmOp) (s : State) : Host.Outcome State Fault Refusal :=
  micro s (laneOp o (fun _ a b _ => ⟨nmMinMax o.i32 true a b, false⟩))

/-- NABS: `.f32` clears the sign of all but a NaN, which is quieted (08 R163); `.i32` wraps. -/
def execNabs (o : NmOp) (s : State) : Host.Outcome State Fault Refusal :=
  micro s (laneOp o (fun _ a _ _ =>
    if o.i32 then iLane (iSigned a).natAbs
    else ⟨if (fvOf fmt32 a).isNan then quietNan fmt32 a else a % 2 ^ 31, false⟩))

/-- NCMP. -/
def execNcmp (o : NmOp) (cc : Cond) (s : State) : Host.Outcome State Fault Refusal :=
  micro s (laneOp o (fun _ a b _ =>
    let t := if o.i32 then intCond cc (iSigned a) (iSigned b) a b else fCond fmt32 cc a b
    ⟨if t then 2 ^ 32 - 1 else 0, false⟩))

/-- NSEL. -/
def execNsel (o : NmOp) (s : State) : Host.Outcome State Fault Refusal :=
  micro s (laneOp o (fun _ a b c => ⟨if c % 2 = 1 then a else b, false⟩))

/-- NCLAMP. -/
def execNclamp (o : NmOp) (s : State) : Host.Outcome State Fault Refusal :=
  micro s (laneOp o (fun _ a b c => ⟨nmMinMax o.i32 true (nmMinMax o.i32 false a b) c, false⟩))

/-- One lane of NCVT (16 R319). -/
def nmCvt (kind a : Nat) : FRes :=
  if kind = 0 then
    let r := cvt .rne .bf16 .f32 a
    ⟨(cvt .rne .f32 .bf16 r.code).code, r.ovf⟩
  else if kind = 1 then cvt .rne .i32 .f32 a
  else cvt .rne .f32 .i32 a

/-- NCVT. -/
def execNcvt (kind qd qa : Nat) (s : State) : Host.Outcome State Fault Refusal :=
  micro s (laneOp ⟨qd, qa, 0, 0, false⟩ (fun _ a _ _ => nmCvt kind a))

/-- NLOOP (16 R316): the next row from the target on, or the next microinstruction. -/
def execNloop (target : Nat) (s : State) : Host.Outcome State Fault Refusal :=
  micro s (fun r x s =>
    match r.rowFrom s.curUnit (x.row + 1) with
    | some row => (s.setUnit s.curUnit { x with row := row, idx := target, undo := [] }, false)
    | none => (s, true))

/-- NEND (16 R316). -/
def execNend (s : State) : Host.Outcome State Fault Refusal := micro s (fun _ _ s => (s.unitDone s.curUnit, false))

/-- The microinstruction that a unit has next. -/
def State.nextMicro (s : State) (u : Nat) : Option Instr :=
  let x := s.unit u
  match x.run with
  | none => none
  | some n => match s.run n with
    | none => none
    | some r => match decodeNM (r.prog.getD x.idx 0).toNat with
      | .ok i => some i
      | .error _ => none

/-- One 8-byte unit, or one WOS sector, of the row access that a unit has next (14 R273, 16 R318). -/
def State.rowTurn (s : State) (u off : Nat) : State :=
  let x := s.unit u
  match x.run with
  | none => s
  | some n => match s.run n with
    | none => s
    | some r =>
      if r.stopped then s
      else match s.nextMicro u with
        | some (.nld _ stream) => (match r.streams[stream]? with
          | some t => State.loadRow u r stream t x.row ((x.left 8).filter (· == off)) s
          | none => s)
        | some (.nst stream qa) => (match r.streams[stream]? with
          | some t =>
            let n := s.storeUnit t x.row
            State.storeRow u r stream t x.row n (leBytes 512 (Tab.get 0 x.q qa).toNat) ((x.left n).filter (· == off)) s
          | none => s)
        | _ => s

/-! NMRUN. -/

/-- NMRUN (16 R320): the run waits for the launcher with the program, the block's address and what held at issue. -/
def execNmrun (sp sb prog : Nat) (s : State) : Host.Outcome State Fault Refusal :=
  syl .k (.nmrun sp sb prog) s (fun s =>
    let k := s.me
    let r : NmRun := { core := s.cur, id := s.seq, prog := (s.program s.cur prog).getD [], block := k.sc sp,
                       bar := s.optBar s.cur sb, layer := k.layer, stepNo := s.scb.step, step := k.isStep, started := false,
                       stopped := false, streams := [], rows := 0, params := [], reach := [], since := s.time, fault := none }
    (s.setRun s.seq r).modMe (fun k => { k with nmRuns := k.nmRuns ++ [s.seq] }))

/-- The block's bytes (16 R313, R321). -/
def State.readBlock (s : State) (c : Nat) (iss : Nat → Issuer) (a : Word) (n : Nat) : Side4 :=
  if isLocal a then .ok s ((s.core c).sp.reads (offsetOf a) n)
  else match spanRange (s.core c).rg a.toNat n .read with
    | .error (code, x) => .fail s code (BitVec.ofNat 64 x) 0 []
    | .ok _ => match translate s.deviceId (s.core c).rg a .read false with
      | .error code => .fail s code a 0 []
      | .ok (_, ipa) => State.readParts iss a ipa (partsOf ipa n) s []

/-- The streams, rows and parameters of a block. -/
def nmFields (l : List Byte) : List Word × Nat × List (BitVec 32) :=
  let word (k : Nat) : Word := BitVec.ofNat 64 (ofLe ((l.drop (8 * k)).take 8))
  ((List.range 8).map word, ofLe ((l.drop 64).take 4),
   (List.range 32).map (fun k => BitVec.ofNat 32 (ofLe ((l.drop (128 + 4 * k)).take 4))))

/-- Streams that a program loads or stores. -/
def progStreams (prog : List Word) (store : Bool) : List Nat :=
  prog.filterMap (fun w => match decodeNM w.toNat with
    | .ok (.nld _ t) => if store then none else some t
    | .ok (.nst t _) => some t
    | _ => none)

/-- NM_PARAM (16 R321). -/
def nmParamBad (prog : List Word) (l : List Byte) : Bool :=
  let (ws, rows, _) := nmFields l
  let valid (k : Nat) : Bool := (ws.getD k 0).getLsbD 57
  let wr (k : Nat) : Bool := (ws.getD k 0).getLsbD 58
  ((l.drop 68).take 60).any (· != 0) || ws.any (fun w => fld w.toNat 63 59 ≠ 0) || rows = 0 || rows > 2 ^ 24 ||
  ws.any (fun w => w.getLsbD 57 && fld w.toNat 8 0 ≠ 0) || !((List.range 8).any valid) ||
  (progStreams prog false).any (fun t => !valid t) || (progStreams prog true).any (fun t => !wr t)

/-- The order of the table's rows for the failures at a page (16 R321). -/
def nmRank (code : Nat) : Nat :=
  if code = fcNmIp then 1
  else if code = fcNmType then 2
  else if faultClass code = 4 && code ≠ fcPagePerm && code ≠ fcVersionWrite then 3
  else 0

/-- What a page of a run's spans answers: its rank among the failures, and its addresses. -/
structure SpanPage where
  rank : Nat
  chk : Chk
  va : Word
  ipa : Nat
  write : Bool
  deriving DecidableEq, Repr

/-- The answers of the pages of a run's spans. -/
def State.nmPages (s : State) (iss : Issuer) (ts : List Stream) (rows : Nat) : List SpanPage :=
  (ts.filter (·.valid)).flatMap (fun t =>
    (pageParts (rows * 512 / 65536 + 2) t.ipa (t.ipa + rows * 512)).flatMap (fun p =>
      let one (kd : AKind) : SpanPage :=
        let a := s.pageChk iss kd p.1
        ⟨match a with | .fail code => nmRank code | _ => 9, a, t.va + BitVec.ofNat 64 (p.1 - t.ipa), p.1, t.write⟩
      one .read :: (if t.write then [one .write] else [])))

/-- Why a run does not start: the code with its address and whether the failing span may be written, or a page that it
waits for. -/
inductive NmStart where
  | fail (s : State) (code : Nat) (addr : Word) (ipa : Nat) (write : Bool)
  | wait (s : State)
  | go (s : State) (streams : List Stream) (rows : Nat) (params : List (BitVec 32))

def State.nmCheck (s : State) (r : NmRun) : NmStart :=
  match s.readBlock r.core (s.blockIssuer r) r.block 256 with
  | .fail s code a i _ => .fail s code a i false
  | .wait s _ => .wait s
  | .remote _ _ => .fail s fcRangePerm r.block 0 false
  | .ok s l =>
    let iss := s.rowIssuer r 0 0 0 0
    let (ws, rows, params) := nmFields l
    let va (w : Word) : Word := BitVec.ofNat 64 (fld w.toNat 56 0)
    if nmParamBad r.prog l then .fail s fcNmParam r.block 0 false
    else
      let rg := (s.core r.core).rg
      let chk (w : Word) : Except (Nat × Nat) Nat :=
        if !w.getLsbD 57 then .ok 0
        else match spanRange rg (va w).toNat (rows * 512) (if w.getLsbD 58 then .write else .read) with
          | .error e => .error e
          | .ok _ => match translate s.deviceId rg (va w) .read false with
            | .error code => .error (code, (va w).toNat)
            | .ok (_, ipa) => .ok ipa
      match ws.findSome? (fun w => match chk w with | .error e => some (e, w) | .ok _ => none) with
      | some (e, w) => .fail s e.1 (BitVec.ofNat 64 e.2) 0 (w.getLsbD 58)
      | none =>
        let ts := ws.map (fun w => (⟨w.getLsbD 57, w.getLsbD 58, va w, match chk w with | .ok i => i | .error _ => 0⟩ : Stream))
        let first := match ts.find? (·.valid) with | some t => t.ipa | none => 0
        match ts.find? (fun t => t.valid && t.ipa % 2 ^ 34 ≠ first % 2 ^ 34) with
        | some t => .fail s fcNmAlign t.va t.ipa t.write
        | none =>
          let pages := s.nmPages iss ts rows
          let bad := pages.filter (fun e => e.rank < 9)
          let least := bad.foldl (fun m e => min m e.rank) 9
          match bad.find? (fun e => e.rank = least) with
          | some ⟨_, .fail code, a, i, w⟩ => .fail s code a i w
          | _ =>
            let held := pages.filter (fun e => match e.chk with | .held _ => true | _ => false)
            if held.isEmpty then .go s ts rows params
            else .wait (held.foldl (fun s e => s.wantPage iss .read e.ipa) s)

/-- Lines of a run's spans leave every line buffer, every L2 and every LLC (16 R321). -/
def State.flushSpan (s : State) (t : Stream) (rows : Nat) : State :=
  (pageParts (rows * 512 / 65536 + 2) t.ipa (t.ipa + rows * 512)).foldl (fun s p =>
    match s.walk p.1 with
    | none => s
    | some r =>
      let pa := r.pa p.1
      let s := if r.leaf.v then s else s.writeBackAll pa p.2
      (s.dropLines pa p.2).dropCached none p.1 p.2) s

/-- NM_RUN_START (16 R321): after any FENCEX hold and the core's earlier runs, the checks and the
flush; it then reaches the units of its rows one by one (R322). -/
def execNmRunStart (run : Nat) (s : State) : Host.Outcome State Fault Refusal :=
  .next (match s.run run with
    | none => s
    | some r =>
      let earlier := (s.core r.core).nmRuns.any (fun n => n < run && (match s.run n with | some x => !x.started | none => false))
      if r.started || r.stopped || r.fault.isSome || earlier || s.fenceHolds r.core 4 r.id 0 then s
      else match s.nmCheck r with
        | .wait s => s
        | .fail s code a i w =>
          let f : FaultRec := { code := code, slot := 8, data := true, write := w, addr := a, ipa := i, access := some r.id }
          (s.setRun run { r with fault := some f }).noteFault r.step code
        | .go s ts rows params =>
          let r : NmRun := { r with started := true, streams := ts, rows := rows, params := params, since := s.time }
          let r := { r with reach := r.units }
          (ts.filter (·.valid)).foldl (fun s t => s.flushSpan t rows) (s.setRun run r))

/-- NM_RUN_RETIRE (16 R323): every unit has ended; the entry is released. A stopped run stays until KILL or the abort has made its
rows undefined. -/
def execNmRunRetire (run : Nat) (s : State) : Host.Outcome State Fault Refusal :=
  .next (match s.run run with
    | none => s
    | some r =>
      if r.started && !r.stopped && !(s.runActive run) then
        { s with runs := Tab.del s.runs run }.modCore r.core (fun k => { k with nmRuns := k.nmRuns.filter (· != run) })
      else s)

end Sys2Proof.Machine
end

