-- ==== Sys2Proof/Machine/Collective.lean ====
section
/-! DEFINITION. Communicators and collectives (17 R339 to R346). -/

namespace Sys2Proof.Machine

/-! Communicators (17 R339). -/

def commLo (w : Word) (d : Nat) : Nat := fld w.toNat (8 * d + 3) (8 * d)
def commHi (w : Word) (d : Nat) : Nat := fld w.toNat (8 * d + 7) (8 * d + 4)
def commSize (w : Word) (d : Nat) : Nat := commHi w d - commLo w d + 1

/-- The member count. -/
def commCount (w : Word) : Nat := commSize w 0 * commSize w 1 * commSize w 2 * commSize w 3

/-- Whether a device lies in the box. -/
def commHas (w : Word) (dev : Nat) : Bool :=
  (List.range 4).all (fun d => commLo w d ≤ coord dev d && coord dev d ≤ commHi w d)

/-- The members, by their devices. -/
def commDevs (w : Word) : List Nat :=
  let dim (d : Nat) : List Nat := (List.range (commSize w d)).map (fun i => (commLo w d + i) * 16 ^ d)
  (dim 3).flatMap (fun a => (dim 2).flatMap (fun b => (dim 1).flatMap (fun c => (dim 0).map (fun e => a + b + c + e))))

/-- The rank of a member. -/
def commRank (w : Word) (dev : Nat) : Nat :=
  let x (d : Nat) : Nat := coord dev d - commLo w d
  ((x 3 * commSize w 2 + x 2) * commSize w 1 + x 1) * commSize w 0 + x 0

/-! Descriptors (17 R341). -/

/-- The fields of a descriptor. -/
structure CollDesc where
  kind : Nat
  type : Nat
  op : Nat
  flags : Nat
  layer : Nat
  root : Nat
  count : Nat
  src : Nat
  dst : Nat
  sig : Nat
  sigval : Nat
  resZero : Bool
  deriving DecidableEq, Repr

def collFields (l : List Byte) : CollDesc :=
  let n (a k : Nat) : Nat := ofLe ((l.drop a).take k)
  { kind := n 0 1, type := n 1 1, op := n 2 1, flags := n 3 1, layer := n 4 2 % 1024, root := n 6 2, count := n 8 4,
    src := n 16 8, dst := n 24 8, sig := n 32 8, sigval := n 40 8,
    resZero := n 3 1 < 2 && n 4 2 < 1024 && n 12 4 = 0 && (l.drop 48).all (· == 0) }

/-- The element type of a TYPE code. -/
def collType : Nat → ETy
  | 0 => .f64 | 1 => .f32 | 2 => .f16 | 3 => .bf16 | 4 => .i32 | 5 => .n32 | 6 => .i64 | _ => .n64

/-- Source and destination spans in bytes. -/
def CollDesc.srcLen (d : CollDesc) (n : Nat) : Nat := (if d.kind = 1 then n else 1) * d.count * (collType d.type).width
def CollDesc.dstLen (d : CollDesc) (n : Nat) : Nat := (if d.kind = 2 then n else 1) * d.count * (collType d.type).width

/-- COLL_DESC (17 R342). -/
def CollDesc.bad (d : CollDesc) (n : Nat) : Bool :=
  let a := d.srcLen n
  let b := d.dstLen n
  let overlap := d.src < d.dst + b && d.dst < d.src + a
  let same := d.src = d.dst && a = b && (d.kind = 0 || d.kind = 3)
  !d.resZero || d.kind > 3 || d.type > 7 || d.op > 2 || (d.op ≠ 0 && d.kind ≥ 2) || d.count = 0 || d.root ≥ n ||
  (d.root ≠ 0 && d.kind ≠ 3) || (d.sig ≠ 0 && d.flags = 0) || a > 2 ^ 40 || b > 2 ^ 40 || d.src % 32 ≠ 0 || d.dst % 32 ≠ 0 ||
  (overlap && !same)

/-! The reduction (17 R344). -/

/-- One step of the reduction on element codes. -/
def redStep (t : ETy) (op : Nat) (cx : NanCtx) (a b : Nat) : FRes :=
  let w := 8 * t.width
  if t.isFloat then
    (if op = 0 then fop (fmtOf t) cx .rne [a, b] (bin exAdd) else ⟨fMinMax (fmtOf t) (op = 2) a b, false⟩)
  else
    let x := intVal t.isSigned w a
    let y := intVal t.isSigned w b
    ⟨intPat w (if op = 0 then x + y else if op = 1 then max x y else min x y), false⟩

/-- red in rank order, with OVF; the NaN of a lone member is quieted (07 R144). -/
def redAll (t : ETy) (op : Nat) (cx : NanCtx) : List Nat → FRes
  | [] => ⟨0, false⟩
  | v :: r =>
    let x := r.foldl (fun acc x => let y := redStep t op cx acc.code x; ⟨y.code, acc.ovf || y.ovf⟩) (⟨v, false⟩ : FRes)
    ⟨if t.isFloat then quietCode (fmtOf t) x.code else x.code, x.ovf⟩

/-- Element i of a byte list. -/
def elemOf (t : ETy) (l : List Byte) (i : Nat) : Nat := ofLe ((l.drop (i * t.width)).take t.width)

/-- The destination bytes of a rank from every rank's source bytes, and OVF over every member (17 R344). -/
def collResult (d : CollDesc) (n rank : Nat) (cx : NanCtx) (src : List (List Byte)) : List Byte × Bool :=
  let t := collType d.type
  let col (i : Nat) : FRes := redAll t d.op cx (src.map (fun l => elemOf t l i))
  match d.kind with
  | 0 =>
    let rs := (List.range d.count).map col
    (rs.flatMap (fun r => leBytes t.width r.code), rs.any (·.ovf))
  | 1 =>
    let rs := (List.range (n * d.count)).map col
    (((rs.drop (rank * d.count)).take d.count).flatMap (fun r => leBytes t.width r.code), rs.any (·.ovf))
  | 2 => (src.flatMap (fun l => l.take (d.count * t.width)), false)
  | _ => ((src.getD d.root []).take (d.count * t.width), false)

/-! COLL (17 R340). -/

/-- COLL: the sequence number of the communicator is taken at issue. -/
def execColl (sd sb comm : Nat) (s : State) : Host.Outcome State Fault Refusal :=
  syl .k (.coll sd sb comm) s (fun s =>
    let k := s.me
    let n := Tab.get 0 s.scb.seq comm
    let x : CollRec := { id := s.seq, desc := k.sc sd, bar := s.optBar s.cur sb, comm := comm, n := n.toNat,
                         stepNo := s.scb.step, step := k.isStep, since := s.time, started := false, block := [], sig := false,
                         done := false, peers := [], fault := none }
    { s.modMe (fun k => { k with colls := k.colls ++ [x] }) with scb := { s.scb with seq := Tab.set s.scb.seq comm (n + 1) } })

/-! The engine. -/

/-- The issuer of part of a collective: an offset of its source, 2^41 on of its destination, 2^42 its signal word, 2^43 its
descriptor. -/
def State.collIssuer (s : State) (c : Nat) (x : CollRec) (off : Nat) : Issuer := (s.core c).issuer c x.step .coll (.coll c x.id off)

def Core.setColl (k : Core) (x : CollRec) : Core := { k with colls := k.colls.map (fun y => if y.id = x.id then x else y) }

/-- A failure before the start (17 R342): nothing is read or written; the core takes it. -/
def State.collRefuse (s : State) (c : Nat) (x : CollRec) (code : Nat) (addr : Word) (ipa : Nat) (write : Bool) : State :=
  let f : FaultRec := { code := code, slot := 8, data := true, write := write, addr := addr, ipa := ipa, access := some x.id }
  (s.modCore c (fun k => k.setColl { x with fault := some f })).noteFault x.step code

/-- Destination bytes left undefined (17 R345, R346). -/
def State.collScramble (s : State) (c : Nat) (x : CollRec) (dst n : Nat) : State :=
  match translate s.deviceId (s.core c).rg (BitVec.ofNat 64 dst) .write false with
  | .error _ => s
  | .ok (_, ipa) => s.freeBytes (s.collIssuer c x (2 ^ 41)) ipa n

/-- The descriptor of a collective, as its engine reads it (17 R342). -/
def State.collDesc (s : State) (c : Nat) (x : CollRec) : Side4 :=
  if x.started then .ok s x.block else s.readBlock c (fun a => s.collIssuer c x (2 ^ 43 + a)) x.desc 64

/-- The destination of a collective that has started is undefined, and nothing of its source is kept. -/
def State.collUndo (s : State) (c : Nat) (x : CollRec) : State :=
  let s := { s with gathers := s.gathers.filter (fun g => !(g.core == c && g.id == x.id)) }
  if x.started then s.collScramble c x (collFields x.block).dst ((collFields x.block).dstLen (commCount (s.comm x.comm))) else s

/-- A failure after the start (17 R345): it retires as failed, FAULT, the communicator halts, the core takes it. -/
def State.collFail (s : State) (c : Nat) (x : CollRec) (code : Nat) (addr : Word) (ipa : Nat) (write : Bool) : State :=
  let f : FaultRec := { code := code, slot := 8, data := true, write := write, addr := addr, ipa := ipa, access := some x.id, after := true }
  let s := (s.collUndo c x).modCore c (fun k => { k with
    colls := k.colls.filter (fun y => y.id ≠ x.id),
    faults := if k.killed then k.faults else k.faults ++ [f] })
  { s with halted := if s.halted.contains x.comm then s.halted else x.comm :: s.halted }.noteFault x.step code

/-- The order of the table's rows for a failure at a page of a span (17 R342). -/
def collRank (code : Nat) : Nat :=
  if code = fcIpPath then 2 else if faultClass code = 4 && code ≠ fcPagePerm && code ≠ fcVersionWrite then 3 else 0

/-- The answers of the pages of a span. -/
def State.collPages (s : State) (iss : Issuer) (va ipa n : Nat) (kd : AKind) (sig : Bool) : List SpanPage :=
  (pageParts (n / 65536 + 2) ipa (ipa + n)).map (fun p =>
    let a := s.pageChk iss kd p.1
    let notSc := sig && (match s.walk p.1 with | some r => r.leaf.type != 1 | none => false)
    let rank := match a with
      | .fail code => if notSc && collRank code > 0 then 1 else collRank code
      | _ => if notSc then 1 else 9
    ⟨rank, if rank = 1 then .fail fcCollSig else a, BitVec.ofNat 64 (va + (p.1 - ipa)), p.1, kd == .write⟩)

/-- What the checks before the start give. -/
inductive CollStart where
  | fail (s : State) (code : Nat) (addr : Word) (ipa : Nat) (write : Bool)
  | wait (s : State)
  | go (s : State) (block : List Byte) (src dst sig : Nat)

/-- The checks of 17 R342. -/
def State.collCheck (s : State) (c : Nat) (x : CollRec) : CollStart :=
  let n := commCount (s.comm x.comm)
  match s.collDesc c x with
  | .fail s code a i _ => .fail s code a i false
  | .wait s _ => .wait s
  | .remote _ _ => .fail s fcRangePerm x.desc 0 false
  | .ok s l =>
    let iss := s.collIssuer c x 0
    let d := collFields l
    if !x.started && d.bad n then .fail s fcCollDesc x.desc 0 false
    else
      let rg := (s.core c).rg
      let spans : List (Nat × Nat × AKind) := [(d.src, d.srcLen n, .read), (d.dst, d.dstLen n, .write)] ++
        (if d.flags = 1 then [(d.sig, 8, .read)] else [])
      let chk (e : Nat × Nat × AKind) : Except (Nat × Nat) Nat :=
        match spanRange rg e.1 e.2.1 e.2.2 with
        | .error x => .error x
        | .ok _ => match translate s.deviceId rg (BitVec.ofNat 64 e.1) e.2.2 false with
          | .error code => .error (code, e.1)
          | .ok (_, ipa) => .ok ipa
      match spans.findSome? (fun e => match chk e with | .error x => some (x.1, x.2, e.2.2 == .write) | .ok _ => none) with
      | some (code, a, w) => .fail s code (BitVec.ofNat 64 a) 0 w
      | none =>
        let ipas := spans.map (fun e => match chk e with | .ok i => i | .error _ => 0)
        if d.flags = 1 && d.sig % 8 ≠ 0 then .fail s fcCollSig (BitVec.ofNat 64 d.sig) (ipas.getD 2 0) false
        else if x.started then .go s l (ipas.getD 0 0) (ipas.getD 1 0) (ipas.getD 2 0)
        else
          let pages := ((List.range spans.length).zip (spans.zip ipas)).flatMap (fun e =>
            s.collPages iss e.2.1.1 e.2.2 e.2.1.2.1 e.2.1.2.2 (e.1 == 2))
          let bad := pages.filter (fun e => e.rank < 9)
          let least := bad.foldl (fun m e => min m e.rank) 9
          match bad.find? (fun e => e.rank = least) with
          | some ⟨_, .fail code, a, i, w⟩ => .fail s code a i w
          | _ =>
            let held := pages.filter (fun e => match e.chk with | .held _ => true | _ => false)
            if held.isEmpty then .go s l (ipas.getD 0 0) (ipas.getD 1 0) (ipas.getD 2 0)
            else .wait (held.foldl (fun s e => s.wantPage iss .read e.ipa) s)

/-- What every member must agree on (17 R343). -/
def collTuple (comm : Nat) (d : CollDesc) : List Nat := [comm, d.kind, d.type, d.op, d.count, d.root, d.layer]

/-- Whether a record of a collective's source is a collective's. -/
def Gather.of (g : Gather) (c id : Nat) : Bool := g.core == c && g.id == id

/-- The record of a collective's source leaves, or is replaced. -/
def State.dropGather (s : State) (c id : Nat) : State := { s with gathers := s.gathers.filter (fun g => !g.of c id) }
def State.setGather (s : State) (g : Gather) : State :=
  { s with gathers := s.gathers.map (fun h => if h.of g.core g.id then g else h) }

/-- The other members that have come. -/
def State.collHere (s : State) (x : CollRec) : List Peer :=
  let w := s.comm x.comm
  let others := (List.range (commCount w)).filter (· ≠ commRank w s.deviceId)
  x.peers.filter (fun p => others.contains p.rank)

/-- Whether every other member has come with its tuple (17 R343). -/
def State.collMatched (s : State) (x : CollRec) : Bool :=
  let w := s.comm x.comm
  ((List.range (commCount w)).filter (· ≠ commRank w s.deviceId)).all (fun r => (s.collHere x).any (fun p => p.rank = r))

/-- The spans of a collective: its source and its destination; none when its descriptor cannot be read yet. -/
def State.collSpans (s : State) (c : Nat) (x : CollRec) : Option ((Nat × Nat) × (Nat × Nat)) :=
  match s.collDesc c x with
  | .ok _ l =>
    let d := collFields l
    let n := commCount (s.comm x.comm)
    let ipa (a : Nat) (kd : AKind) : Nat :=
      match translate s.deviceId (s.core c).rg (BitVec.ofNat 64 a) kd false with | .ok (_, i) => i | .error _ => 2 ^ 60 + a
    some ((ipa d.src .read, d.srcLen n), (ipa d.dst .write, d.dstLen n))
  | _ => none

/-- Whether two spans have a common byte, under whichever alias (14 R275, R287). -/
def State.spansMeet (s : State) (a b : Nat × Nat) : Bool :=
  let parts (x : Nat × Nat) : List (Nat × Nat) := pageParts (x.2 / 65536 + 2) x.1 (x.1 + x.2)
  (parts a).any (fun p => (parts b).any (fun q => s.meets 4 p.1 p.2 q.1 q.2))

/-- Whether a page of a span has a type. -/
def State.spanOn (s : State) (a : Nat × Nat) (f : Nat → Bool) : Bool :=
  (pageParts (a.2 / 65536 + 2) a.1 (a.1 + a.2)).any (fun p => match s.walk p.1 with | some r => f r.leaf.type | none => false)

/-- The collectives of a core that issued before one and have not performed. -/
def State.collsBefore (s : State) (c : Nat) (x : CollRec) : List CollRec :=
  (s.core c).colls.filter (fun y => y.id < x.id && !y.done && y.fault.isNone)

/-- Whether a collective has still to read its signal. -/
def State.collSigOpen (s : State) (c : Nat) (y : CollRec) : Bool :=
  !y.sig && (match s.collDesc c y with | .ok _ l => (collFields l).flags ≠ 0 | _ => true)

/-- Whether the SC read of a collective's signal must wait for what an earlier collective of the core still has to do: another
signal's read, or any access but of a WOS page (14 R277, R280). -/
def State.sigBlocked (s : State) (c : Nat) (x : CollRec) : Bool :=
  (s.collsBefore c x).any (fun y => s.collSigOpen c y || (match s.collSpans c y with
    | some (a, b) => s.spanOn a (· != 2) || s.spanOn b (· != 2)
    | none => true))

/-- Whether an earlier collective of the core must perform first: both touch a byte that one of them writes, one touches an
SC page, or the earlier one has still to read its signal (14 R275, R277, R280). -/
def State.collBlocked (s : State) (c : Nat) (x : CollRec) : Bool :=
  (s.collsBefore c x).any (fun y =>
    match s.collSpans c y, s.collSpans c x with
    | some (a, b), some (a', b') =>
      let sc (p q : Nat × Nat) : Bool := s.spanOn p (· == 1) || s.spanOn q (· == 1)
      let seen (p q : Nat × Nat) : Bool := s.spanOn p (· != 2) || s.spanOn q (· != 2)
      s.spansMeet b a' || s.spansMeet b b' || s.spansMeet a b' || (sc a b && seen a' b') || (sc a' b' && seen a b) ||
        (s.collSigOpen c y && seen a' b')
    | _, _ => true)

/-- The elements of a destination that depend on byte b of the own source (17 R344). -/
def CollDesc.dependent (d : CollDesc) (rank b : Nat) : Option Nat :=
  let i := b / (collType d.type).width
  match d.kind with
  | 0 => some i
  | 1 => if rank * d.count ≤ i && i < (rank + 1) * d.count then some (i - rank * d.count) else none
  | 2 => some (rank * d.count + i)
  | _ => if d.root = rank then some i else none

/-- The parts of a span that this turn reads or writes: all that are left, or the next unit (14 R273; log 44). -/
def State.spanLeft (s : State) (one write : Bool) (ipa done n : Nat) : List (Nat × Nat) := s.unitsLeft one (ipa + done) (n - done) write

/-- The result of a collective whose source bytes are all here (17 R344). -/
def State.collValue (s : State) (x : CollRec) (d : CollDesc) (own : List Byte) : List Byte × Bool :=
  let w := s.comm x.comm
  let n := commCount w
  let rank := commRank w s.deviceId
  let here := s.collHere x
  let data := (List.range n).map (fun r =>
    if r = rank then own else match here.find? (fun p => p.rank = r) with | some p => padTo (d.srcLen n) p.data | none => [])
  let step0 := if rank = 0 then x.stepNo else match here.find? (fun p => p.rank = 0) with | some p => p.step | none => 0
  collResult d n rank ⟨d.layer, step0.toNat⟩ data

/-- A matched collective reads its source (17 R344); with the last byte its result is there. -/
def State.collGather (s : State) (c : Nat) (x : CollRec) (d : CollDesc) (g : Gather) (one : Bool) : State :=
  let have' := g.data.length
  let va := BitVec.ofNat 64 (d.src + have')
  let keep (s : State) (l : List Byte) : State :=
    let g := match s.gathers.find? (fun h => h.of c x.id) with | some h => { h with data := l } | none => { g with data := l }
    if l.length < g.len then s.setGather g
    else
      let r := s.collValue x d l
      let s := s.setGather { g with out := some r }
      if r.2 && x.step then s.pennonOr 4 else s
  match State.readParts (fun a => s.collIssuer c x (a - g.ipa)) va (g.ipa + have') (s.spanLeft one false g.ipa have' g.len) s g.data with
  | .ok s l => keep s l
  | .wait s l => keep s l
  | .fail s code a i _ => s.collFail c x code a i false
  | .remote _ _ => s

/-- Elements of a destination that depend on a source byte which another path has written are undefined (17 R344). -/
def State.collBad (s : State) (x : CollRec) (d : CollDesc) (g : Gather) : List Nat :=
  (g.hurt.filterMap (fun b => d.dependent (commRank (s.comm x.comm) s.deviceId) b)).eraseDups

/-- The collective has performed whole. -/
def State.collEnd (s : State) (c : Nat) (x : CollRec) (d : CollDesc) (dst : Nat) (g : Gather) : State :=
  let w := (collType d.type).width
  let s := (s.collBad x d g).foldl (fun s i => s.freeBytes (s.collIssuer c x (2 ^ 41)) (dst + i * w) w) (s.dropGather c x.id)
  s.modCore c (fun k => k.setColl { x with done := true })

/-- A collective's destination takes its bytes, and the arrivals follow (17 R344, R345). -/
def State.collRun (s : State) (c : Nat) (x : CollRec) (d : CollDesc) (dst : Nat) (g : Gather) (out : List Byte) (one : Bool) : State :=
  let bad := s.collBad x d g
  let w := (collType d.type).width
  let l := if bad.isEmpty then out
    else ((List.range out.length).zip out).map (fun b => if bad.contains (b.1 / w) then Config.freeByte (s.fresh + b.1) else b.2)
  let s := if bad.isEmpty then s else { s with fresh := s.fresh + out.length }
  let at' := dst + g.wrote
  let keep (s : State) (n : Nat) : State :=
    let g := { g with wrote := g.wrote + n }
    let s := s.setGather g
    let s := match x.bar with | some b => if n = 0 then s else s.barApply b (.arrive n) | none => s
    if g.wrote < out.length then s else s.collEnd c x d dst g
  match State.writeParts (fun a => s.collIssuer c x (2 ^ 41 + (a - dst))) true (BitVec.ofNat 64 (d.dst + g.wrote)) at' (l.drop g.wrote)
      (s.spanLeft one true dst g.wrote out.length) s [] with
  | .ok s b => keep s b.length
  | .wait s b => keep s b.length
  | .fail s code a i _ => s.collFail c x code a i true
  | .remote _ _ => s

/-- A matched collective goes on: it reads its source, and then it writes its destination. -/
def State.collWork (s : State) (c : Nat) (x : CollRec) (d : CollDesc) (dst : Nat) (one : Bool) : State :=
  match s.gathers.find? (fun g => g.of c x.id) with
  | none => s
  | some g =>
    if s.collBlocked c x then s
    else match g.out with
      | none => s.collGather c x d g one
      | some (out, _) => s.collRun c x d dst g out one

/-- The signal wait of 17 R343: whether the word has come, with the state after the read. -/
def State.collSignal (s : State) (c : Nat) (x : CollRec) (d : CollDesc) (sig : Nat) : State × Option CollRec :=
  if x.sig || d.flags = 0 then (s, some x)
  else if s.sigBlocked c x then (s, none)
  else
    let iss := s.collIssuer c x (2 ^ 42)
    match s.gRead iss sig 8 with
    | .wait w => (s.await iss .read sig 8 w, none)
    | .fail code => ((s.leave iss.key).collFail c x code (BitVec.ofNat 64 d.sig) sig false, none)
    | .done t l =>
      if ofLe l < d.sigval then (t, none)
      else
        let x := { x with sig := true, since := s.time }
        (t.modCore c (fun k => k.setColl x), some x)

/-- The waits of 17 R343, then the collective itself: one that is matched at once goes on with a later move. Members that have
come are kept. -/
def State.collGo (s : State) (c : Nat) (x : CollRec) (d : CollDesc) (dst sig : Nat) (peers : List Peer) : State :=
  let was := x.started && (x.sig || d.flags = 0) && s.collMatched x
  let x := { x with started := true, peers := x.peers ++ peers.filter (fun p => !x.peers.any (fun y => y.rank = p.rank)) }
  let s := s.modCore c (fun k => k.setColl x)
  match s.collSignal c x d sig with
  | (s, none) => s
  | (s, some x) =>
    if (s.collHere x).any (fun p => p.seqNo ≠ x.n || p.tuple ≠ collTuple x.comm d) then s.collFail c x fcCollMatch x.desc 0 false
    else if was then s.collWork c x d dst false
    else s

/-- COLL_START (17 R342, R343): held by fences and by earlier collectives of the communicator; refused when it is halted. -/
def execCollStart (core id : Nat) (peers : List Peer) (s : State) : Host.Outcome State Fault Refusal :=
  .next (match (s.core core).colls.find? (fun x => x.id = id) with
    | none => s
    | some x =>
      let earlier := s.cores.any (fun e => e.2.colls.any (fun y => y.comm = x.comm && y.id < x.id && !y.done))
      if x.done || x.fault.isSome || (s.core core).killed || earlier || s.fenceHolds core 5 x.id 0 then s
      else if s.halted.contains x.comm then s.collRefuse core x fcCollHalt x.desc 0 false
      else match s.collCheck core x with
        | .wait s => s
        | .fail s code a i w => if x.started then s.collFail core x code a i w else s.collRefuse core x code a i w
        | .go s l src dst sig =>
          let d := collFields l
          let n := commCount (s.comm x.comm)
          if x.started then s.collGo core x d dst sig peers
          else
            let s := { s with gathers := s.gathers ++ [(⟨core, x.id, src, d.srcLen n, [], [], none, 0⟩ : Gather)] }
            s.collGo core { x with block := l, since := s.time } d dst sig peers)

/-- One unit of a matched collective's source or destination (14 R273). -/
def State.collTurn (s : State) (c id : Nat) : State :=
  match (s.core c).colls.find? (fun x => x.id = id) with
  | none => s
  | some x =>
    let d := collFields x.block
    if !x.started || x.done || x.fault.isSome || (s.core c).killed || !(x.sig || d.flags = 0) || !s.collMatched x then s
    else match translate s.deviceId (s.core c).rg (BitVec.ofNat 64 d.dst) .write false with
      | .ok (_, dst) => s.collWork c x d dst true
      | .error _ => s

/-- COLL_RETIRE (17 R345). -/
def execCollRetire (core id : Nat) (s : State) : Host.Outcome State Fault Refusal :=
  .next (s.modCore core (fun k => { k with colls := k.colls.filter (fun x => !(x.id = id && x.done)) }))

/-- COLL_TIMEOUT (17 R343): a signal or match wait of 100 ms. -/
def execCollTimeout (core id : Nat) (s : State) : Host.Outcome State Fault Refusal :=
  .next (match (s.core core).colls.find? (fun x => x.id = id) with
    | some x =>
      let waits := x.started && !x.done && !((x.sig || (collFields x.block).flags = 0) && s.collMatched x)
      if waits && !(s.core core).killed && s.time ≥ x.since + ms100 then s.collFail core x fcCollTimeout x.desc 0 false else s
    | none => s)

end Sys2Proof.Machine
end

