-- ==== Sys2Proof/Machine/Control.lean ====
section
/-! DEFINITION. The K slot: control and predicates (06 R127 to R130), the clock (15 R304), barriers and fences (15 R298 to
R303), step instructions (20 R379 to R384), the shadow context's instructions (18 R355 to R360); the empty bundle and
the decode faults (05 R84 to R88). -/

namespace Sys2Proof.Machine

/-! Empty bundle and decode faults. -/

/-- NOP (02 R35, 05 R84): an empty bundle. -/
def execNop (sp le : Bool) (guard : Nat) (s : State) : Host.Outcome State Fault Refusal :=
  syl .k (.nop sp le guard) s (fun s => s)

/-- The record of BAD_TARGET for a target without the marker (22 R402): the target's address, and its IPA when the range
registers translated it. -/
def State.badTarget (s : State) (c : Nat) : FaultRec :=
  let k := s.core c
  match k.shadow with
  | some h => { code := fcBadTarget, addr := h.pc }
  | none =>
    { code := fcBadTarget, addr := k.pc,
      ipa := match translate s.deviceId k.rg k.pc .fetch false with | .ok (_, ipa) => ipa | .error _ => 0 }

/-- ILL_BUNDLE (05 R84, R86, R88): BAD_TARGET for a target without the marker; a parcel that is a header raises nothing. -/
def execIllBundle (target : Bool) (parcel : Parcel) (s : State) : Host.Outcome State Fault Refusal :=
  if s.cur > 255 then .fault (.noSuchCore s.cur)
  else match decodeHeader parcel.toNat with
    | .ok _ => .next s
    | .error _ =>
      .next (s.takeFault s.cur (if target && !hasMarker parcel.toNat then s.badTarget s.cur else { code := fcIllBundle }))

/-- ILL_INSTR (05 R88, R98): a word that its slot's map rejects; a word that decodes raises nothing. -/
def execIllInstr (slot : Slot) (word : Word) (s : State) : Host.Outcome State Fault Refusal :=
  if s.cur > 255 then .fault (.noSuchCore s.cur)
  else match decodeSyl slot word.toNat with
    | .ok _ => .next s
    | .error _ => .next (s.takeFault s.cur (slotFault fcIllInstr (slotNo slot) 0))

/-! Control and predicates (06). -/

/-- LAYER (06 R129): the identifier holds from the next cycle on. -/
def execLayer (id : Nat) (s : State) : Host.Outcome State Fault Refusal :=
  syl .k (.layer id) s (fun s => s.modMe (fun k => { k with layer := BitVec.ofNat 10 id }))

/-- The value of a SYSRD selector (06 R128). -/
def State.sysValue (s : State) (sel : Nat) : Word :=
  let k := s.me
  let n (x : Nat) : Word := BitVec.ofNat 64 x
  let o (f : Occ → Nat) : Word := match k.occ with | some o => n (f o) | none => 0
  match sel with
  | 0 => n s.cur
  | 1 => o (·.member)
  | 2 => o (·.gang)
  | 3 => n s.deviceId
  | 4 => o (·.node)
  | 5 => o (·.launch)
  | 6 => n k.vrot
  | 7 => n k.prot
  | 8 => k.layer.setWidth 64
  | 0x10 => k.ccCount
  | 0x11 => k.fzTotal
  | x => Tab.get 0 k.fzBy (x - 0x12)

/-- SYSRD (06 R128). -/
def execSysrd (sd sel : Nat) (s : State) : Host.Outcome State Fault Refusal :=
  syl .k (.sysrd sd sel) s (fun s => s.postS 1 sd (s.sysValue sel))

/-- PAND (06 R127). -/
def execPand (pd pa pb : Nat) (s : State) : Host.Outcome State Fault Refusal :=
  syl .k (.pand pd pa pb) s (fun s => s.postPred 1 pd (s.me.pr pa &&& s.me.pr pb))

/-- POR (06 R127). -/
def execPor (pd pa pb : Nat) (s : State) : Host.Outcome State Fault Refusal :=
  syl .k (.por pd pa pb) s (fun s => s.postPred 1 pd (s.me.pr pa ||| s.me.pr pb))

/-- PXOR (06 R127). -/
def execPxor (pd pa pb : Nat) (s : State) : Host.Outcome State Fault Refusal :=
  syl .k (.pxor pd pa pb) s (fun s => s.postPred 1 pd (s.me.pr pa ^^^ s.me.pr pb))

/-- PNOT (06 R127). -/
def execPnot (pd pa : Nat) (s : State) : Host.Outcome State Fault Refusal :=
  syl .k (.pnot pd pa) s (fun s => s.postPred 1 pd (~~~ (s.me.pr pa)))

/-- PSET (06 R127): the first n elements of 2^w bytes. -/
def execPset (pd sa w : Nat) (s : State) : Host.Outcome State Fault Refusal :=
  syl .k (.pset pd sa w) s (fun s =>
    let n := min (s.me.sc sa).toNat (512 / 2 ^ w)
    s.postPred 1 pd (BitVec.ofNat 512 (2 ^ (n * 2 ^ w) - 1)))

/-- CLOCK (15 R304). -/
def execClock (sd : Nat) (s : State) : Host.Outcome State Fault Refusal :=
  syl .k (.clock sd) s (fun s => s.postS 1 sd (BitVec.ofNat 64 (s.time - s.bootAt)))

/-- END (06 R130): no bundle after it issues, on any member, and an active loop ends. -/
def execEndTask (s : State) : Host.Outcome State Fault Refusal :=
  syl .k .endTask s (fun s => s.modCores (fun k => { k with ended := true, loop := LoopSt.none }) (s.gang s.cur))

/-- TRAP (18 R360): the exception is taken at the next boundary; in the shadow context it is SHADOW_DOUBLE (18 R354). -/
def execTrap (n : Nat) (s : State) : Host.Outcome State Fault Refusal :=
  syl .k (.trap n) s (fun s =>
    if s.me.shadow.isSome then s.takeFault s.cur { code := fcTrap, slot := 8, trapno := n }
    else s.modMe (fun k => { k with trap := some n }))

/-! Barriers and fences (15). -/

/-- A barrier update that a syllable sends (15 R300). -/
def State.sendBar (s : State) (sb : Nat) (u : BarUpd) : State := s.barSend s.cur s.seq (s.barLoc s.cur (s.me.sc sb)) u

/-- BINIT (15 R300). -/
def execBinit (sb : Nat) (n : BCount) (s : State) : Host.Outcome State Fault Refusal :=
  syl .k (.binit sb n) s (fun s => s.sendBar sb (.init (countOf s.me n)))

/-- BEXPECT (15 R300). -/
def execBexpect (sb : Nat) (n : BCount) (s : State) : Host.Outcome State Fault Refusal :=
  syl .k (.bexpect sb n) s (fun s => s.sendBar sb (.expect (countOf s.me n)))

/-- BARRIVE (15 R300). -/
def execBarrive (sb : Nat) (n : BCount) (s : State) : Host.Outcome State Fault Refusal :=
  syl .k (.barrive sb n) s (fun s => s.sendBar sb (.arrive (countOf s.me n)))

/-- A landing-buffer entry of BWAIT or BTOKEN (15 R301): it lands at issue + 1. -/
def State.barEntry (s : State) (sd : Nat) (kind : AccKind) : State :=
  s.modMe (fun k => { k with land := k.land ++ [
    { id := s.seq, kind := kind, slot := 8, level := 0, step := k.isStep, elems := [], dest := .scalar sd,
      landAt := some (k.now + 1), since := s.time, walk := false, fault := none }] })

/-- BWAIT (15 R301). -/
def execBwait (sd sb st : Nat) (s : State) : Host.Outcome State Fault Refusal :=
  syl .k (.bwait sd sb st) s (fun s =>
    s.barEntry sd (.bwait (s.barLoc s.cur (s.me.sc sb)) ((s.me.sc st).setWidth 32)))

/-- BTOKEN (15 R301). -/
def execBtoken (sd sb : Nat) (s : State) : Host.Outcome State Fault Refusal :=
  syl .k (.btoken sd sb) s (fun s => s.barEntry sd (.btoken (s.barLoc s.cur (s.me.sc sb))))

/-- A fence of the issuing core; fences whose first path is quiet leave (15 R302, R303). -/
def State.addFence (s : State) (p1 p2 before after : Nat) : State :=
  let keep := s.me.fences.filter (fun f => s.pathBusy s.cur f.p1 f.ord f.before (f.before = 7))
  s.modMe (fun k => { k with fences := keep ++ [⟨s.seq, p1, p2, before, after⟩] })

/-- FENCE (15 R302): kind masks, bit 0 r and bit 1 w. -/
def execFence (before after : Nat) (s : State) : Host.Outcome State Fault Refusal :=
  syl .k (.fence before after) s (fun s => s.addFence 0 0 before after)

/-- FENCEX (15 R303): every access of the paths. -/
def execFencex (p1 p2 : Nat) (s : State) : Host.Outcome State Fault Refusal :=
  syl .k (.fencex p1 p2) s (fun s => s.addFence p1 p2 7 7)

/-- BARRIER_UPDATE (15 R295, R296): a waiting update of a core applies, if its order allows. -/
def execBarrierUpdate (core id : Nat) (s : State) : Host.Outcome State Fault Refusal := .next (s.barStep core id)

/-- BAR_TIMEOUT (15 R301, 10 R194): a BWAIT that has frozen its core for 100 ms fails at its landing cycle; a matrix
instruction that has waited so long fails before issue. -/
def execBarTimeout (core : Nat) (s : State) : Host.Outcome State Fault Refusal :=
  let k := s.core core
  if k.shadow.isSome || k.killed then .next s
  else
    let late := k.land.find? (fun a => a.fault.isNone && (match a.kind, a.landAt with
      | .bwait b tok, some t => t ≤ k.now && !(s.barPassed b tok.toNat) && s.frozenFor core 0 ms100
      | _, _ => false))
    match late with
    | some a =>
      let f : FaultRec := { code := fcBarTimeout, slot := 8, data := true, access := some a.id }
      .next ((s.modCore core (fun k => k.setAccess { a with fault := some f })).noteFault k.isStep fcBarTimeout)
    | none => .next (s.timeoutBefore core 2 ms100 fcBarTimeout)

/-! Step instructions (20). -/

/-- The value of a STEPRD selector (20 R380). -/
def State.stepValue (s : State) (sel : Nat) : Word :=
  if sel = 0 then s.scb.seed
  else if sel ≤ 8 then Tab.get 0 s.scb.cursor (sel - 1)
  else if sel ≤ 24 then (Tab.get 0 s.scb.seq (sel - 9)).setWidth 64
  else match sel with
    | 25 => s.scb.step
    | 26 => BitVec.ofNat 64 s.scb.attempt
    | 27 => s.scb.threshold.setWidth 64
    | 28 => BitVec.ofNat 64 s.stepState
    | _ => s.ownWord.setWidth 64

/-- STEPRD (20 R380). -/
def execSteprd (sd sel : Nat) (s : State) : Host.Outcome State Fault Refusal :=
  syl .k (.steprd sd sel) s (fun s => s.postS 1 sd (s.stepValue sel))

/-- A cursor or a sequence counter of the step context block replaced (20 R381). -/
def Scb.setCursor (b : Scb) (k : Nat) (v : Word) : Scb := { b with cursor := Tab.set b.cursor k v }
def Scb.setSeq (b : Scb) (c : Nat) (v : BitVec 32) : Scb := { b with seq := Tab.set b.seq c v }

/-- STEPWR (20 R381). -/
def execStepwr (sel sa : Nat) (s : State) : Host.Outcome State Fault Refusal :=
  syl .k (.stepwr sel sa) s (fun s =>
    let v := s.me.sc sa
    { s with scb := if sel ≤ 8 then s.scb.setCursor (sel - 1) v else s.scb.setSeq (sel - 9) (v.setWidth 32) })

/-- CURADV (20 R381). -/
def execCuradv (sd k sa : Nat) (s : State) : Host.Outcome State Fault Refusal :=
  syl .k (.curadv sd k sa) s (fun s =>
    let old := Tab.get 0 s.scb.cursor k
    let v := old + s.me.sc sa
    { s.postS 1 sd old with scb := s.scb.setCursor k v })

/-- SEQNEXT (20 R381). -/
def execSeqnext (sd c : Nat) (s : State) : Host.Outcome State Fault Refusal :=
  syl .k (.seqnext sd c) s (fun s =>
    let old := Tab.get 0 s.scb.seq c
    { s.postS 1 sd (old.setWidth 64) with scb := s.scb.setSeq c (old + 1) })

/-- LOSSCHK (20 R382). -/
def execLosschk (pd sa : Nat) (s : State) : Host.Outcome State Fault Refusal :=
  syl .k (.losschk pd sa) s (fun s =>
    let hit := !(fCond fmt32 .lt ((s.me.sc sa).toNat % 2 ^ 32) s.scb.threshold.toNat)
    let s := s.postPred 1 pd (predAll hit)
    if hit then s.post 1 (.pennon 2) else s)

/-- PENNON (20 R383). -/
def execPennon (n : Nat) (veto : Bool) (s : State) : Host.Outcome State Fault Refusal :=
  syl .k (.pennon n veto) s (fun s => s.post 1 (.pennon (BitVec.ofNat 16 (n % 256 * 256 + (if veto then 1 else 0)))))

/-- STEPEND (20 R384): LAUNCHED becomes PREPARING at issue + 1. -/
def execStepend (s : State) : Host.Outcome State Fault Refusal :=
  syl .k .stepend s (fun s =>
    let s := s.post 1 .stepend
    match s.me.occ with
    | some o => (match Tab.find s.launches o.launch with
      | some l => { s with launches := Tab.set s.launches o.launch { l with stepend := true } }
      | none => s)
    | none => s)

/-! The shadow context's instructions (18). -/

/-- The state that HRD reads (18 R355). -/
def State.hrdValue (s : State) (sel : Nat) : Word :=
  let k := s.me
  let o (f : Occ → Nat) : Word := match k.occ with | some o => BitVec.ofNat 64 (f o) | none => 0
  if sel = 0 then 0
  else if sel < 64 then Tab.get 0 k.s sel
  else match sel with
    | 0x40 => k.ccCount
    | 0x41 => k.fzTotal
    | 0x42 => BitVec.ofNat 64 s.stepState
    | 0x43 => o (·.launch)
    | _ => o (·.node)

/-- HRD (18 R355). -/
def execHrd (hd sel : Nat) (s : State) : Host.Outcome State Fault Refusal :=
  syl .k (.hrd hd sel) s (fun s => s.postS 1 hd (s.hrdValue sel))

/-- HWR (18 R355): the task scalar takes its value at once. -/
def execHwr (sel ha : Nat) (s : State) : Host.Outcome State Fault Refusal :=
  syl .k (.hwr sel ha) s (fun s => let v := s.me.sc ha; s.modMe (fun k => k.setS sel v))

/-- Whether an IPA lies in a plan region of the core's task (18 R357). -/
def Core.inPlan (k : Core) (ipa : Nat) : Bool :=
  k.rg.any (fun e =>
    let w := e.2.toNat
    let lo := fld w 179 144
    fld w 192 192 == 1 && fld w 197 196 == 0 && lo ≤ ipa / 65536 && ipa / 65536 < lo + (fld w 120 80 - fld w 56 16))

/-- The leaf entry of an IPA, present or not (18 R357). -/
def State.leafWord (s : State) (ipa : Nat) : Word :=
  match s.walk ipa with
  | some r => r.leaf.e.setWidth 64
  | none => (match Tab.find s.leaves (ipa / 65536) with
    | some l => l.e.setWidth 64
    | none => 0)

/-- HPAGE (18 R357): op 0 asks for the page and waits for its map; op 1 reads its leaf entry. -/
def execHpage (hd ha op : Nat) (s : State) : Host.Outcome State Fault Refusal :=
  syl .k (.hpage hd ha op) s (fun s =>
    let k := s.me
    let ipa := (k.sc ha).toNat % 2 ^ 52
    if op = 1 then s.postS 1 hd (s.leafWord ipa)
    else if (s.walk ipa).isSome then s.postS 1 hd 0
    else if !k.inPlan ipa then s.postS 1 hd 2
    else
      let f : FaultRec := match k.shadow with | some h => { h.taken with ipa := ipa } | none => { code := fcPageAbsent, ipa := ipa }
      let s := s.faultEvent s.cur f 0 3 k.pc 0
      s.modMe (fun k => { k with shadow := k.shadow.map (fun h => { h with wait := some ⟨hd, s.seq, ipa, s.time⟩ }) }))

/-- HPAGE_TIMEOUT (18 R357): 100 ms have passed without a map. -/
def execHpageTimeout (core : Nat) (s : State) : Host.Outcome State Fault Refusal :=
  .next (match (s.core core).shadow with
    | some h => (match h.wait with
      | some w =>
        if s.time ≥ w.since + ms100 && (s.walk w.ipa).isNone then
          s.modCore core (fun k => { k with shadow := some (h.pageDone w 1) })
        else s
      | none => s)
    | none => s)

/-- HFREEZE (18 R358): the task is killed, and the event carries h[a]. -/
def execHfreeze (ha : Nat) (s : State) : Host.Outcome State Fault Refusal :=
  syl .k (.hfreeze ha) s (fun s =>
    let word := s.me.sc ha
    let f : FaultRec := match s.me.shadow with | some h => h.taken | none => { code := 0 }
    s.killByFault s.cur f 0 word)

/-- ERET (18 R359); a TRAP's event says that the task resumes (18 R356, R361). -/
def execEret (s : State) : Host.Outcome State Fault Refusal :=
  syl .k .eret s (fun s =>
    match s.me.shadow with
    | some h =>
      let s := if h.taken.code = fcTrap then s.faultEvent s.cur h.taken 0 0 s.me.pc 0 else s
      s.leaveShadow s.cur
    | none => s)

end Sys2Proof.Machine
end

