-- ==== Sys2Proof/Machine/LoadStore.lean ====
section
/-! DEFINITION. The LD and ST slots (11): loads, stores, atomics, link queues, maintenance, and what memory answers to them
(11 R224, 14 R282, 18 R349, R362). -/

namespace Sys2Proof.Machine

/-! Issue. -/

/-- The place of an element at level 0 or 1 (11 R208, R223). -/
def LsReq.place (r : LsReq) (e : Nat × Word × Nat) : Nat := if r.lanes then e.1 * 4096 + e.2.1.toNat else offsetOf e.2.1

/-- Words of a level-0 access counted for its slot; words that no window can reach any more leave (11 R213). -/
def Core.countWords (k : Core) (slot : Nat) (ws : List Nat) : Core :=
  { k with lsWords := k.lsWords.filter (fun e => e.2.2 + 16 > k.now) ++
      (roundsOf ws).map (fun e => (slot, e.1, k.now + 16 * e.2)) }

/-- The latency of an access at level 0 or 1 (11 R212, R214). -/
def lsLatency (lv : Nat) (r : LsReq) : Nat := if lv = 0 then latency0 (reqWords r) else 6

/-- A load's bytes are kept until it lands: an atomic in flight may still change them (11 R217). -/
def State.keepPeek (s : State) (lat lv : Nat) (dest : Dest) (got : List (Nat × Nat × List Byte)) : State :=
  s.modMe (fun k => { k with peeks := k.peeks ++ [⟨k.now + lat, s.seq, lv, dest, got⟩] })

/-- The location of an element at levels 2 to 4: an offset, or an IPA. -/
def State.elemLoc (s : State) (lv : Nat) (va : Word) (kd : AKind) : Nat :=
  if lv < 4 then offsetOf va
  else match translate s.deviceId s.me.rg va kd false with
    | .ok e => e.2
    | .error _ => 0

/-- A landing-buffer entry of the core that executes (11 R221, R222, R225, R227). -/
def State.enter (s : State) (kind : AccKind) (slot lv : Nat) (elems : List Elem) (dest : Dest) (dist : Option Nat) : State :=
  let k := s.me
  let walk := lv = 4 && elems.any (fun e => !(s.cachedLeaf e.loc))
  let a : Access := { id := s.seq, kind := kind, slot := slot, level := lv, step := k.isStep, elems := elems, dest := dest,
                      landAt := dist.map (fun d => k.now + d), since := s.time, walk := walk, fault := none }
  s.modMe (fun k => { k with land := k.land ++ [a] })

/-- A load (11 R221, R223). -/
def State.issueLoad (s : State) (r : LsReq) (d : Nat) (dest : Dest) : State :=
  match reqLevel r with
  | none => s
  | some lv =>
    if lv ≤ 1 then
      let m := s.me.view lv s.seq
      let got := r.els.map (fun e => (e.1, r.place e, m.reads (r.place e) e.2.2))
      let t := (s.post (lsLatency lv r) (landEff dest (got.map (fun e => (e.1, e.2.2))))).keepPeek (lsLatency lv r) lv dest got
      if lv = 0 then t.modMe (fun k => k.countWords r.slot (reqWords r)) else t
    else
      let elems := r.els.map (fun e => (⟨e.1, e.2.1, s.elemLoc lv e.2.1 .read, e.2.2, [], [], false⟩ : Elem))
      s.enter .load r.slot lv elems dest (some (if d = 0 then defaultDist lv else d))

/-- A store; `data` gives an element's bytes (11 R222, R223). -/
def State.issueStore (s : State) (r : LsReq) (data : Nat → List Byte) : State :=
  match reqLevel r with
  | none => s
  | some lv =>
    if lv ≤ 1 then
      let cells := r.els.flatMap (fun e => cellsAt (r.place e) (data e.1))
      let t := s.post (lsLatency lv r) (.bytes lv cells)
      if lv = 0 then t.modMe (fun k => k.countWords r.slot (reqWords r)) else t
    else
      let elems := r.els.map (fun e => (⟨e.1, e.2.1, s.elemLoc lv e.2.1 .write, e.2.2, data e.1, [], false⟩ : Elem))
      s.enter .store r.slot lv elems .none none

/-- An atomic (11 R225). -/
def State.issueAtomic (s : State) (o : AtOp) (op : AtomOp) (cas nr : Bool) : State :=
  let k := s.me
  let r := atomReq k o cas
  let v := k.sc o.reg
  let cmp := k.sc o.sidx
  let nan : Word := BitVec.ofNat 64 (newNan fmt64 (s.nanCtx s.cur))
  match reqLevel r with
  | none => s
  | some lv =>
    if lv = 0 then
      let off := (r.els.headD (0, 0, 0)).2.1
      let t := s.post (latency0 (reqWords r)) (.atom (if nr then none else some o.reg) (offsetOf off) op v cmp nan)
      t.modMe (fun k => k.countWords r.slot (reqWords r))
    else
      let elems := r.els.map (fun e => (⟨e.1, e.2.1, s.elemLoc lv e.2.1 .atomic, e.2.2, [], [], false⟩ : Elem))
      s.enter (.atomic op o.scope v cmp nan nr) r.slot lv elems (if nr then .none else .scalar o.reg)
        (if nr then none else some (if o.dist = 0 then defaultDist lv else o.dist))

/-- FLUSH, DISCARD and REARM (11 R227). -/
def State.issueMaint (s : State) (o : RgOp) (op : MaintOp) : State :=
  let (lo, n) := maintRange s.me o (if op == .rearm then 32 else 128)
  let kd : AKind := match op with | .flush => .flush | .discard => .discard | .rearm => .rearm
  let parts := pageParts (n / 65536 + 2) lo (lo + n)
  let elems := (List.range parts.length).zip parts |>.map (fun e =>
    let va : Word := BitVec.ofNat 64 e.2.1
    (⟨e.1, va, s.elemLoc 4 va kd, e.2.2, [], [], false⟩ : Elem))
  s.enter (.maint op n) 5 4 elems .none none

/-- One line of a PREF (11 R227): a failure of translation or type drops it; of a WOS line only written sectors fill. -/
def State.prefLine (s : State) (va : Word) : State :=
  let k := s.me
  match translate s.deviceId k.rg va .read false with
  | .error _ => s
  | .ok (_, ipa) =>
    let iss := k.issuer s.cur k.isStep .core (.fetch s.cur)
    match s.pageChk iss .read ipa with
    | .held _ => s.wantPage iss .read ipa
    | .fail _ => s
    | .ok r =>
      let pa := r.pa ipa
      if r.leaf.type == 2 && !((List.range 4).any (fun i => s.isWritten (pa + 32 * i))) then s
      else (List.range 4).foldl (fun s i => s.keepSector iss (dieOf s.cur) (ipa + 32 * i)) (s.atHome ipa false true)

/-- The operand bytes of a vector store. -/
def vecData (v : VReg) (w e : Nat) : List Byte := leBytes w (lane w v e)

/-! Loads. -/

/-- LD (11 R221). -/
def execLd (o : LsOp) (s : State) : Host.Outcome State Fault Refusal :=
  syl .ld (.ld o) s (fun s => s.issueLoad (scalarReq s.me 4 o.sbase o.sidx o.imm (2 ^ o.size) false false true) o.dist (.scalar o.reg))

/-- A vector load. -/
def State.vectorLoad (s : State) (o : LsOp) (f : AddrForm) : State :=
  s.issueLoad (vectorReq s.me 4 o f (2 ^ o.size) false) o.dist (.vector (physV s.me.vrot o.reg) (2 ^ o.size))

/-- VLD (11 R221). -/
def execVld (o : LsOp) (s : State) : Host.Outcome State Fault Refusal :=
  syl .ld (.vld o) s (fun s => s.vectorLoad o .contiguous)

/-- VLDS (11 R221). -/
def execVlds (o : LsOp) (s : State) : Host.Outcome State Fault Refusal :=
  syl .ld (.vlds o) s (fun s => s.vectorLoad o .strided)

/-- VGATH (11 R221): indices from vd at issue. -/
def execVgath (o : LsOp) (s : State) : Host.Outcome State Fault Refusal :=
  syl .ld (.vgath o) s (fun s => s.vectorLoad o (.indexed o.reg))

/-- LSLD (11 R223). -/
def execLsld (o : LsOp) (s : State) : Host.Outcome State Fault Refusal :=
  syl .ld (.lsld o) s (fun s =>
    s.issueLoad (vectorReq s.me 4 o (.lanes o.reg) 4 false) 0 (.vector (physV s.me.vrot o.reg) 4))

/-- LQPOP (11 R226): the slots leave the queue at issue and land at issue + 2; their credits return to the sender. -/
def execLqpop (vec : Bool) (reg q : Nat) (s : State) : Host.Outcome State Fault Refusal :=
  syl .ld (.lqpop vec reg q) s (fun s =>
    let n := lqCount vec
    let k := s.me
    let slots := (Tab.get [] k.lq q).take n
    let e : Eff :=
      if vec then .vector (physV k.vrot reg) (BitVec.allOnes 512)
        (BitVec.ofNat 4096 (slots.foldr (fun x acc => x.toNat + acc * 2 ^ 64) 0))
      else .scalar reg (slots.headD 0)
    let s := s.modMe (fun k => { k with
      lq := Tab.set k.lq q ((Tab.get [] k.lq q).drop n),
      lqSent := k.lqSent.filter (fun x => x.2.1 < 6 || x.2.2 > k.now) ++ [(s.seq, 6, k.now + 2)] })
    (s.giveCredit q s.cur n).post 2 e)

/-- PREF (11 R227): no effect at levels 0 to 3. -/
def execPref (o : RgOp) (s : State) : Host.Outcome State Fault Refusal :=
  syl .ld (.pref o) s (fun s =>
    if isLocal (baseAddr s.me o.sbase o.imm) then s
    else
      let (lo, n) := maintRange s.me o 128
      (List.range (n / 128)).foldl (fun s k => s.prefLine (BitVec.ofNat 64 (lo + 128 * k))) s)

/-! Atomics (11 R225). -/

/-- AADD. -/
def execAadd (o : AtOp) (s : State) : Host.Outcome State Fault Refusal := syl .ld (.aadd o) s (fun s => s.issueAtomic o .add false false)
/-- AMIN. -/
def execAmin (o : AtOp) (s : State) : Host.Outcome State Fault Refusal := syl .ld (.amin o) s (fun s => s.issueAtomic o .min false false)
/-- AMAX. -/
def execAmax (o : AtOp) (s : State) : Host.Outcome State Fault Refusal := syl .ld (.amax o) s (fun s => s.issueAtomic o .max false false)
/-- AAND. -/
def execAand (o : AtOp) (s : State) : Host.Outcome State Fault Refusal := syl .ld (.aand o) s (fun s => s.issueAtomic o .and false false)
/-- AOR. -/
def execAor (o : AtOp) (s : State) : Host.Outcome State Fault Refusal := syl .ld (.aor o) s (fun s => s.issueAtomic o .or false false)
/-- AXOR. -/
def execAxor (o : AtOp) (s : State) : Host.Outcome State Fault Refusal := syl .ld (.axor o) s (fun s => s.issueAtomic o .xor false false)
/-- ASWAP. -/
def execAswap (o : AtOp) (s : State) : Host.Outcome State Fault Refusal := syl .ld (.aswap o) s (fun s => s.issueAtomic o .swap false false)
/-- ACAS. -/
def execAcas (o : AtOp) (s : State) : Host.Outcome State Fault Refusal := syl .ld (.acas o) s (fun s => s.issueAtomic o .cas true false)
/-- AFADD. -/
def execAfadd (o : AtOp) (s : State) : Host.Outcome State Fault Refusal := syl .ld (.afadd o) s (fun s => s.issueAtomic o .fadd false false)
/-- AADD.nr. -/
def execAaddNr (o : AtOp) (s : State) : Host.Outcome State Fault Refusal := syl .ld (.aaddNr o) s (fun s => s.issueAtomic o .add false true)
/-- AMIN.nr. -/
def execAminNr (o : AtOp) (s : State) : Host.Outcome State Fault Refusal := syl .ld (.aminNr o) s (fun s => s.issueAtomic o .min false true)
/-- AMAX.nr. -/
def execAmaxNr (o : AtOp) (s : State) : Host.Outcome State Fault Refusal := syl .ld (.amaxNr o) s (fun s => s.issueAtomic o .max false true)
/-- AAND.nr. -/
def execAandNr (o : AtOp) (s : State) : Host.Outcome State Fault Refusal := syl .ld (.aandNr o) s (fun s => s.issueAtomic o .and false true)
/-- AOR.nr. -/
def execAorNr (o : AtOp) (s : State) : Host.Outcome State Fault Refusal := syl .ld (.aorNr o) s (fun s => s.issueAtomic o .or false true)
/-- AXOR.nr. -/
def execAxorNr (o : AtOp) (s : State) : Host.Outcome State Fault Refusal := syl .ld (.axorNr o) s (fun s => s.issueAtomic o .xor false true)
/-- ASWAP.nr. -/
def execAswapNr (o : AtOp) (s : State) : Host.Outcome State Fault Refusal := syl .ld (.aswapNr o) s (fun s => s.issueAtomic o .swap false true)
/-- AFADD.nr. -/
def execAfaddNr (o : AtOp) (s : State) : Host.Outcome State Fault Refusal := syl .ld (.afaddNr o) s (fun s => s.issueAtomic o .fadd false true)

/-! Stores. -/

/-- ST (11 R222). -/
def execSt (o : LsOp) (s : State) : Host.Outcome State Fault Refusal :=
  syl .st (.st o) s (fun s =>
    s.issueStore (scalarReq s.me 5 o.sbase o.sidx o.imm (2 ^ o.size) true false true)
      (fun _ => leBytes (2 ^ o.size) (s.me.sc o.reg).toNat))

/-- A vector store. -/
def State.vectorStore (s : State) (o : LsOp) (f : AddrForm) (w : Nat) : State :=
  s.issueStore (vectorReq s.me 5 o f w true) (vecData (s.me.vr o.reg) w)

/-- VST (11 R222). -/
def execVst (o : LsOp) (s : State) : Host.Outcome State Fault Refusal :=
  syl .st (.vst o) s (fun s => s.vectorStore o .contiguous (2 ^ o.size))

/-- VSTS (11 R222). -/
def execVsts (o : LsOp) (s : State) : Host.Outcome State Fault Refusal :=
  syl .st (.vsts o) s (fun s => s.vectorStore o .strided (2 ^ o.size))

/-- VSCAT (11 R222): indices from reg + 1. -/
def execVscat (o : LsOp) (s : State) : Host.Outcome State Fault Refusal :=
  syl .st (.vscat o) s (fun s => s.vectorStore o (.indexed (o.reg + 1)) (2 ^ o.size))

/-- LSST (11 R223): offsets from reg + 1. -/
def execLsst (o : LsOp) (s : State) : Host.Outcome State Fault Refusal :=
  syl .st (.lsst o) s (fun s => s.vectorStore o (.lanes (o.reg + 1)) 4)

/-- The flits of a push leave on VC 4 (17 R338). -/
def State.sendPush (s : State) (c : Nat) (p : LqPush) : State :=
  (packetFlits 4 (s.neighbour p.link) s.deviceId c p.parts).foldl (fun s f => s.sendOn p.link f) s

/-- Pushes of a core that no fence holds any more leave, in the order of their issue (15 R303). -/
def State.sendHeld (s : State) (c : Nat) : State :=
  ((s.core c).lqHeld).foldl (fun s p =>
    match (s.core c).lqHeld with
    | q :: rest =>
      if q.ord == p.ord && !s.fenceHolds c 6 p.ord 0 then (s.modCore c (fun k => { k with lqHeld := rest })).sendPush c p else s
    | [] => s) s

/-- LQPSH (11 R226, 17 R338): the slots leave at issue on VC 4, up to 8 a flit, unless a FENCEX holds them (15 R303). -/
def execLqpsh (vec : Bool) (reg q : Nat) (s : State) : Host.Outcome State Fault Refusal :=
  syl .st (.lqpsh vec reg q) s (fun s =>
    let n := lqCount vec
    let k := s.me
    let bytes := if vec then leBytes 512 (k.vr reg).toNat else leBytes 8 (k.sc reg).toNat
    let parts := chunks 64 8 bytes
    let s := s.modMe (fun k => { k with
      credits := Tab.set k.credits q (Tab.get 512 k.credits q - n),
      lqSent := k.lqSent.filter (fun x => x.2.1 < 6 || x.2.2 > k.now) ++ [(s.seq, q, parts.length)] })
    let p : LqPush := ⟨s.seq, q, parts⟩
    if !k.lqHeld.isEmpty || s.fenceHolds s.cur 6 s.seq 0 then s.modMe (fun k => { k with lqHeld := k.lqHeld ++ [p] })
    else s.sendPush s.cur p)

/-- FLUSH (11 R227). -/
def execFlush (o : RgOp) (s : State) : Host.Outcome State Fault Refusal := syl .st (.flush o) s (fun s => s.issueMaint o .flush)

/-- DISCARD (11 R227). -/
def execDiscard (o : RgOp) (s : State) : Host.Outcome State Fault Refusal := syl .st (.discard o) s (fun s => s.issueMaint o .discard)

/-- REARM (11 R227). -/
def execRearm (o : RgOp) (s : State) : Host.Outcome State Fault Refusal := syl .st (.rearm o) s (fun s => s.issueMaint o .rearm)

/-! What memory answers. -/

/-- An entry that nothing lands for leaves the buffer once memory has acknowledged it (11 R222, R225, R227). -/
def State.releaseDone (s : State) (c id : Nat) : State :=
  s.modCore c (fun k => { k with land := k.land.filter (fun a => !(a.id = id && a.landAt.isNone && a.fault.isNone && !a.open)) })

/-- DATA_LANDING (01 R21, 11 R221): units of a load or returning atomic perform at memory (14 R274); the data land at the
entry's cycle. -/
def execDataLanding (core id : Nat) (unit : Option Nat) (s : State) : Host.Outcome State Fault Refusal :=
  .next (if (s.core core).land.any (fun a => a.id = id && a.landAt.isSome) then s.performAccess core id unit else s)

/-- STORE_ACKNOWLEDGE (11 R222): units of a store, .nr atomic or maintenance operation perform; with the last one the
entry is released. -/
def execStoreAcknowledge (core id : Nat) (unit : Option Nat) (s : State) : Host.Outcome State Fault Refusal :=
  .next (if (s.core core).land.any (fun a => a.id = id && a.landAt.isNone) then
      (s.performAccess core id unit).releaseDone core id
    else s)

/-- The record of an access whose wait has a limit: of its first unit that has not performed. -/
def State.accTimeout (s : State) (c id code : Nat) : State :=
  match (s.core c).land.find? (fun a => a.id = id && a.fault.isNone && !(s.core c).killed) with
  | none => s
  | some a => match a.elems.find? (fun e => !e.done) with
    | none => s
    | some e => (s.modCore c (fun k => k.setAccess { a with fault := some (accFault a e code) })).noteFault a.step code

/-- MEM_TIMEOUT (18 R349): a core frozen 200 ms under late data, translation miss or held access on one level-4 access. -/
def execMemTimeout (core id : Nat) (s : State) : Host.Outcome State Fault Refusal :=
  .next (match (s.core core).land.find? (fun a => a.id = id && a.level = 4 && a.open) with
    | some a =>
      let c := s.lateCause core a
      let due := match a.landAt with | some t => t ≤ (s.core core).now | none => false
      if due && (c = 0 || c = 1 || c = 8) && s.frozenFor core 0 200000000 then s.accTimeout core id fcMemTimeout else s
    | none => s)

/-- LQ_TIMEOUT (11 R226): a link-queue freeze of 100 µs; the bundle does not issue. -/
def execLqTimeout (core : Nat) (s : State) : Host.Outcome State Fault Refusal :=
  .next (s.timeoutBefore core 3 100000 fcLqTimeout)

/-- An error that a core's own read meets is counted and recorded, to be taken at the next boundary; a step task sets CORR (18 R350,
R351, R362). -/
def State.eccRaise (s : State) (c : Nat) (f : FaultRec) : State :=
  let s := (s.count tcUncorrected).modCore c (fun k => { k with faults := k.faults ++ [f] })
  (if (s.core c).isStep then s.pennonOr 8 else s).noteFault (s.core c).isStep fcEccUncorr

/-- The record of an error that an entry of the landing buffer meets, and the number of the element: a load's element as it is read
or lies in the buffer, an atomic's before it performs, or the barrier that a BWAIT or BTOKEN reads. -/
def Access.eccRec (a : Access) (elem : Nat) : Option (Nat × FaultRec) :=
  match a.kind with
  | .bwait b _ | .btoken b => some (elem, { code := fcEccUncorr, slot := a.slot, data := true, addr := windowAddr 0 b.off, access := some a.id })
  | .load => (a.elems.find? (fun e => e.idx = elem)).map (fun e => (elem, accFault a e fcEccUncorr))
  | .atomic _ _ _ _ _ _ => (a.elems.find? (fun e => e.idx = elem && !e.done && e.got.isEmpty)).map (fun e => (elem, accFault a e fcEccUncorr))
  | _ => none

/-- ECC_UNCORR on an entry of a core's landing buffer (18 R362). -/
def State.eccAccess (s : State) (c id elem : Nat) : State :=
  match (s.core c).land.find? (fun a => a.id = id && a.fault.isNone) with
  | none => s
  | some a => match a.eccRec elem with
    | none => s
    | some (idx, f) =>
      let s := s.count tcUncorrected
      if (s.core c).killed then s.modCore c (fun k => k.setAccess (a.answered idx))
      else
        let s := s.modCore c (fun k => k.setAccess { a with fault := some f })
        (if a.step then s.pennonOr 8 else s).noteFault a.step fcEccUncorr

/-- ECC_UNCORR on a read of the core's own memories at its landing cycle (18 R362): of a load, named by its issue number and
element, or of an atomic at level 0. A step task sets CORR. -/
def State.eccNear (s : State) (c ord elem : Nat) : State :=
  let k := s.core c
  let rec' (write : Bool) (addr : Word) : FaultRec :=
    { code := fcEccUncorr, slot := 4, data := true, write := write, addr := addr, access := some ord }
  if k.killed || k.shadow.isSome then s
  else match k.peeks.find? (fun q => q.ord = ord && q.due = k.now) with
    | some q => (match q.got.find? (fun e => e.1 = elem) with
      | some e => s.eccRaise c (rec' false (windowAddr q.level e.2.1))
      | none => s)
    | none => match k.pend.find? (fun p => p.ord = ord && p.due = k.now && p.eff.isAtom) with
      | some p => (match p.eff with
        | .atom _ off _ _ _ _ => s.eccRaise c (rec' true (windowAddr 0 off))
        | _ => s)
      | none => s

/-- ECC_UNCORR on a scratchpad word that a matrix instruction has read, or on its replay record, at its landing cycle (18 R362); the
result lands after the handler (18 R359). `off` is the word's place. -/
def State.eccMatrix (s : State) (c ord off : Nat) : State :=
  let k := s.core c
  if k.killed || k.shadow.isSome || off ≥ 2 ^ 22 then s
  else if k.mx.any (fun x => x.id = ord && x.due = k.now) || k.drains.any (fun x => x.id = ord && x.due = k.now) then
    s.eccRaise c { code := fcEccUncorr, slot := 3, data := true, addr := windowAddr 0 off }
  else s

/-- ECC_UNCORR on a register that a slot of the bundle due reads (18 R362): the bundle does not issue. -/
def State.eccRegister (s : State) (c slot : Nat) : State :=
  match s.beforeIssue c with
  | none => s
  | some (first, _) =>
    let s := s.count tcUncorrected
    (if (s.core c).isStep then s.pennonOr 8 else s).takeFault (if (s.gang first).contains c then c else first)
      { code := fcEccUncorr, slot := slot % 9 }

/-- ECC_UNCORR on the fetch of the bundle due (18 R362): a fault of the fetch, before issue. -/
def State.eccFetch (s : State) (c : Nat) : State :=
  match s.beforeIssue c with
  | none => s
  | some (first, t) => match t.fetchIpas first with
    | [] => s
    | ipa :: _ =>
      let k := s.core first
      let s := s.count tcUncorrected
      (if k.isStep then s.pennonOr 8 else s).takeFault first (fetchRec fcEccUncorr ipa k.pc)

/-- A first mismatch (10 R196): X and every later compute-port instruction in flight are re-executed. -/
def Core.reexecute (k : Core) (x : MxRec) : Core :=
  { k with
    mx := k.mx.map (fun y => { y with again := y.again || y.id ≥ x.id }),
    reex := min 255 (k.reex + 1) }

/-- The format tag that a matrix instruction in flight has set: what the next writer of its accumulator has found. -/
def Core.tagOf (k : Core) (x : MxRec) : Nat :=
  match k.mx.find? (fun y => y.acc = x.acc && y.id > x.id) with
  | some y => y.was
  | none => k.tag x.acc

/-- A second mismatch (10 R196): MX_CORRUPT is due, and the recomputed result, with those that chain from it, is free. -/
def Core.secondMismatch (k : Core) (x : MxRec) (n : Nat) : Core :=
  let ids := chainOf x.id x.acc k.mx false
  let k := k.mapFlight (Pend.freeAcc ids (k.tagOf x = 0) (List.range 64) [] n)
  { k with
    mx := k.mx.map (fun y => { y with bad := y.bad || y.id = x.id }),
    second := min 255 (k.second + 1) }

/-- The check of an MMA or MMAU at the start of its landing cycle fails (10 R196). A first mismatch freezes the core for the
re-execution, under its own cause. Once re-executed, `again` says that its second mismatch is found; without it the
re-execution takes one more period. DESIGN CHOICE (log 48): 01 R409 leaves open how many periods a re-execution takes; each
such event is one. -/
def State.productError (s : State) (c index : Nat) (again : Bool) : State :=
  let k := s.core c
  match k.mx[index]? with
  | none => s
  | some x =>
    if x.due ≠ k.now || x.bad || !x.mma || k.shadow.isSome then s
    else if x.again && again then
      { s.setCore c (k.secondMismatch x s.fresh) with fresh := s.fresh + 4096 }.raiseMx [c]
    else if again then s
    else (if x.again then s else s.setCore c (k.reexecute x)).freezeGang c 6 (s.gang c) (fun _ => [])

end Sys2Proof.Machine
end

