-- ==== Sys2Proof/Machine/Copies.lean ====
section
/-! DEFINITION. The CA and CB slots and their events (12), the K-slot instructions of the copy engines (12 R232, R233), and the
packets of other devices (23 R404, R405). -/

namespace Sys2Proof.Machine

/-- The slot of an engine. -/
def engSlot : Eng → Slot
  | .a => .ca
  | .b => .cb

/-- COPY (12 R235). -/
def execCopy (o : CpOp) (s : State) : Host.Outcome State Fault Refusal :=
  syl (engSlot o.eng) (.copy o) s (fun s => s.issueCopy .copy o)

/-- COPYT (12 R235). -/
def execCopyt (o : CpOp) (s : State) : Host.Outcome State Fault Refusal :=
  syl (engSlot o.eng) (.copyt o) s (fun s => s.issueCopy .copyt o)

/-- COPY2 (12 R235). -/
def execCopy2 (o : CpOp) (s : State) : Host.Outcome State Fault Refusal :=
  syl (engSlot o.eng) (.copy2 o) s (fun s => s.issueCopy .copy2 o)

/-- COPYR (12 R236). -/
def execCopyr (o : CpOp) (s : State) : Host.Outcome State Fault Refusal :=
  syl (engSlot o.eng) (.copyr o) s (fun s => s.issueCopy .copyr o)

/-- GATHC (12 R237). -/
def execGathc (o : CpOp) (s : State) : Host.Outcome State Fault Refusal :=
  syl (engSlot o.eng) (.gathc o) s (fun s => s.issueCopy .gathc o)

/-- COPYX (12 R238). -/
def execCopyx (o : CpOp) (s : State) : Host.Outcome State Fault Refusal :=
  syl (engSlot o.eng) (.copyx o) s (fun s => s.issueCopy .copyx o)

/-- COPY_RETIRE (12 R240): what is left of the copy at the engine's head performs as far as it can; whole copies whose
bytes are acknowledged retire. -/
def execCopyRetire (core : Nat) (eng : Eng) (s : State) : Host.Outcome State Fault Refusal :=
  .next ((s.runCopy core eng).retireCopies core eng)

/-- The copies of an engine that have failed. -/
def Engine.failures (x : Engine) : List Nat := (x.queue.filter (·.failed)).map (·.id)

/-- COPY_FAILURE (12 R242): the engine goes on to the first of its copies that fails with the code, if it comes to one: a
translation, a page, a WOS sector waited for 1 ms (14 R282), or a device that no route reaches. -/
def execCopyFailure (core : Nat) (eng : Eng) (code : Nat) (s : State) : Host.Outcome State Fault Refusal :=
  let t := s.runCopy core eng
  let x := (s.core core).engine eng
  let y := (t.core core).engine eng
  let fails := y.failed && (!x.failed || y.failures != x.failures)
  .next (if fails && (x.record.getLsbD 16 || fld y.record.toNat 15 0 = code) then t else s)

/-- WRITE_PACKET (23 R405). -/
def execWritePacket (p : WritePkt) (s : State) : Host.Outcome State Fault Refusal := .next (s.takeRemote (.write p 0))

/-- WRITE_PACKET_ACK (23 R405). -/
def execWritePacketAck (ack : WriteAck) (code core : Nat) (eng : Eng) (s : State) : Host.Outcome State Fault Refusal :=
  .next (s.takeWriteAck ack.src ack.ipa code core eng)

/-- REMOTE_READ_REQUEST (12 R238). -/
def execRemoteReadRequest (src ipa len : Nat) (step : Bool) (s : State) : Host.Outcome State Fault Refusal :=
  .next (s.takeRemote (.read src ipa len step []))

/-! K slot (12 R232, R233). -/

/-- Words of a 512-bit target from consecutive scalars: the mask of the bits written and their value. -/
def maskedWords (k : Core) (sa mask : Nat) : Wide × Wide :=
  let on := (List.range 8).filter (fun i => mask / 2 ^ i % 2 = 1)
  (BitVec.ofNat 512 (on.foldl (fun m i => m + (2 ^ 64 - 1) * 2 ^ (64 * i)) 0),
   BitVec.ofNat 512 (on.foldl (fun m i => m + (k.sc (sa + i)).toNat * 2 ^ (64 * i)) 0))

/-- The bits of [hi:lo] in a 512-bit register. -/
def wideBits (hi lo : Nat) : Nat := (2 ^ (hi + 1 - lo) - 1) * 2 ^ lo

/-- The fields of a shape register (12 R231) and of a tensor entry (07 R149) that are not reserved. -/
def shapeBits : Wide := BitVec.ofNat 512 (wideBits 499 0)
def entryBits : Wide :=
  BitVec.ofNat 512 (wideBits 480 0 - wideBits 63 60 - wideBits 75 75 - wideBits 95 88 - wideBits 351 346 - wideBits 415 409)

/-- A word of a 512-bit register. -/
def wordOf (w : Wide) (k : Nat) : Word := (w >>> (64 * k)).setWidth 64

/-- SHW (12 R233). -/
def execShw (eng : Eng) (n sa mask : Nat) (s : State) : Host.Outcome State Fault Refusal :=
  syl .k (.shw eng n sa mask) s (fun s =>
    let (m, v) := maskedWords s.me sa mask
    s.post 3 (.shape eng n (m &&& shapeBits) v))

/-- The completion record with its count of copies not retired (12 R234). -/
def Engine.status (x : Engine) : Word := recPut x.record 56 48 x.queue.length

/-- SHR (12 R233). -/
def execKShr (sd : Nat) (eng : Eng) (n k : Nat) (s : State) : Host.Outcome State Fault Refusal :=
  syl .k (.kShr sd eng n k) s (fun s =>
    let x := s.me.engine eng
    let r := Tab.get 0 (match eng with | .a => s.me.shA | .b => s.me.shB) n
    s.postS 1 sd (if k = 8 then x.status else if k = 9 then x.failAddr else wordOf r k))

/-- TTW (12 R233). -/
def execTtw (t sa mask : Nat) (s : State) : Host.Outcome State Fault Refusal :=
  syl .k (.ttw t sa mask) s (fun s =>
    let (m, v) := maskedWords s.me sa mask
    s.post 3 (.table t (m &&& entryBits) v))

/-- TTR (12 R233). -/
def execTtr (sd t k : Nat) (s : State) : Host.Outcome State Fault Refusal :=
  syl .k (.ttr sd t k) s (fun s => s.postS 1 sd (wordOf (Tab.get 0 s.me.tt t) k))

end Sys2Proof.Machine
end

