-- ==== Sys2Proof/Machine/Events.lean ====
section
/-! DEFINITION. Events of memory that reach every master: soft errors (18 R362) and the limit of a wait for a WOS sector (14
R282). -/

namespace Sys2Proof.Machine

/-! Soft errors. -/

/-- An uncorrectable error that a copy engine's source path meets: the next byte that it reads (12 R242). -/
def State.eccEngine (s : State) (c : Nat) (e : Eng) : State :=
  match ((s.core c).engine e).queue.find? (fun q => !q.failed && !q.whole) with
  | none => s
  | some q =>
    let (en, off) : Wide × Int := match q.source q.next with
      | .at off => (q.tS, off)
      | _ => (q.tA, q.idxOff (q.piece q.next))
    let ipa := match translate s.deviceId (s.core c).rg (entAddr en off) .read true with
      | .ok (_, i) => if tLevel en < 4 then 0 else i
      | .error _ => 0
    (s.count tcUncorrected).copyFail c e q.id fcEccUncorr (entAddr en off) ipa

/-- An error counted, with CORR for a step issuer (18 R362). -/
def State.eccNote (s : State) (step : Bool) : State :=
  let s := s.count tcUncorrected
  if step then s.pennonOr 8 else s

/-- The same of a near-memory unit's row: the unit stops (16 R321). -/
def State.eccRow (s : State) (u : Nat) : State :=
  let x := s.unit u
  match x.run with
  | none => s
  | some n => match s.run n, s.nextMicro u with
    | some r, some (.nld _ stream) => (match r.streams[stream]?, x.left 8 with
      | some t, off :: _ =>
        let at' := 512 * x.row + off
        (s.eccNote r.step).unitFail u r fcEccUncorr (t.va + BitVec.ofNat 64 at') (t.ipa + at') false
      | _, _ => s)
    | _, _ => s

/-- The same of the launcher's read of a parameter block: the run does not start. -/
def State.eccBlock (s : State) (n : Nat) : State :=
  match s.run n with
  | some r =>
    if r.started || r.stopped || r.fault.isSome then s
    else
      let f : FaultRec := { code := fcEccUncorr, slot := 8, data := true, addr := r.block, access := some r.id }
      ((s.setRun n { r with fault := some f }).eccNote r.step).noteFault r.step fcEccUncorr
  | none => s

/-- The same of the collective engine: its descriptor before the start, its source afterwards (17 R342, R345). -/
def State.eccColl (s : State) (c id : Nat) : State :=
  match (s.core c).colls.find? (fun x => x.id = id && !x.done && x.fault.isNone) with
  | none => s
  | some x =>
    if !x.started then (s.eccNote x.step).collRefuse c x fcEccUncorr x.desc 0 false
    else match s.gathers.find? (fun g => g.of c id) with
      | some g =>
        if g.out.isSome then s
        else (s.eccNote x.step).collFail c x fcEccUncorr (BitVec.ofNat 64 ((collFields x.block).src + g.data.length)) (g.ipa + g.data.length) false
      | none => s

/-- The same of a read for another device: it is answered with the failure, and CORR is that device's own. -/
def State.eccRemote (s : State) (n : Nat) : State :=
  match s.remote[n]? with
  | some e => (match e.2 with
    | .read src ipa _ _ _ =>
      let s := s.count tcUncorrected
      { s with remote := s.remote.filter (fun x => x.1 ≠ e.1), out := s.out ++ [.readReply src ipa fcEccUncorr []] }
    | .reduce r =>
      let s := s.count tcUncorrected
      { s with remote := s.remote.filter (fun x => x.1 ≠ e.1),
               out := s.out ++ [.reduceReply r.src r.ipa fcEccUncorr r.core r.eng false none] }
    | .write _ _ => s)
  | none => s

/-- SOFT_ERROR (18 R362, 10 R196, R197): a corrected error is counted; an uncorrectable one is raised to the master that
reads; products are checked by the matrix engine, and an accumulator whose storage has changed holds free values. -/
def execSoftError (e : SoftErr) (s : State) : Host.Outcome State Fault Refusal :=
  .next (match e with
    | .corrected => s.count tcCorrected
    | .uncorrectableAccess c id e => s.eccAccess c id e
    | .uncorrectableEngine c eng => s.eccEngine c eng
    | .product c i again => s.productError c i again
    | .accumulator c a =>
      if c > 255 || a > 7 then s
      else { s.modCore c (fun k => { k with
          acc := Tab.set k.acc a ((List.range 4096).map (fun n => Config.freeWord (s.fresh + n))),
          accBad := if k.accBad.contains a then k.accBad else a :: k.accBad }) with fresh := s.fresh + 4096 }
    | .uncorrectableNear c ord e => s.eccNear c ord e
    | .uncorrectableFetch c => s.eccFetch c
    | .uncorrectableRow u => s.eccRow u
    | .uncorrectableBlock n => s.eccBlock n
    | .uncorrectableColl c id => s.eccColl c id
    | .uncorrectableRemote n => s.eccRemote n
    | .uncorrectableMatrix c ord off => s.eccMatrix c ord off
    | .uncorrectableRegister c slot => s.eccRegister c slot)

/-! The limit of a wait for a WOS sector (14 R282). -/

/-- The element of an access whose wait for its sector has lasted 1 ms. -/
def State.lateElem (s : State) (c : Nat) (a : Access) : Option Elem :=
  a.elems.find? (fun e => !e.done && s.wosLate (.core c a.id e.idx))

/-- The units of a row whose waits have. -/
def State.lateRow (s : State) (u : Nat) : State :=
  match s.nextMicro u, (s.unit u).run with
  | some (.nld _ stream), some n => (match s.run n with
    | some r => (match r.streams[stream]? with
      | some t => State.loadRow u r stream t (s.unit u).row (((s.unit u).left 8).filter (fun off => s.wosLate (.row n u (s.unit u).row stream off))) s
      | none => s)
    | none => s)
  | _, _ => s

/-- Whether a collective of a core waits so. -/
def State.lateColl (s : State) (c id : Nat) : Bool :=
  s.waiting.any (fun w => match w.iss.key with | .coll c' id' _ => c' == c && id' == id && s.wosLate w.iss.key | _ => false)

/-- Whether a run's parameter block waits so. -/
def State.lateBlock (s : State) (n : Nat) : Bool :=
  s.waiting.any (fun w => match w.iss.key with | .block m _ => m == n && s.wosLate w.iss.key | _ => false)

/-- WOS_WAIT (14 R282): a read whose sector's bit is still clear 1 ms after it came: of an access of a core, of a run's units or its
parameter block, of a collective, or of a copy. A fetch meets its limit at the core's next turn (State.fetchHome). -/
def execWosWait (core id : Nat) (s : State) : Host.Outcome State Fault Refusal :=
  .next (match (s.core core).land.find? (fun a => a.id = id && a.open && a.fault.isNone) with
    | some a => (match s.lateElem core a with
      | some e =>
        if (s.core core).killed then s
        else ((s.leave (.core core id e.idx)).modCore core (fun k =>
          k.setAccess { a with fault := some (accFault a e fcWosWait) })).noteFault a.step fcWosWait
      | none => s)
    | none => match s.run id with
      | some r =>
        if r.core ≠ core then s
        else if !r.started then (if s.lateBlock id then (match execNmRunStart id s with | .next t => t | _ => s) else s)
        else ((s.units.filter (fun e => e.2.run == some id)).map (·.1)).foldl (fun s u => s.lateRow u) s
      | none =>
        if s.lateColl core id then (match execCollStart core id [] s with | .next t => t | _ => s)
        else [Eng.a, Eng.b].foldl (fun s e =>
          if ((s.core core).engine e).queue.any (fun q => q.id = id) then s.runCopy core e else s) s)

end Sys2Proof.Machine
end

