-- ==== Sys2Proof/Machine/Frames.lean ====
section
/-! DEFINITION. Frames of the command port: which are accepted (03 R54, R55), and replies (03 R58). -/

namespace Sys2Proof.Machine

/-! Status codes (03 R58). -/

def stOk : Nat := 0x00
def stBadFrame : Nat := 0x01
def stNoAttest : Nat := 0x02
def stBusy : Nat := 0x03
def stBadHandle : Nat := 0x04
def stContainer : Nat := 0x05
def stNoStep : Nat := 0x06
def stStepBusy : Nat := 0x07
def stAttempt : Nat := 0x08
def stNoTree : Nat := 0x09
def stNotDecided : Nat := 0x0A
def stLate : Nat := 0x0B
def stBadAddr : Nat := 0x0C
def stViolation : Nat := 0x0D
def stBadType : Nat := 0x0E
def stBadStep : Nat := 0x0F
def stNoSpace : Nat := 0x10
def stBadSig : Nat := 0x11
def stLost : Nat := 0x12

/-- The last n of a list. -/
def lastN {α : Type} (n : Nat) (l : List α) : List α := l.drop (l.length - n)

/-- A frame to the host leaves, and the session keeps it under its request (03 R55). A request of an earlier session is
not answered. -/
def State.reply (s : State) (h : FrameHead) (code status detail : Nat) (payload : List Byte) : State :=
  match s.session with
  | some z =>
    if z.id = h.session then
      let o : Out := .reply z.id (z.txSeq + 1) h.reqId h.mgmt code status detail payload
      { s with
        out := s.out ++ [o],
        session := some { z with txSeq := z.txSeq + 1, replies := lastN 256 (z.replies ++ [(h.reqId, o)]) } }
    else s
  | none => s

/-- A plain answer. -/
def State.answer (s : State) (h : FrameHead) (code status : Nat) : State := s.reply h code status 0 []

/-- The session after an accepted frame: its number is seen, and the events it acknowledges are no longer repeated
(03 R54, R62). -/
def Session.accept (z : Session) (h : FrameHead) (time : Nat) : Session :=
  let hi := max z.highest h.seq
  { z with
    highest := hi,
    seen := (h.seq :: z.seen).filter (fun n => n + 64 > hi),
    lastAt := time,
    unacked := z.unacked.filter (fun e => e.num > h.ack) }

/-- Whether 03 R54 lets a sealed frame in. -/
def Session.takes (z : Session) (h : FrameHead) : Bool :=
  h.tagOk && h.headOk && z.id == h.session && !(z.seen.contains h.seq) && h.seq + 64 > z.highest

/-- A kept reply under a new sequence number (03 R55). -/
def Out.renumber (o : Out) (n : Nat) : Out :=
  match o with
  | .reply z _ req mgmt code status detail payload => .reply z n req mgmt code status detail payload
  | x => x

/-- 03 R54, R55, R57, R58: a frame is dropped and counted, or answered with the kept reply, or refused for want of ATTEST
or of a good payload; `go` says that its request is to run. -/
def State.accept (s : State) (h : FrameHead) (code : Nat) (attest : Bool) : State × Bool :=
  match s.session with
  | none => (s.count tcFrames, false)
  | some z =>
    if z.takes h then
      let s := { s with session := some (z.accept h s.time) }
      match z.replies.find? (fun e => e.1 = h.reqId) with
      | some e => ({ s with
          out := s.out ++ [e.2.renumber (z.txSeq + 1)],
          session := some { z.accept h s.time with txSeq := z.txSeq + 1 } }, false)
      | none =>
        if !attest && !z.attested then (s.answer h code stNoAttest, false)
        else if !h.payloadOk then (s.answer h code stBadFrame, false)
        else (s, true)
    else (s.count tcFrames, false)

end Sys2Proof.Machine
end

