-- ==== Sys2Proof/Machine/Sched.lean ====
section
/-! DEFINITION. The graph schedulers (04): queues, reservations, pre-emption requests and placement; preparing,
saving, restoring and retiring tasks (04 R80, R81; 19 R363 to R369); the end of a kill (19 R370) and of an abort
(19 R373). -/

namespace Sys2Proof.Machine

/-! Core sets (04 R73). -/

def State.coreFree (s : State) (c : Nat) : Bool := (s.core c).occ.isNone && !s.fenced.contains c

/-- The cores of the aligned set of g cores from a first core. -/
def setCores (first g : Nat) : List Nat := (List.range g).map (fun k => first + k)

/-- The aligned sets of a die by cluster and then by i, each by its first core. -/
def dieSets (g d : Nat) : List Nat := (List.range (64 / g)).map (fun i => d * 64 + g * i)

def State.freeOn (s : State) (d : Nat) : Nat := ((List.range 64).filter (fun k => s.coreFree (d * 64 + k))).length

/-- A die goes before those with fewer free cores. -/
def State.dieIns (s : State) (d : Nat) : List Nat → List Nat
  | [] => [d]
  | x :: r => if s.freeOn d ≤ s.freeOn x then x :: State.dieIns s d r else d :: x :: r

/-- The order in which the dies are searched. -/
def State.dieOrder (s : State) (die : Nat) : List Nat :=
  if die < 4 then (List.range 4).map (fun k => (die + k) % 4) else (List.range 4).foldl (fun l d => s.dieIns d l) []

/-- Every aligned set without a fenced core, in the order of 04 R73. -/
def State.allSets (s : State) (r : NodeRec) : List Nat :=
  ((s.dieOrder r.die).flatMap (dieSets r.gang)).filter (fun f => (setCores f r.gang).all (fun c => !s.fenced.contains c))

/-! Queues. -/

/-- A node of a launch in the schedulers. -/
structure Cand where
  launch : Nat
  node : Nat
  st : NodeSt
  deriving DecidableEq, Repr

/-- Candidates level by level, and in each by entry. -/
def candIns (x : Cand) : List Cand → List Cand
  | [] => [x]
  | y :: r => if x.st.level < y.st.level || (x.st.level == y.st.level && x.st.order < y.st.order) then x :: y :: r
              else y :: candIns x r

/-- Nodes in a state that a test admits. -/
def State.nodesIn (s : State) (f : NodeSt → Bool) : List Cand :=
  s.launches.flatMap (fun l => (l.2.nodes.filter (fun n => f n.2)).map (fun n => ⟨l.1, n.1, n.2⟩))

/-- Ready and saved tasks in the order of the placement step. -/
def State.candidates (s : State) : List Cand :=
  (s.nodesIn (fun n => n.state == .ready || n.state == .saved)).foldl (fun l x => candIns x l) []

def ms2 : Nat := 2000000

/-- 04 R74: 2 ms at a level above 0. -/
def State.promoteNode (s : State) (launch node : Nat) : State :=
  match s.nodeSt launch node with
  | some n =>
    if (n.state == .ready || n.state == .saved) && n.level > 0 && s.time ≥ n.queuedAt + ms2 then
      { s with queueStamp := s.queueStamp + 1 }.setNode launch node
        { n with level := n.level - 1, order := s.queueStamp, queuedAt := s.time }
    else s
  | none => s

/-! Reservations (04 R75, R76). -/

/-- Reserved sets with their holders: the first core, the size, and the holder. -/
def State.reserved (s : State) : List (Nat × Nat × Cand) :=
  (s.nodesIn (fun n => n.reserve.isSome)).filterMap (fun x => match x.st.reserve, s.nodeRec x.launch x.node with
    | some r, some n => some (r.first, n.gang, x)
    | _, _ => none)

def setsMeet (f g f2 g2 : Nat) : Bool := f < f2 + g2 && f2 < f + g

/-- Whether a set is reserved against a task: its holder stands at a higher level, or at the same and before it. -/
def State.barred (s : State) (x : Cand) (f g : Nat) : Bool :=
  s.reserved.any (fun e =>
    let (f2, g2, h) := e
    !(h.launch == x.launch && h.node == x.node) && setsMeet f g f2 g2 &&
      (h.st.level < x.st.level || (h.st.level == x.st.level && h.st.order < x.st.order)))

/-- Where a candidate fits now (04 R73). -/
def State.fits (s : State) (x : Cand) (r : NodeRec) : Option Nat :=
  let ok (f : Nat) : Bool := (setCores f r.gang).all s.coreFree && !s.barred x f r.gang
  if x.st.state == .saved then (if ok x.st.first then some x.st.first else none)
  else (s.allSets r).find? ok

/-- What stands on a core as a pre-emption request counts it. -/
inductive Stand where
  | free
  | task (launch node level : Nat) (step running : Bool)
  | fixed
  deriving DecidableEq, Repr

/-- Whether each member core has a free save slot (19 R365). -/
def State.slotsFree (s : State) (cs : List Nat) : Bool := cs.all (fun c => (s.core c).slots.length < 4)

/-- 04 R75, R76, 19 R365: the tasks that may leave a core, of a level greater than `level`; for a strike, step tasks and every
non-step task. -/
def State.standOn (s : State) (steps : Bool) (level c : Nat) : Stand :=
  match (s.core c).occ with
  | none => .free
  | some o => match s.nodeSt o.launch o.node with
    | none => .fixed
    | some n =>
      if n.level ≤ level || n.state == .killed then .fixed
      else if o.step then (if steps then .task o.launch o.node n.level true false else .fixed)
      else if n.state == .preempting then .task o.launch o.node n.level false false
      else if n.state == .running && s.slotsFree (setCores o.first o.gang) then .task o.launch o.node n.level false true
      else if steps then .task o.launch o.node n.level false false
      else .fixed

/-- The tasks of a set, once each; none when something on it may not leave. -/
def State.setTasks (s : State) (level f g : Nat) (steps : Bool) : Option (List Stand) :=
  (setCores f g).foldl (fun acc c => match acc, s.standOn steps level c with
    | some l, .free => some l
    | some l, .task a b lv st rn => some (if l.contains (.task a b lv st rn) then l else .task a b lv st rn :: l)
    | _, _ => none) (some [])

def Stand.level : Stand → Nat
  | .task _ _ lv _ _ => lv
  | _ => 0

/-- The better of two sets by the keys of 04 R75; the earlier one stays on a tie. -/
def betterSet (a : Option (Nat × List Stand)) (b : Nat × List Stand) : Option (Nat × List Stand) :=
  let top (l : List Stand) : Nat := l.foldl (fun m x => max m x.level) 0
  match a with
  | none => some b
  | some x =>
    if top b.2 > top x.2 || (top b.2 == top x.2 && b.2.length < x.2.length) then some b else some x

/-- The set that a request chooses, with its tasks. -/
def State.chooseSet (s : State) (x : Cand) (r : NodeRec) (steps : Bool) : Option (Nat × List Stand) :=
  ((s.allSets r).filter (fun f => !s.barred x f r.gang)).foldl (fun best f => match s.setTasks x.st.level f r.gang steps with
    | some l => if l.isEmpty then best else betterSet best (f, l)
    | none => best) none

/-- Running tasks of a list are asked to pre-empt (04 R75), under the escalation time that stands (R76). -/
def State.askAll (s : State) (l : List Stand) : State :=
  l.foldl (fun s x => match x with
    | .task a b _ _ true => s.modNode a b (fun n => { n with
        state := .preempting, askedAt := some s.time, escal := fld s.sched.toNat 31 8, atSafe := false })
    | _ => s) s

def State.reserveFor (s : State) (x : Cand) (f : Nat) (asked : Bool) : State :=
  s.modNode x.launch x.node (fun n => { n with reserve := some ⟨f, asked⟩ })

/-- The gang reservation of 04 R75. -/
def State.gangReserve (s : State) (x : Cand) (r : NodeRec) : State :=
  if r.gang ≥ 2 && x.st.state == .ready && x.st.reserve.isNone && s.time ≥ x.st.readyAt + 64000 && (s.fits x r).isNone then
    let sets := (s.allSets r).filter (fun f =>
      !s.barred x f r.gang && !(s.reserved.any (fun e => setsMeet f r.gang e.1 e.2.1)))
    let busy (f : Nat) : Nat := ((setCores f r.gang).filter (fun c => (s.core c).occ.isSome)).length
    match sets.foldl (fun (b : Option Nat) f => match b with
        | none => some f
        | some y => if busy f < busy y then some f else some y) none with
    | some f => s.reserveFor x f false
    | none => s
  else s

/-- The remedies of a ready task that does not fit, in their order (04 R75, R76). -/
def State.remedy (s : State) (x : Cand) : State :=
  match s.nodeSt x.launch x.node, s.nodeRec x.launch x.node with
  | some n, some r =>
    let x := { x with st := n }
    let asked := match n.reserve with | some v => v.asked | none => false
    if n.state != .ready || asked || (s.fits x r).isSome then s
    else match s.chooseSet x r false with
      | some (f, l) => (s.askAll l).reserveFor x f true
      | none =>
        let own := match Tab.find s.launches x.launch with | some l => l.step | none => true
        match (if s.sched.getLsbD 0 && !own then s.chooseSet x r true else none) with
        | some (f, l) => ((s.askAll l).reserveFor x f true).strike 32
        | none => s.gangReserve x r
  | _, _ => s

/-! Placement. -/

/-- A core without anything that a task left: registers, tables and memories as 04 R80 has them. Cycle counters, save
slots, link credits and the pushes that the neighbour has not acknowledged stay (04 R80, 11 R226, 15 R303). -/
def Core.cleared (k : Core) : Core :=
  { Core.reset with
    now := k.now, ccCount := k.ccCount, fzTotal := k.fzTotal, fzBy := k.fzBy, slots := k.slots, credits := k.credits, lqSent := k.lqSent }

/-- A core's storage is cleared; credits of slots that no task has popped return (11 R226, log 36). -/
def State.clearCore (s : State) (c : Nat) : State :=
  let lq := (s.core c).lq
  (lq.foldl (fun s e => s.giveCredit e.1 c e.2.length) s).modCore c Core.cleared

/-- A candidate is placed (04 R70, R75): its cores are claimed and its reservation ends. -/
def State.placeAt (s : State) (x : Cand) (r : NodeRec) (f : Nat) : State :=
  match Tab.find s.launches x.launch with
  | none => s
  | some l =>
    let s := s.modNode x.launch x.node (fun n => { n with
      state := .placed, first := f, reserve := none, askedAt := none, atSafe := false, restored := n.state == .saved })
    (List.range r.gang).foldl (fun s g =>
      (s.clearCore (f + g)).modCore (f + g) (fun k => { k with
        occ := some { launch := x.launch, node := x.node, member := g, gang := r.gang, first := f, step := l.step,
                      terminal := r.terminal, handle := l.handle } })) s

/-- One candidate of the placement step. -/
def State.tryPlace (s : State) (x : Cand) : State :=
  match s.nodeSt x.launch x.node, s.nodeRec x.launch x.node with
  | some n, some r =>
    (match s.fits { x with st := n } r with
     | some f => s.placeAt { x with st := n } r f
     | none => s)
  | _, _ => s

/-! Preparing a task (04 R78, R80; 19 R369). -/

/-- The range register that a plan record gives (04 R78, 23 R403). -/
def planRange (p : PlanRec) (ipa : Nat) (bind : Option (Nat × Nat)) : BitVec 256 :=
  let lo := p.vbase.toNat / 65536
  let b (n i : Nat) : Nat := if p.flags.getLsbD n then 2 ^ i else 0
  let space : Nat := match bind with
    | some (dev, ipa) => ipa / 65536 * 2 ^ 144 + 2 ^ 196 + dev * 2 ^ 208
    | none => ipa / 65536 * 2 ^ 144
  BitVec.ofNat 256 (lo * 2 ^ 16 + (lo + p.size / 65536) * 2 ^ 80 + 2 ^ 192 + 2 ^ 193 + b 3 194 + b 4 195 + space)

/-- The range registers of a node. -/
def Container.ranges (h : Container) (r : NodeRec) : Tab (BitVec 256) :=
  ((List.range 16).zip r.regions).foldl (fun (t : Tab (BitVec 256)) e =>
    if e.2 = 0xFF then t
    else match h.plan[e.2]?, h.ipas[e.2]? with
      | some p, some ipa => Tab.set t e.1 (planRange p ipa (Tab.find h.binds e.2))
      | _, _ => t) []

/-- The virtual base of a position of a node's region list. -/
def Container.baseOf (h : Container) (r : NodeRec) (pos : Nat) : Word :=
  match h.plan[r.regions.getD pos 0xFF]? with
  | some p => p.vbase
  | none => 0

/-- The argument block's address, or zero (02 R48). -/
def Container.argAt (h : Container) (r : NodeRec) : Word :=
  if r.argRegion = 0xFF then 0 else h.baseOf r r.argRegion + BitVec.ofNat 64 r.argOff

/-- The tables of a section. -/
def Container.tensorsOf (h : Container) (n : Nat) : Tab Wide :=
  match h.sections[n]? with | some (.tensors t) => t | _ => []

def Container.shapesOf (h : Container) (n : Nat) : Tab Wide :=
  match h.sections[n]? with | some (.shapes _ t) => t | _ => []

/-- The window address one past the last scratchpad byte (04 R80). -/
def s61Start : Word := 0xF0000000003F8000

/-- A member at its first bundle (04 R80). -/
def Core.prepared (k : Core) (h : Container) (r : NodeRec) : Core :=
  { k.cleared with
    occ := k.occ, begun := true, rg := h.ranges r, tt := h.tensorsOf r.tensors, shA := h.shapesOf r.shapesA,
    shB := h.shapesOf r.shapesB, s := Tab.set (Tab.set [] 61 s61Start) 62 (h.argAt r), layer := r.layer,
    pc := h.baseOf r r.entryRegion + BitVec.ofNat 64 r.entry, isTarget := false }

/-- The container and record of a node. -/
def State.nodeHome (s : State) (launch node : Nat) : Option (Container × NodeRec) :=
  match Tab.find s.launches launch, s.nodeRec launch node with
  | some l, some r => (Tab.find s.containers l.handle).map (fun h => (h, r))
  | _, _ => none

/-- TASK_START (04 R70, R80): every member is prepared, and the first bundle is due. The task is running once it issues. -/
def execTaskStart (launch node : Nat) (s : State) : Host.Outcome State Fault Refusal :=
  .next (match s.nodeSt launch node, s.nodeHome launch node with
    | some n, some (h, r) =>
      if n.state == .placed && !n.restored && !(s.core n.first).begun then
        s.modCores (fun k => k.prepared h r) (setCores n.first r.gang)
      else s
    | _, _ => s)

/-- A member from its save slot (19 R369). -/
def Core.resumed (k : Core) (h : Container) (r : NodeRec) (v : Saved) : Core :=
  let out0 (w : Word) : Word := recPut w 56 48 0
  let eng (w : Word) (fa : Word) (n : Nat) : Engine := { queue := [], next := n, record := out0 w, failAddr := fa, failed := w.getLsbD 16 }
  { k.cleared with
    occ := k.occ, begun := true, rg := h.ranges r, tt := v.tt, shA := v.shA, shB := v.shB,
    s := if v.smap.getLsbD 62 then v.s else Tab.set v.s 62 (h.argAt r), p := v.p, v := v.v, acc := v.acc, atag := v.atag,
    j := (List.range 6).zip v.j, vrot := v.vrot, prot := v.prot, layer := v.layer, loop := { v.loop with body := [] },
    reex := v.reex, second := v.second, engA := eng v.recA v.failA v.seqA, engB := eng v.recB v.failB v.seqB, lq := v.lq,
    sp := v.sp, ls := v.ls, ds := v.ds, pc := v.pc, isTarget := false }

/-- The slot that holds a task's save on a core. -/
def Core.slotOf (k : Core) (launch node : Nat) : Option (Nat × Saved) :=
  k.slots.find? (fun e => e.2.launch = launch && e.2.node = node)

/-- TASK_RESTORE (19 R369): each member from its slot, which is freed (19 R365); the safe-point bundle is due. An engine that had
failed accepts no further work (12 R242). -/
def execTaskRestore (launch node : Nat) (s : State) : Host.Outcome State Fault Refusal :=
  .next (match s.nodeSt launch node, s.nodeHome launch node with
    | some n, some (h, r) =>
      if n.state == .placed && n.restored && !(s.core n.first).begun then
        s.modCores (fun k =>
          match k.slotOf launch node with
          | some (i, v) => { k.resumed h r v with slots := Tab.del k.slots i }
          | none => k) (setCores n.first r.gang)
      else s
    | _, _ => s)

/-! Saving a task (19 R363 to R368). -/

/-- Whether a gang stands at a safe point (19 R363): the task pre-empts, the bundle due is no delay bundle, no member is
in the shadow context, and after the landings of this cycle nothing is in flight. -/
def State.safeReady (s : State) (c : Nat) (ms : List Nat) : Bool :=
  s.isPreempting c && (s.core c).delay.isNone &&
  ms.all (fun m =>
    let k := s.core m
    k.shadow.isNone && k.pend.isEmpty && k.mx.isEmpty && k.land.all (fun a => a.landAt.isNone))

/-- Whether the bundle due carries SP. -/
def State.spDue (s : State) (c : Nat) : Bool :=
  let k := s.core c
  match s.dueHeader c k.pc k.isTarget with
  | .ok h _ => h.sp
  | _ => false

/-- SAFE_POINT (19 R363): nothing more issues, and the escalation clock stops. -/
def execSafePoint (launch node : Nat) (s : State) : Host.Outcome State Fault Refusal :=
  .next (match s.nodeSt launch node, s.nodeRec launch node with
    | some n, some r =>
      let ms := setCores n.first r.gang
      let k := s.core n.first
      if n.state == .preempting && !n.atSafe && k.begun && !k.stopped && !k.ended && s.safeReady n.first ms && s.spDue n.first then
        (s.setNode launch node { n with atSafe := true }).modCores (fun k => { k with stopped := true, waits := [] }) ms
      else s
    | _, _ => s)

/-- Whether a member's work outside its core domain has ended (19 R364). -/
def Core.drained (k : Core) : Bool :=
  k.land.all (fun a => !a.open) && k.engA.queue.isEmpty && k.engB.queue.isEmpty && k.barq.isEmpty && k.nmRuns.isEmpty &&
    k.colls.isEmpty && k.pend.isEmpty && k.lqHeld.isEmpty

/-- The safe-point record of the bundle at the program counter (02 R49); no record, nothing live (log 36). -/
def Container.safeRec (h : Container) (r : NodeRec) (pc : Word) : SafeRec :=
  let off := (pc - h.baseOf r r.entryRegion).toNat
  let l := match h.sections[r.safePoints]? with | some (.safePoints l) => l | _ => []
  match l.find? (fun e => e.off = off) with
  | some e => e
  | none => { off := off, smap := 0, pmap := 0, amap := 0, vmap := 0 }

/-- Entries of a table that a test admits. -/
def keep {α : Type} (t : Tab α) (f : Nat → Bool) : Tab α := t.filter (fun e => f e.1)

/-- What a member writes into its slot (19 R366 to R368). -/
def Core.saveOf (k : Core) (o : Occ) (e : SafeRec) (ways : Nat) : Saved :=
  { launch := o.launch, node := o.node, member := o.member, gang := o.gang, pc := k.pc, vrot := k.vrot, prot := k.prot,
    layer := k.layer, loop := { k.loop with body := [] }, j := (List.range 6).map (fun n => Tab.get 0 k.j n), atag := k.atag,
    reex := k.reex, second := k.second, recA := k.engA.record, recB := k.engB.record, failA := k.engA.failAddr,
    failB := k.engB.failAddr, seqA := k.engA.next, seqB := k.engB.next, ways := ways, smap := e.smap, pmap := e.pmap,
    amap := e.amap, vmap := e.vmap, s := keep k.s (fun n => e.smap.getLsbD n),
    p := keep k.p (fun n => (List.range 32).any (fun w => e.pmap.getLsbD w && physP k.prot w == n)),
    v := keep k.v (fun n => e.vmap.getLsbD (if n < 1024 then n else 1024 + (n - 1024 + 512 - k.vrot) % 512)),
    acc := keep k.acc (fun n => e.amap.getLsbD n), shA := k.shA, shB := k.shB, tt := k.tt, lq := k.lq, sp := k.sp,
    ls := k.ls, ds := k.ds }

/-- The lowest free slot of a core. -/
def Core.freeSlot (k : Core) : Nat := ((List.range 4).find? (fun i => (Tab.find k.slots i).isNone)).getD 0

/-- A member saves and leaves its core. -/
def State.saveMember (s : State) (h : Container) (r : NodeRec) (c : Nat) : State :=
  let k := s.core c
  match k.occ with
  | none => s
  | some o =>
    let v := k.saveOf o (h.safeRec r k.pc) (Tab.get 0 s.carve (dieOf c))
    s.setCore c { k.cleared with slots := Tab.set k.slots k.freeSlot v, occ := none }

/-- A task whose members have drained is saved and re-enters the tail of its level (04 R73, 19 R364); a fault that has
reached a member kills it. -/
def State.saveTask (s : State) (launch node : Nat) : State :=
  match s.nodeSt launch node, s.nodeHome launch node with
  | some n, some (h, r) =>
    if n.state == .preempting && n.atSafe then
      let ms := setCores n.first r.gang
      match s.gangFault ms with
      | some (m, f) => s.killByFault m f 0 0
      | none =>
        if ms.all (fun m => (s.core m).drained) then
          let s := ms.foldl (fun s m => s.saveMember h r m) s
          (s.modNode launch node (fun n => { n with askedAt := none, atSafe := false })).enqueue launch node .saved n.level
        else s
    else s
  | _, _ => s

/-- TASK_SAVE (19 R364, R367). -/
def execTaskSave (launch node : Nat) (s : State) : Host.Outcome State Fault Refusal := .next (s.saveTask launch node)

/-! Retiring a task (04 R81). -/

/-- The IP pages of a node, as ranges of physical addresses (14 R284). -/
def State.ipPages (s : State) (launch node : Nat) : List (Nat × Nat) :=
  let mine (l : Leaf) : Bool := l.p && l.type == 3 && l.ownL == launch && l.ownN == node
  (s.leaves.filter (fun e => mine e.2)).map (fun e => (frameAddr e.2.tier e.2.frame 0, 65536)) ++
  (s.bigLeaves.filter (fun e => mine e.2)).map (fun e => (frameAddr e.2.tier e.2.frame 0, 32 * 65536))

/-- The L2s write back and give up the lines of a node's IP pages; those of a page that moves stay until it has moved (20 R375; 13
R271). -/
def State.writeBackOwn (s : State) (launch node : Nat) : State :=
  let t := (s.ipPages launch node).foldl (fun s p => s.writeBackAll p.1 p.2) s
  { t with cached := t.cached.filter (fun c => !(c.leaf.type == 3 && c.leaf.ownL == launch && c.leaf.ownN == node)) }

/-- Whether some line of a node's IP pages is still dirty: END does not complete before its home has acknowledged it (20 R375). -/
def State.ownDirty (s : State) (launch node : Nat) : Bool :=
  !s.l2.isEmpty && (s.ipPages launch node).any (fun p => s.l2.any (fun d => d.2.any (fun e => p.1 ≤ e.1 && e.1 < p.1 + p.2)))

/-- Cores are released: nothing of the task stays but what the next placement clears (04 R81). -/
def State.releaseCores (s : State) (ms : List Nat) : State :=
  s.modCores (fun k => { k with occ := none, begun := false, rg := [] }) ms

/-- Successors' counts fall; a waiting one at zero becomes ready (04 R70, R71). -/
def State.decrement (s : State) (launch : Nat) (succ : List Nat) : State :=
  succ.foldl (fun s n => match s.nodeSt launch n with
    | some x =>
      let x := { x with deps := x.deps - 1 }
      let s := s.setNode launch n x
      if x.state == .waiting && x.deps == 0 then s.makeReady launch n else s
    | none => s) s

/-- Whether END has completed on a member, but for its IP pages: every request has landed (06 R130, 04 R81). -/
def Core.endDone (k : Core) : Bool :=
  k.ended && !k.killed && k.drained && k.land.isEmpty && k.shadow.isNone && k.trap.isNone && k.faults.isEmpty

/-- 04 R81: the task retires, or is killed for a failed copy; a terminal node without STEPEND strikes the step
(20 R384). -/
def State.retireTask (s : State) (launch node : Nat) : State :=
  match s.nodeSt launch node, s.nodeRec launch node, Tab.find s.launches launch with
  | some n, some r, some l =>
    let ms := setCores n.first r.gang
    if (n.state == .running || n.state == .preempting) && ms.all (fun m => (s.core m).endDone) then
      let s := s.writeBackOwn launch node
      if s.ownDirty launch node then s
      else if ms.any (fun m => (s.core m).engA.record.getLsbD 16 || (s.core m).engB.record.getLsbD 16) then s.killTask launch node 16
      else
        let s := (s.releaseCores ms).setNode launch node { n with state := .retired, reserve := none, askedAt := none }
        let s := s.decrement launch r.succ
        let s := if r.terminal && l.step && !l.stepend then s.strike 16 else s
        s.tryComplete launch
    else s
  | _, _, _ => s

/-- TASK_RETIRE (04 R81). -/
def execTaskRetire (launch node : Nat) (s : State) : Host.Outcome State Fault Refusal := .next (s.retireTask launch node)

/-! The round (04 R71). -/

/-- SCHEDULER_ROUND (04 R71): retirements, saves, entries, promotions, remedies and placements; kills have been applied
when they came. DESIGN CHOICE (log 47): tasks that enter one level in the same step of a round stand in the order of their launches
and nodes, or of the edges that made them ready (04 R73 orders them by their time of entry only). -/
def execSchedulerRound (s : State) : Host.Outcome State Fault Refusal :=
  let s := (s.nodesIn (fun n => n.state == .running || n.state == .preempting)).foldl (fun s x => s.retireTask x.launch x.node) s
  let s := (s.nodesIn (fun n => n.state == .preempting)).foldl (fun s x => s.saveTask x.launch x.node) s
  let s := (s.nodesIn (fun n => n.state == .loaded)).foldl (fun s x => s.enterNode x.launch x.node) s
  let s := s.candidates.foldl (fun s x => s.promoteNode x.launch x.node) s
  let s := s.candidates.foldl (fun s x => s.remedy x) s
  .next (s.candidates.foldl (fun s x => s.tryPlace x) s)

/-- QUEUE_PROMOTION (04 R74). -/
def execQueuePromotion (launch node : Nat) (s : State) : Host.Outcome State Fault Refusal := .next (s.promoteNode launch node)

/-- GANG_RESERVATION (04 R75): a ready gang of 2 or more has waited 64 microseconds without a reservation. A pre-emption request and
then a strike go before the reservation. -/
def execGangReservation (launch node : Nat) (s : State) : Host.Outcome State Fault Refusal :=
  .next (match s.nodeSt launch node, s.nodeRec launch node with
    | some n, some r =>
      if r.gang ≥ 2 && n.state == .ready && n.reserve.isNone && s.time ≥ n.readyAt + 64000 then s.remedy ⟨launch, node, n⟩ else s
    | _, _ => s)

/-- ESCALATION_TIMEOUT (04 R76, 19 R363, R371): the request's ESCAL has passed without a safe point. -/
def execEscalationTimeout (launch node : Nat) (s : State) : Host.Outcome State Fault Refusal :=
  .next (match s.nodeSt launch node with
    | some n => (match n.askedAt with
      | some t =>
        if n.state == .preempting && !n.atSafe && s.time ≥ t + n.escal * 1000 then s.killTask launch node 1 else s
      | none => s)
    | none => s)

/-! The end of a kill (19 R370) and of an abort (19 R373). -/

/-- Bytes that cancelled work of a core leaves undefined (12 R243, 17 R346); a copy that has performed and been acknowledged is
cancelled no more (12 R240). -/
def State.scrambleCore (s : State) (c : Nat) : State :=
  let k := s.core c
  let s := (k.engA.queue ++ k.engB.queue).foldl (fun s q => if q.failed || q.retired then s else s.scramble c q) s
  k.colls.foldl (fun s x => if x.done then s else s.collUndo c x) s

/-- Rows of a stopped run are undefined per byte (16 R323). -/
def State.scrambleRun (s : State) (r : NmRun) : State :=
  if !r.started then s
  else (r.streams.filter (fun t => t.valid && t.write)).foldl (fun s t =>
    s.freeBytes (s.rowIssuer r 0 0 0 0) t.ipa (512 * r.rows)) s

/-- The runs of killed cores leave their units (16 R323). -/
def State.dropRuns (s : State) (cs : List Nat) : State :=
  let dead := s.runs.filter (fun e => cs.contains e.2.core)
  let ids := dead.map (·.1)
  let s := dead.foldl (fun s e => s.scrambleRun e.2) s
  let s := { s with
    runs := s.runs.filter (fun e => !ids.contains e.1),
    units := s.units.map (fun (e : Nat × NmUnit) => (e.1, { e.2 with queue := e.2.queue.filter (fun n => !ids.contains n) })) }
  (s.units.filter (fun e => match e.2.run with | some n => ids.contains n | none => false)).foldl (fun s e => s.unitDone e.1) s

/-- Whether a page still holds a write that an engine, a near-memory run or a collective of a core has sent: KILL waits until it has
performed (13 R272, 19 R370), and then its bytes are undefined with those of the cancelled work. -/
def State.heldWrites (s : State) (c : Nat) : Bool :=
  s.waiting.any (fun w =>
    w.isHeld && (w.kd == .write || w.kd == .atomic) &&
      (match w.iss.key with
       | .copy x _ _ _ _ _ => x = c
       | .coll x _ _ => x = c
       | .row n _ _ _ _ => (match Tab.find s.runs n with | some r => r.core = c | none => false)
       | _ => false) &&
      (match s.pageChk w.iss w.kd w.ipa with | .held _ => true | _ => false))

/-- Whether every write that any path issued for a killed core's task has been acknowledged; reads in flight are discarded. -/
def Core.writesDone (k : Core) : Bool :=
  k.land.all (fun a => !a.open) && k.engA.queue.all (fun q => q.outst.isEmpty) && k.engB.queue.all (fun q => q.outst.isEmpty)

/-- No killed task still waits for its writes. -/
def State.killsDone (s : State) (f : Launch → Bool) : Bool :=
  s.launches.all (fun l => !f l.2 || l.2.nodes.all (fun n => !n.2.dying))

/-- STEP-CLOSE succeeds (03 R61): the state returns to NONE, and a margin plan that waited takes effect (21 R397). -/
def State.closeStep (s : State) (h : FrameHead) : State :=
  let code := if s.stepState = 6 then 1 else 2
  { s with stepState := 0, ctl := none }.takePlan.reply h 0x07 stOk 0
    (leBytes 1 code ++ leBytes 1 0 ++ leBytes 2 s.mergedWord.toNat)

/-- Whether a sector number lies in a page of tier 2 or 3, whose bits travel with its image (14 R281). -/
def awayKey (k : Nat) : Bool := 2 ^ 56 ≤ k

/-- Whether a sector number lies in a page whose image is on its way to the host: all of a 2 MiB page until its last part has been
confirmed (13 R267). -/
def State.goingKey (s : State) (k : Nat) : Bool :=
  s.transfers.any (fun e => !e.2.dirIn && (match s.walk (e.2.page * 65536) with
    | some r0 =>
      let r := s.wholeOf r0
      frameAddr r.leaf.tier r.leaf.frame 0 / 32 ≤ k && k < frameAddr r.leaf.tier r.leaf.frame 0 / 32 + 2048 * r.count
    | none => false))

/-- The written bits that a step has changed are as at STEP-OPEN; those of a page that has left the device, or leaves it, take
effect when its image comes back, and no copy of such a sector stays (14 R283). -/
def State.undoWritten (s : State) : State :=
  { s with
    written := (s.wosUndo.filter (fun e => !awayKey e.1)).foldl (fun t e => Tab.set t e.1 e.2) s.written,
    bitFix := (s.wosUndo.filter (fun e => awayKey e.1 || s.goingKey e.1)).foldl (fun t e => Tab.set t e.1 e.2) s.bitFix,
    cached := if s.wosUndo.isEmpty then s.cached else s.cached.filter (fun c => c.leaf.type != 2),
    wosUndo := [] }

/-- 19 R373 steps 2 to 4: the written bits, the step context block and the communicators are as at STEP-OPEN; a STEP-CLOSE
that waits succeeds. -/
def State.finishAbort (s : State) : State :=
  if s.abortWait && s.killsDone (·.step) then
    let s : State := { s.undoWritten with scb := s.snap, halted := [], abortWait := false }
    match s.ctl with
    | some (.stepClose h) => s.closeStep h
    | _ => s
  else s

/-- KILL answers when every task that it killed has ended (19 R370). -/
def State.finishKill (s : State) : State :=
  match s.ctl with
  | some (.kill h nodes) =>
    if nodes.all (fun e => match s.nodeSt e.1 e.2 with | some n => !n.dying | none => true) then
      { s.answer h 0x0D stOk with ctl := none }
    else s
  | _ => s

/-- A core that a killed task has left: nothing runs on it and nothing is in flight; registers, tables and local
memories stand as the kill left them, until the next placement clears them (15 R305, 04 R80). -/
def Core.left (k : Core) : Core :=
  { k with
    occ := none, begun := false, rg := [], land := [], lsWords := [], fences := [], lqHeld := [], score := [],
    engA := { k.engA with queue := [] }, engB := { k.engB with queue := [] }, nmRuns := [], colls := [] }

/-- KILL_COMPLETE (19 R370). -/
def execKillComplete (launch node : Nat) (s : State) : Host.Outcome State Fault Refusal :=
  .next (match s.nodeSt launch node with
    | some n =>
      let cs := s.nodeCores launch node
      if n.state == .killed && n.dying && cs.all (fun c => (s.core c).writesDone && !s.heldWrites c) then
        let s := cs.foldl (fun s c => (s.core c).lqHeld.foldl (fun s p => s.sendPush c p) (s.scrambleCore c)) s
        let s := s.dropRuns cs
        let s := s.modCores Core.left cs
        (((s.setNode launch node { n with dying := false }).tryComplete launch).finishAbort).finishKill
      else s
    | none => s)

end Sys2Proof.Machine
end

