-- ==== Sys2Proof/Machine/Halyard.lean ====
section
/-! DEFINITION. The step group: votes, verdicts and doubt (20 R385 to R392), and the commit (13 R263). -/

namespace Sys2Proof.Machine

/-! The tree word (20 R385). -/

def State.treeParent (s : State) : Nat := fld s.tree.toNat 15 0
def State.isRoot (s : State) : Bool := s.tree.getLsbD 16
def State.treeChildren (s : State) : List Nat :=
  (List.range (fld s.tree.toNat 20 18)).map (fun k => fld s.tree.toNat (16 * k + 47) (16 * k + 32))
def State.treeSize (s : State) : Nat := fld s.tree.toNat 160 144
def State.silentNs (s : State) : Nat := fld s.tree.toNat 191 176 * 100000
def State.doubtNs (s : State) : Nat := fld s.tree.toNat 207 192 * 100000

/-! Messages (20 R386). -/

def halBytes (m : HalMsg) : List Byte :=
  leBytes 1 m.kind ++ leBytes 1 m.verdict ++ leBytes 2 m.word.toNat ++ leBytes 4 m.attempt ++ leBytes 4 m.count ++ leBytes 4 0

/-- The message in a payload. -/
def halOf (l : List Byte) : HalMsg :=
  let f (a n : Nat) : Nat := ofLe ((l.drop a).take n)
  { kind := f 0 1, verdict := f 1 1, word := BitVec.ofNat 16 (f 2 2), attempt := f 4 4, count := f 8 4,
    reservedZero := f 12 4 == 0 }

/-- Whether a message is not discarded: no reserved value, and no field set that its kind does not use. -/
def halGood (m : HalMsg) : Bool :=
  m.reservedZero && (match m.kind with
    | 1 => m.verdict == 0
    | 2 => (m.verdict == 1 || m.verdict == 2) && m.count == 0
    | 3 => m.verdict == 0 && m.word == 0 && m.count == 0
    | 4 => m.verdict ≤ 2 && m.count == 0
    | _ => false)

def halMsg (kind verdict : Nat) (word : BitVec 16) (attempt count : Nat) : HalMsg :=
  { kind := kind, verdict := verdict, word := word, attempt := attempt, count := count, reservedZero := true }

/-- A message sent to a device; without a route it is lost. -/
def State.sendHal (s : State) (dst : Nat) (m : HalMsg) : State := (s.sendPacket 0 dst 0 [halBytes m]).getD s

def verdictCode (commit : Bool) : Nat := if commit then 1 else 2

/-! Verdicts (20 R389). -/

/-- The verdict event. -/
def State.verdictEvent (s : State) (v : Verdict) : State :=
  s.emit 0x83 (leBytes 4 v.attempt ++ leBytes 1 (verdictCode v.commit) ++ leBytes 1 0 ++ leBytes 2 v.word.toNat ++
    leBytes 2 s.ownWord.toNat ++ leBytes 6 0)

/-- A verdict stands: kept among the last 64, and nothing waits for it any more; every die invalidates its lines of versioned
pages (13 R247). -/
def State.standVerdict (s : State) (v : Verdict) (st : Nat) : State :=
  { s.dropVersioned with
    stepState := st, verdict := some v, mergedWord := v.word, voteReady := false, silenceAt := none,
    commitDue := none, last64 := lastN 64 (s.last64 ++ [v]) }

/-- ABORT by 19 R373. -/
def State.abortStep (s : State) (v : Verdict) : State :=
  let s := { (s.standVerdict v 7).verdictEvent v with abortWait := true }
  s.killStep.finishAbort

/-- The verdict of the open attempt: forwarded to every child, then applied; a commit takes effect in the cycle of
13 R263 (log 14). -/
def State.takeVerdict (s : State) (v : Verdict) : State :=
  let s := s.treeChildren.foldl (fun s c => s.sendHal c (halMsg 2 (verdictCode v.commit) v.word v.attempt 0)) s
  if v.commit then { s with commitDue := some v } else s.abortStep v

/-- The root's decision: logged before any DECIDE (20 R388). -/
def State.decide (s : State) (commit : Bool) (word : BitVec 16) : State :=
  let v : Verdict := ⟨s.attempt, commit, word⟩
  { s with verdictLog := Tab.set s.verdictLog (s.attempt % 4096) v }.takeVerdict v

/-- The words of the children, merged with the own word. -/
def State.mergedNow (s : State) : BitVec 16 := s.childVotes.foldl (fun w c => w ||| c.word) s.ownWord

def State.voteCount (s : State) : Nat := s.childVotes.foldl (fun n c => n + c.count) 1

def State.allVoted (s : State) : Bool := s.treeChildren.all (fun c => s.childVotes.any (fun v => v.src == c))

/-- Whether the device still votes: states 1 to 3, and no verdict of its own in flight. -/
def State.voting (s : State) : Bool := 1 ≤ s.stepState && s.stepState ≤ 3 && s.commitDue.isNone

/-- 20 R387, R388. -/
def State.vote (s : State) : State :=
  if s.voting && s.voteReady && s.allVoted then
    let w := s.mergedNow
    if s.isRoot then s.decide (s.voteCount == s.treeSize && w.toNat % 256 == 0) w
    else
      let s := s.sendHal s.treeParent (halMsg 1 0 w s.attempt s.voteCount)
      { s with stepState := 4, votedAt := s.time, voteReady := false }
  else s

/-- STEP_VOTE (20 R387, R388). -/
def execStepVote (s : State) : Host.Outcome State Fault Refusal := .next s.vote

/-- ROOT_SILENCE_TIMEOUT (20 R388): a vote is still missing. -/
def execRootSilenceTimeout (s : State) : Host.Outcome State Fault Refusal :=
  .next (match s.silenceAt with
    | some t => if s.isRoot && s.voting && !(s.voteReady && s.allVoted) && s.time ≥ t + s.silentNs then s.decide false (s.mergedNow ||| 0x40) else s
    | none => s)

/-- A child's VOTE for the open attempt; any other is discarded (20 R387). -/
def State.takeVote (s : State) (src : Nat) (m : HalMsg) : State :=
  if s.voting && m.attempt == s.attempt && s.treeChildren.contains src && !(s.childVotes.any (fun v => v.src == src)) then
    { s with childVotes := s.childVotes ++ [({ src := src, word := m.word, count := m.count } : ChildVote)] }.startSilence
  else s

/-- A verdict that reaches the device for its open attempt: a commit needs the device's own vote (20 R389, R390). -/
def State.learn (s : State) (m : HalMsg) : State :=
  let v : Verdict := ⟨m.attempt, m.verdict == 1, m.word⟩
  if m.attempt == s.attempt && s.commitDue.isNone && 1 ≤ s.stepState && s.stepState ≤ 5 &&
      (m.verdict == 2 || (m.verdict == 1 && 4 ≤ s.stepState)) then s.takeVerdict v
  else s

/-- A DECIDE raises `last` to its attempt (20 R389). -/
def State.takeDecide (s : State) (m : HalMsg) : State := { s with last := max s.last m.attempt }.learn m

/-- A verdict that the device's log or its last 64 hold (20 R390). -/
def State.known (s : State) (attempt : Nat) : Option Verdict :=
  match Tab.find s.verdictLog (attempt % 4096) with
  | some v => if v.attempt = attempt then some v else s.last64.find? (fun v => v.attempt = attempt)
  | none => s.last64.find? (fun v => v.attempt = attempt)

def State.takeQuery (s : State) (src : Nat) (m : HalMsg) : State :=
  match s.known m.attempt with
  | some v => s.sendHal src (halMsg 4 (verdictCode v.commit) v.word m.attempt 0)
  | none => s.sendHal src (halMsg 4 0 0 m.attempt 0)

/-- An ANSWER counts in doubt only (20 R390). -/
def State.takeAnswer (s : State) (m : HalMsg) : State := if s.stepState = 5 then s.learn m else s

/-- A message that arrives (20 R386). -/
def State.takeHalyard (s : State) (src : Nat) (m : HalMsg) : State :=
  if !halGood m then s.count tcHalyard
  else match m.kind with
    | 1 => s.takeVote src m
    | 2 => s.takeDecide m
    | 3 => s.takeQuery src m
    | _ => s.takeAnswer m

/-- HALYARD_VOTE (20 R387). -/
def execHalyardVote (src : Nat) (m : HalMsg) (s : State) : Host.Outcome State Fault Refusal :=
  .next (if halGood m then (if m.kind = 1 then s.takeVote src m else s) else s.count tcHalyard)

/-- HALYARD_DECIDE (20 R389). -/
def execHalyardDecide (_src : Nat) (m : HalMsg) (s : State) : Host.Outcome State Fault Refusal :=
  .next (if halGood m then (if m.kind = 2 then s.takeDecide m else s) else s.count tcHalyard)

/-- HALYARD_QUERY (20 R390). -/
def execHalyardQuery (src : Nat) (m : HalMsg) (s : State) : Host.Outcome State Fault Refusal :=
  .next (if halGood m then (if m.kind = 3 then s.takeQuery src m else s) else s.count tcHalyard)

/-- HALYARD_ANSWER (20 R390). -/
def execHalyardAnswer (_src : Nat) (m : HalMsg) (s : State) : Host.Outcome State Fault Refusal :=
  .next (if halGood m then (if m.kind = 4 then s.takeAnswer m else s) else s.count tcHalyard)

/-- IN_DOUBT (20 R390): the parent is out of reach, or DOUBT has passed since the vote. -/
def execInDoubt (routeLost : Bool) (s : State) : Host.Outcome State Fault Refusal :=
  let lost := (s.route s.deviceId s.treeParent none).isNone
  .next (if s.stepState = 4 && s.commitDue.isNone && ((routeLost && lost) || s.time ≥ s.votedAt + s.doubtNs) then
    { s with stepState := 5, lastQuery := s.time }
  else s)

/-- A message on one link, to the device at its other end. -/
def State.sendHalOn (s : State) (q : Nat) (m : HalMsg) : State :=
  s.sendOn q (mkFlit 0 0 true true (s.neighbour q) s.deviceId 0 (halBytes m))

/-- IN_DOUBT_QUERY (20 R390): every 1 ms a QUERY on every ACTIVE link and to the parent, and the event. -/
def execInDoubtQuery (s : State) : Host.Outcome State Fault Refusal :=
  .next (if s.stepState = 5 && s.time ≥ s.lastQuery + ms1 then
    let m := halMsg 3 0 0 s.attempt 0
    let qs := (List.range 6).filter (fun q => (s.link q).state == .active)
    let s := { s with lastQuery := s.time }
    let s := qs.foldl (fun s q => s.sendHalOn q m) s
    let s := if qs.any (fun q => s.neighbour q == s.treeParent) then s else s.sendHal s.treeParent m
    s.emit 0x84 (leBytes 4 s.attempt ++ leBytes 2 s.ownWord.toNat ++ leBytes 10 0)
  else s)

/-- ATTEMPT_TABLE_COMMIT (13 R263, 20 R389): the commit bit, the last committed step, COMMITTED and the verdict event. -/
def execAttemptTableCommit (s : State) : Host.Outcome State Fault Refusal :=
  .next (match s.commitDue with
    | some v =>
      let s := { s.standVerdict v 6 with
        commitBits := s.commitBits ||| BitVec.ofNat 4096 (2 ^ (v.attempt % 4096)), lastCommitted := s.scb.step }
      s.verdictEvent v
    | none => s)

end Sys2Proof.Machine
end

