-- ==== Sys2Proof/Machine/Links.lean ====
section
/-! DEFINITION. The receiving side of links and flows: acceptance and replay (17 R327, R328), protected groups (17 R335),
delivery by channel, training and the link states (17 R329 to R331), scale-out flows (17 R337). -/

namespace Sys2Proof.Machine

/-! Delivery (17 R332, R333, R338). -/

/-- Slots of a link-queue flit. -/
def Flit.slots (f : Sys2Proof.Flit) : Nat := f.len / 8

/-- Whether the first bundle of a core's task has issued, in this placement or before it was saved (04 R70). -/
def State.hasIssued (s : State) (c : Nat) : Bool :=
  match (s.core c).occ with
  | none => false
  | some o => match s.nodeSt o.launch o.node with
    | some n => n.state != .placed || n.restored
    | none => true

/-- Link-queue slots arrive at a core: into the queue of the link they came on; without a task past its first bundle
they are discarded and counted, and their credits return (11 R226). -/
def State.takeSlots (s : State) (q : Nat) (f : Sys2Proof.Flit) : State :=
  let c := f.core
  let n := Flit.slots f
  let k := s.core c
  let l := Tab.get [] k.lq q
  if k.begun && s.hasIssued c && l.length + n ≤ 512 then
    s.setCore c { k with lq := Tab.set k.lq q (l ++ (List.range n).map (fun i => BitVec.ofNat 64 (ofLe ((f.data.drop (8 * i)).take 8)))) }
  else (s.countN tcLqSlots n).giveCredit q c n

/-- The counts of a write packet (23 R404): whole sectors, or the granule of a COPYT or COPY2, which R404 has travel so too (log 16). -/
def packetCount (n : Nat) : Bool := (32 ≤ n && n ≤ 2048 && n % 32 = 0) || n = 1 || n = 2 || n = 4 || n = 8

/-- A write packet from its flits (23 R404); none when it is malformed. -/
def packetOf (fs : List Sys2Proof.Flit) : Option WritePkt :=
  match fs with
  | [] => none
  | h :: r =>
    let w := ofLe h.data
    let data := r.flatMap Flit.data
    let n := fld w 79 64
    if h.len = 16 && fld w 63 52 = 0 && fld w 95 91 = 0 && data.length = n && packetCount n &&
        fld w 51 0 / 2048 = (fld w 51 0 + n - 1) / 2048 then
      some { src := h.src, ipa := fld w 51 0, data := data, core := fld w 87 80,
             eng := if fld w 88 88 = 0 then .a else .b, step := fld w 89 89 == 1, arrivals := fld w 90 90 == 1,
             barrier := fld w 127 96 }
    else none

/-- A flit of a packet joins those that have come from its source, on whichever link: a link that goes DOWN sends what is left of a
packet the other way round (17 R331, R333). With EOP the packet is taken (23 R405). -/
def State.takeBulk (s : State) (f : Sys2Proof.Flit) : State :=
  let k := f.src * 8 + f.vc
  let fs := (if f.sop then [] else Tab.get [] s.bulk k) ++ [f]
  if f.eop then
    let s := { s with bulk := Tab.del s.bulk k }
    match packetOf fs with
    | some p => s.takeRemote (.write p 0)
    | none => s
  else { s with bulk := Tab.set s.bulk k fs }

/-- An acknowledgement of 23 R405. -/
def State.takeResponse (s : State) (f : Sys2Proof.Flit) : State :=
  let w := ofLe f.data
  if f.len = 16 then s.takeWriteAck f.src (fld w 63 0) (fld w 79 64) (fld w 87 80) (if fld w 88 88 = 0 then .a else .b) else s

/-- A data flit is delivered, or sent on (17 R332, R333). What VC 2, 3 and 6 carry is not given (log 16). -/
def State.deliverFlit (s : State) (key : Nat) (f : Sys2Proof.Flit) : State :=
  if f.vc = 7 then s.count tcVc7
  else if f.dst ≠ s.deviceId then
    (if f.vc = 4 then s
     else match s.route f.src f.dst (if key < 2 ^ 20 then some key else none) with
       | some k => s.sendOn k f
       | none => s)
  else match f.vc with
    | 0 => if f.len = 16 then s.takeHalyard f.src (halOf f.data) else s.count tcHalyard
    | 1 => s.takeResponse f
    | 4 => s.takeSlots key f
    | 5 => s.takeBulk f
    | _ => s

/-! Links that retrain or go DOWN (17 R329, R331). -/

/-- The widest lane group without a failed lane, as width code and group (17 R329). -/
def laneGroup (fails : Nat) : Option (Nat × Nat) :=
  if fails % 65536 = 0 then some (0, 0)
  else match (List.range 2).find? (fun g => fails / 2 ^ (8 * g) % 256 = 0) with
    | some g => some (1, g)
    | none => ((List.range 4).find? (fun g => fails / 2 ^ (4 * g) % 16 = 0)).map (fun g => (2, g))

/-- Whether a device is out of reach. -/
def State.cutOff (s : State) (dev : Nat) : Bool := (s.route s.deviceId dev none).isNone

/-- What of a copy can no longer be answered: bytes that were on their way to one of the devices, an element's update or a read at
a device out of reach; with the address and the IPA of the failure (17 R333). -/
def State.copyCut (s : State) (devs : List Nat) (q : Copy) : Option (Word × Nat) :=
  match q.outst.find? (fun o => devs.contains o.dev || (q.form == .copyr && s.cutOff o.dev)) with
  | some o => some (o.addr, o.ipa)
  | none => (q.asked.find? (fun a => s.cutOff a.2)).map (fun a => match q.source a.1 with
    | .at off => (entAddr q.tS off, 0)
    | _ => (entAddr q.tA (q.idxOff (q.piece a.1)), 0))

/-- What cannot be answered any more is not waited for. -/
def State.forget (s : State) (devs : List Nat) (q : Copy) : Copy :=
  { q with
    outst := q.outst.filter (fun o => !(devs.contains o.dev || (q.form == .copyr && s.cutOff o.dev))),
    asked := q.asked.filter (fun a => !(s.cutOff a.2)) }

/-- Requests at devices out of reach fail: copies, and collectives that still wait for such a member (17 R333, R345). -/
def State.failUnreached (s : State) (devs : List Nat) : State :=
  (Tab.keys s.cores).foldl (fun s c =>
    let s := [Eng.a, Eng.b].foldl (fun s e =>
      let x := (s.core c).engine e
      let hit := x.queue.find? (fun q => !q.failed && (s.copyCut devs q).isSome)
      let s := s.setCore c ((s.core c).setEngine e { x with queue := x.queue.map (s.forget devs) })
      match hit with
      | some q => (match s.copyOf c e q.id, State.copyCut s devs q with
        | some _, some (a, i) => s.copyFail c e q.id fcFabricUnreach a i
        | _, _ => s)
      | none => s.retireCopies c e) s
    (s.core c).colls.foldl (fun s x =>
      let w := s.comm x.comm
      let here := s.collHere x
      let gone := (commDevs w).any (fun d => d ≠ s.deviceId && s.cutOff d && !here.any (fun p => p.rank = commRank w d))
      if x.started && !x.done && x.fault.isNone && gone then s.collFail c x fcFabricUnreach x.desc 0 false else s) s) s

/-- A flit that a link leaves behind: lost on VC 4, else it turns and goes the other way round the ring, unless it has turned
before (17 R331, R333); the device that it does not reach is noted. -/
def State.reroute (s : State) (key : Nat) (f : Sys2Proof.Flit) : State × List Nat :=
  if f.kind ≠ 0 then (s, [])
  else if f.vc = 4 then ((s.countN tcLqSlots (Flit.slots f)).lqDone key [f], [])
  else
    let d := key / 2
    let turned := key ≥ 2 ^ 20 || (key % 2 == 0) != plusWay (s.ring d) (coord f.src d) (coord f.dst d)
    if !turned && (s.link (Nat.xor key 1)).state != .down then (s.sendOn (Nat.xor key 1) f, [])
    else (s, if f.src = s.deviceId && f.vc = 5 then [f.dst] else [])

/-- A link goes DOWN (17 R331). Numbering and keys start afresh when it trains again (log 38). -/
def State.linkDown (s : State) (key : Nat) : State :=
  let l := s.link key
  let left := l.unacked.map (·.2) ++ l.waiting
  let s := s.setLink key { l with
    state := .down, unacked := [], waiting := [], txSeq := 0, rxNext := 0, nakSent := false, again := [], txGroup := [],
    rxGroup := [], groupNo := [], rxGroupNo := [], txKey := [], rxKey := [], groupAt := [], closing := [], stopped := [],
    holding := [], ackSent := 4095, disagree := 0, sent := false, tagFails := 0 }
  let s := if 1 ≤ s.stepState && s.stepState ≤ 5 then s.pennonOr 128 else s
  let (s, devs) := left.foldl (fun (x : State × List Nat) f => let (s, d) := x.1.reroute key f; (s, x.2 ++ d)) (s, [])
  s.failUnreached devs

/-- A link retrains; without a usable lane group it goes DOWN (17 R329, R331). -/
def State.retrain (s : State) (key : Nat) : State :=
  let l := s.link key
  if (laneGroup l.laneFail.toNat).isNone then s.linkDown key
  else s.setLink key { l with state := .retrain, partnerAt := s.time, disagree := 0, sent := false }

/-! Acceptance (17 R328). -/

/-- A discarded data or tag flit: one NAK until the next accepted one. -/
def State.reject (s : State) (key : Nat) : State :=
  let l := s.link key
  if l.nakSent then s
  else (s.setLink key { l with nakSent := true }).txBare key 2 []

/-- What arrives on a link is noted. -/
def State.heard (s : State) (key : Nat) : State := s.setLink key { s.link key with lastRx := s.time, partnerAt := s.time }

/-- A flit with the number that is next in order is accepted. -/
def State.advance (s : State) (key : Nat) : State :=
  let l := s.link key
  s.setLink key { l with rxNext := (l.rxNext + 1) % 4096, nakSent := false }

/-- A data flit (17 R328, R335): delivered at once on a clear channel, held for its tag on a protected one. A flit that was
delivered before its channel's group was sent again is not delivered twice. -/
def State.takeData (s : State) (key : Nat) (f : Sys2Proof.Flit) : State :=
  let l := s.link key
  if l.state != .active then s
  else if !f.good then (s.count tcCrc).reject key
  else if f.kind ≠ 0 then s
  else
    let s := (s.heard key).takeAckNo key f.ack
    let l := s.link key
    if f.seqNo ≠ l.rxNext then s.reject key
    else
      let s := s.advance key
      let l := s.link key
      if l.again.contains f.seqNo then s.setLink key { l with again := l.again.erase f.seqNo }
      else if l.mode f.vc = 0 then s.deliverFlit key f
      else s.setLink key { l with rxGroup := Tab.set l.rxGroup f.vc (Tab.get [] l.rxGroup f.vc ++ [f]) }

/-- How far back a number lies from another. -/
def seqBack (a n : Nat) : Nat := (a + 4096 - n) % 4096

/-- A group whose tag failed is given up: reception goes back to its first flit, and flits of other channels delivered
since then are remembered (17 R328, R335). -/
def Link.giveUp (l : Link) (g : List Sys2Proof.Flit) : Link :=
  match g with
  | [] => l
  | f :: _ =>
    let far := seqBack l.rxNext f.seqNo
    let since (n : Nat) : Bool := seqBack l.rxNext n ≤ far
    let held := (l.rxGroup.flatMap (·.2)).map Flit.seqNo
    let done := ((List.range far).map (fun i => (f.seqNo + i) % 4096)).filter (fun n => !held.contains n)
    { l with
      rxNext := f.seqNo,
      again := done ++ l.again.filter (fun n => !done.contains n),
      rxGroup := l.rxGroup.map (fun e => (e.1, e.2.filter (fun x => !since x.seqNo))) }

/-- The training under whose key a group's tag checks: that of the channel's last released group or a later one, since a group
that is sent again keeps its bytes (17 R335; log 46). -/
def State.groupKey (s : State) (key : Nat) (f : Sys2Proof.Flit) (g : List Sys2Proof.Flit) (n : Nat) : Option Nat :=
  let l := s.link key
  ((List.range (l.keyNo + 1)).filter (Tab.get 0 l.rxKey f.vc ≤ ·)).find? (fun k =>
    f.data = padTo 16 (Config.groupTag (s.keyIn key k) n (groupAad g) (g.flatMap (·.payload))))

/-- Sixteen failed tags in a row take a link to RETRAIN and send the link security event (17 R335, 03 R63). -/
def State.tagLimit (s : State) (key vc : Nat) : State :=
  let l := s.link key
  ((s.setLink key { l with tagFails := 0 }).retrain key).emit 0x89
    (leBytes 1 (if key < 6 then key else 6 + (key - 2 ^ 20) / 65536) ++ leBytes 1 vc ++ leBytes 2 (s.peerOf key) ++
      leBytes 4 l.tagTotal ++ leBytes 8 0)

/-- A tag flit (17 R335). -/
def State.takeTag (s : State) (key : Nat) (f : Sys2Proof.Flit) : State :=
  let l := s.link key
  if l.state != .active then s
  else if !f.good then (s.count tcCrc).reject key
  else if f.kind ≠ 4 then s
  else
    let s := (s.heard key).takeAckNo key f.ack
    let l := s.link key
    if f.seqNo ≠ l.rxNext then s.reject key
    else if l.again.contains f.seqNo then
      let s := s.advance key
      s.setLink key { s.link key with again := l.again.erase f.seqNo }
    else
      let g := Tab.get [] l.rxGroup f.vc
      let n := Tab.get 0 l.rxGroupNo f.vc
      match s.groupKey key f g n with
      | some k =>
        let s := s.advance key
        let l := s.link key
        let s := s.setLink key { l with
          rxGroup := Tab.del l.rxGroup f.vc, rxGroupNo := Tab.set l.rxGroupNo f.vc (n + 1), rxKey := Tab.set l.rxKey f.vc k, tagFails := 0 }
        ((List.range g.length).zip g).foldl (fun s x => s.deliverFlit key
          (if l.mode f.vc = 2 then { x.2 with payload := streamed (s.keyIn key k) n (64 * x.1) x.2.payload } else x.2)) s
      | none =>
        let l := l.giveUp g
        let s := ((s.setLink key { l with
          tagFails := l.tagFails + 1, failVc := f.vc, tagTotal := min (2 ^ 32 - 1) (l.tagTotal + 1) }).count tcCrc).reject key
        if l.tagFails ≥ 15 then s.tagLimit key f.vc else s

/-- A NAK (17 R328). -/
def State.takeNak (s : State) (key : Nat) (f : Sys2Proof.Flit) : State :=
  if (s.link key).state != .active then s
  else if !f.good then s.count tcCrc
  else if f.kind ≠ 2 then s
  else ((s.heard key).takeAckNo key f.ack).resendAll key

/-- An idle flit (17 R327). -/
def State.takeIdle (s : State) (key : Nat) (f : Sys2Proof.Flit) : State :=
  if (s.link key).state != .active then s
  else if !f.good then s.count tcCrc
  else if f.kind ≠ 1 then s
  else (s.heard key).takeAckNo key f.ack

/-- DATA_FLIT (17 R328). -/
def execDataFlit (link : Nat) (fl : Sys2Proof.Flit) (s : State) : Host.Outcome State Fault Refusal :=
  .next (if link < 6 then s.takeData link fl else s)

/-- IDLE_FLIT (17 R327). -/
def execIdleFlit (link : Nat) (fl : Sys2Proof.Flit) (s : State) : Host.Outcome State Fault Refusal :=
  .next (if link < 6 then s.takeIdle link fl else s)

/-- NAK_FLIT (17 R328). -/
def execNakFlit (link : Nat) (fl : Sys2Proof.Flit) (s : State) : Host.Outcome State Fault Refusal :=
  .next (if link < 6 then s.takeNak link fl else s)

/-- TAG_FLIT (17 R335). -/
def execTagFlit (link : Nat) (fl : Sys2Proof.Flit) (s : State) : Host.Outcome State Fault Refusal :=
  .next (if link < 6 then s.takeTag link fl else s)

/-! Link states (17 R329 to R331). -/

/-- Credits owed while the link was not ACTIVE return (17 R338). -/
def State.payOwed (s : State) (key : Nat) : State :=
  let owed := (s.link key).owed
  let s := s.setLink key { s.link key with owed := [] }
  owed.foldl (fun s e => s.giveCredit key e.1 e.2) s

/-- The result word of a training (17 R330): width and group as the failed lanes leave them, the speed that training
settled on, and the MODE field. -/
def Link.resultWord (l : Link) (speed : Nat) : Nat :=
  let (w, g) := (laneGroup l.laneFail.toNat).getD (2, 0)
  w + 4 * g + 16 * speed + 32 * (l.word.toNat % 65536)

/-- This end's result word leaves in a training flit (17 R330; log 45). -/
def State.sendTraining (s : State) (key speed : Nat) : State :=
  let l := s.link key
  if (l.state == .train || l.state == .retrain) && (laneGroup l.laneFail.toNat).isSome then
    (s.setLink key { l with sent := true, lastRx := if l.sent then l.lastRx else s.time }).txBare key 3 (leBytes 8 (l.resultWord speed))
  else s

/-- A training has ended with equal words: the link is ACTIVE under new keys, and each flit after the last one that the other end
has acknowledged is sent again (17 R329, R330, R335). -/
def State.trained (s : State) (key speed ack : Nat) : State :=
  let l := s.link key
  let (w, g) := (laneGroup l.laneFail.toNat).getD (2, 0)
  let s := s.setLink key { l with
    state := .active, width := w, group := g, speed := speed, disagree := 0, sent := false, nakSent := false, keyNo := l.keyNo + 1 }
  (((s.payOwed key).coverAck key ack).resendAll key).pump key

/-- A training flit (17 R330), with the speed that this end has settled on: it sends its own word, unless that has left already in
this training. One that reaches an
ACTIVE link takes this end to RETRAIN with the other (R329). A fourth disagreement in a row takes the link DOWN. -/
def State.takeTraining (s : State) (key speed : Nat) (f : Sys2Proof.Flit) : State :=
  if !f.good then s.count tcCrc
  else if f.kind ≠ 3 then s
  else
    let s := if (s.link key).state == .active then s.retrain key else s
    let l := s.link key
    if !(l.state == .train || l.state == .retrain) then s
    else if (laneGroup l.laneFail.toNat).isNone then s.linkDown key
    else
      let s := s.setLink key { l with retrains := min 255 (l.retrains + 1), partnerAt := s.time, lastRx := s.time }
      let s := if l.sent then s else s.sendTraining key speed
      if l.resultWord speed = ofLe (f.payload.take 8) then s.trained key speed f.ack
      else
        let s := s.setLink key { s.link key with disagree := l.disagree + 1, sent := false }
        if l.disagree ≥ 3 then s.linkDown key else s

/-- TRAINING_FLIT (17 R330). -/
def execTrainingFlit (link speed : Nat) (fl : Sys2Proof.Flit) (s : State) : Host.Outcome State Fault Refusal :=
  .next (if link < 6 then s.takeTraining link (speed % 2) fl else s)

/-- TRAINING_DISAGREEMENT_LIMIT (17 R330): the fourth in a row. -/
def execTrainingDisagreementLimit (link : Nat) (s : State) : Host.Outcome State Fault Refusal :=
  .next (if link < 6 && (s.link link).disagree ≥ 4 then s.linkDown link else s)

/-- LINK_PARTNER_APPEARS (17 R331). -/
def execLinkPartnerAppears (link : Nat) (s : State) : Host.Outcome State Fault Refusal :=
  let l := s.link link
  .next (if link < 6 && l.enabled && (l.state == .off || l.state == .train) then
    s.setLink link { l with state := .train, partnerAt := s.time, sent := false }
  else s)

/-- LINK_PARTNER_TIMEOUT (17 R331): no partner for 1 ms while the link trains. -/
def execLinkPartnerTimeout (link : Nat) (s : State) : Host.Outcome State Fault Refusal :=
  let l := s.link link
  .next (if link < 6 && (l.state == .train || l.state == .retrain) && s.time ≥ l.partnerAt + ms1 then s.linkDown link else s)

/-- LANE_FAILURE (17 R329): the lane is noted; an ACTIVE link retrains. -/
def execLaneFailure (link lane : Nat) (s : State) : Host.Outcome State Fault Refusal :=
  let l := s.link link
  .next (if link < 6 && lane < 16 then
    let s := s.setLink link { l with laneFail := l.laneFail ||| BitVec.ofNat 16 (2 ^ lane) }
    if l.state == .active then s.retrain link
    else if (l.state == .train || l.state == .retrain) && (laneGroup (s.link link).laneFail.toNat).isNone then s.linkDown link
    else s
  else s)

/-- REPLAY_TIMEOUT (17 R328): no ACK for 2 microseconds. -/
def execReplayTimeout (link : Nat) (s : State) : Host.Outcome State Fault Refusal :=
  let l := s.link link
  .next (if !l.unacked.isEmpty && s.time ≥ l.lastAck + 2000 then s.resendAll link else s)

/-- TAG_GROUP_CLOSE (17 R335): 100 ns after a group's first flit. -/
def execTagGroupClose (link vc : Nat) (s : State) : Host.Outcome State Fault Refusal :=
  .next (match Tab.find (s.link link).groupAt vc with
    | some t => if (s.link link).state == .active && s.time ≥ t + 100 then s.closeGroup link vc else s
    | none => s)

/-- TAG_FAILURE_LIMIT (17 R335): sixteen in a row, the last of them on channel `vc`; RETRAIN and the link security event with that
channel (03 R63). -/
def execTagFailureLimit (link vc : Nat) (s : State) : Host.Outcome State Fault Refusal :=
  let l := s.link link
  .next (if l.state == .active && l.tagFails ≥ 16 && l.failVc = vc then s.tagLimit link vc else s)

/-! Scale-out flows (17 R337). -/

/-- A flit of a flow, handled as on a link. -/
def State.takeFlow (s : State) (key : Nat) (f : Sys2Proof.Flit) : State :=
  match f.kind with
  | 0 => s.takeData key f
  | 1 => s.takeIdle key f
  | 2 => s.takeNak key f
  | 3 => s.takeTraining key 0 f
  | 4 => s.takeTag key f
  | _ => if (s.link key).state == .active && !f.good then s.count tcCrc else s

/-- The device that an address of a scale-out port names (17 R337). -/
def State.portDev (s : State) (a : BitVec 128) : Option Nat :=
  let n := a.toNat
  if n / 2 ^ 64 = s.fprefix.toNat && n % 2 ^ 64 / 65536 ≤ 1 then some (n % 65536) else none

/-- SCALE_OUT_DATAGRAM (17 R337): from UDP port 38,413 of another device to that of this one's port; any other is dropped and
counted. -/
def execScaleOutDatagram (port : Nat) (dst : UdpEnd) (src : BitVec 128) (flits : List Sys2Proof.Flit) (s : State) :
    Host.Outcome State Fault Refusal :=
  .next (match s.portDev src with
    | some dev =>
      if port > 1 || dst.addr ≠ s.portAddr port s.deviceId || dst.port ≠ 38413 || flits.isEmpty || flits.length > 100 then s.count tcForeign
      else flits.foldl (fun s f => s.takeFlow (flowKey (dev % 2) dev) f) s
    | none => s.count tcForeign)

/-- FLOW_SILENCE_TIMEOUT (17 R337): nothing received for 1 ms after sending data or a training flit. -/
def execFlowSilenceTimeout (port dev : Nat) (s : State) : Host.Outcome State Fault Refusal :=
  let key := flowKey port dev
  let l := s.link key
  .next (if l.state != .off && l.state != .down && (l.sent || !l.unacked.isEmpty) && s.time ≥ l.lastRx + ms1 then s.linkDown key else s)

end Sys2Proof.Machine
end

