-- ==== Sys2Proof/Machine/MemServ.lean ====
section
/-! DEFINITION. Services of the memory side: moves of pages between tiers and transfers (13 R266 to R271), shootdowns
and changes of type (13 R258, 14 R289, R290), the scrubber and the opening of a step (13 R264, 03 R65). -/

namespace Sys2Proof.Machine

/-! Bytes of frames. -/

/-- Cells of [a, a + n) moved to b. -/
def Mem.move (m : Mem) (a b n : Nat) : Mem :=
  let own := m.filter (fun e => a ≤ e.1 && e.1 < a + n)
  applyCells ((m.clear a n).clear b n) (own.map (fun e => (b + (e.1 - a), e.2)))

/-- A block's newest committed data become the data of slot 0 there, final (13 R259, R266). -/
def State.settleBlock (s : State) (blk : Nat) (fin : Bool) : State :=
  let l := s.slotBytes (s.newest blk) (blk * 512) 512
  let s := { s with mem0 := s.mem0.writes (blk * 512) l, mem1 := s.mem1.clear (blk * 512) 512 }
  if fin then (s.setMd blk 0 (mdMake true true 0)).setMd blk 1 0
  else { s with slotMeta := Tab.del (Tab.del s.slotMeta (blk * 2)) (blk * 2 + 1) }

/-- The 128 blocks of a frame. -/
def frameBlocks (pa : Nat) : List Nat := (List.range 128).map (fun k => pa / 512 + k)

/-- Plain bytes become the versioned data of slot 0 (13 R259, 14 R290). -/
def State.versionFrame (s : State) (pa : Nat) : State :=
  (frameBlocks pa).foldl (fun s b => (s.setMd b 0 (mdMake true true 0)).setMd b 1 0) s

/-- Tables keyed by an address in units of n bytes, moved with a frame. -/
def shiftKeys {α : Type} (t : Tab α) (a b n : Nat) : Tab α :=
  let own := t.filter (fun e => a / n ≤ e.1 && e.1 < (a + 65536) / n)
  own.foldl (fun t e => Tab.set t (b / n + (e.1 - a / n)) e.2) (t.filter (fun e => e.1 < a / n || (a + 65536) / n ≤ e.1))

/-- What belongs to a frame and not to a mapping takes the frame's new place: its written bits, those that an abort would give
back and those that its image will find changed, its record, its lines in the home LLCs, and its dirty bytes (13 R266, R271;
14 R281, R283, R288; 19 R373). -/
def State.reKey (s : State) (a b : Nat) : State :=
  let line (n : Nat) : Nat := if a / 128 ≤ n && n < (a + 65536) / 128 then b / 128 + (n - a / 128) else n
  let sector (n : Nat) : Nat := if a / 32 ≤ n && n < (a + 65536) / 32 then b / 32 + (n - a / 32) else n
  { s with
    written := shiftKeys s.written a b 32,
    bitFix := shiftKeys s.bitFix a b 32,
    wosUndo := s.wosUndo.map (fun e => (sector e.1, e.2)),
    frames := shiftKeys s.frames a b 65536,
    llc := s.llc.map (fun d => (d.1, d.2.map (fun e => (line e.1, e.2)))),
    l2 := s.l2.map (fun d => (d.1, shiftKeys d.2 a b 1)) }

/-- One 64 KiB frame copied to another, with the newest data of its version blocks and what belongs to the frame (13 R266,
R271). -/
def State.copyFrame (s : State) (a b : Nat) (v : Bool) : State :=
  let s := if v then (frameBlocks a).foldl (fun s k => s.settleBlock k false) s else s
  let s := { s.reKey a b with mem0 := s.mem0.move a b 65536 }
  if v then s.versionFrame b else s

/-- Written bits that changed while a page was with the host, in the frame that its image has entered. -/
def State.fixBits (s : State) (a b : Nat) : State :=
  let own := s.bitFix.filter (fun e => a / 32 ≤ e.1 && e.1 < a / 32 + 2048)
  { s with
    written := own.foldl (fun t e => Tab.set t (b / 32 + (e.1 - a / 32)) e.2) s.written,
    bitFix := s.bitFix.filter (fun e => e.1 < a / 32 || a / 32 + 2048 ≤ e.1) }

/-! Ends of moves. -/

/-- TIER and FRAME of every entry that maps a page's frames are rewritten, those of its aliases among them, and MOV is
cleared. -/
def State.rehome (s : State) (r : PageRef) (t1 f1 : Nat) : State :=
  s.modShared r (fun l => ((l.put 11 10 t1).put 47 16 (f1 + (l.frame - r.leaf.frame))).put 13 13 0)

/-- The pages of a PAGE request, by their first 64 KiB pages. -/
def PageReq.pages (r : Sys2Proof.PageReq) : List Nat :=
  (List.range r.count).map (fun k => r.ipa / 65536 + k * (if r.flags.getLsbD 2 then 32 else 1))

def State.settled (s : State) (tier page : Nat) : Bool :=
  match s.walk (page * 65536) with
  | some r => r.leaf.tier == tier && !r.leaf.mov
  | none => true

/-- The moves that a PAGE demote or promote still lacks start, but for pages that move already; none when the space does not
suffice. -/
def State.startMoves (s : State) (tier : Nat) : List Nat → Option State
  | [] => some s
  | p :: l => match s.walk (p * 65536) with
    | some r =>
      if r.leaf.mov || r.leaf.tier = tier then s.startMoves tier l
      else (match s.startMove r tier with | some s => s.startMoves tier l | none => none)
    | none => s.startMoves tier l

/-- The waiting PAGE demote or promote answers once every page has come to its tier; a page that another move has taken
elsewhere moves again (13 R257, R270). -/
def State.finishMove (s : State) : State :=
  match s.ctl with
  | some (.move h tier pages) => (match s.startMoves tier pages with
    | none => { s.answer h 0x0C stNoSpace with ctl := none }
    | some s =>
      let left := pages.filter (fun p => !s.settled tier p)
      if left.isEmpty then { s.answer h 0x0C stOk with ctl := none } else { s with ctl := some (.move h tier left) })
  | _ => s

/-- A shootdown whose pages do not move marks their entries (13 R258, R272): what the translation units have accepted until now
performs under the old entries. A change of type releases the reads that wait for WOS sectors (14 R289). -/
def State.markShoots (s : State) : State :=
  let ready (h : Shoot) : Bool := !h.marked && h.pages.all (fun p => match s.walk (p * 65536) with | some r => !r.leaf.mov | none => true)
  let typed := (s.shoots.filter ready).flatMap (fun h => match h.op with | .setType _ _ => h.pages | _ => [])
  let t := { s with shoots := s.shoots.map (fun h => if ready h then { h with marked := true, before := s.heldAt h.pages } else h) }
  if typed.isEmpty then t else t.releaseWos typed

/-- The 64 KiB frames of a page. -/
def PageRef.framePas (r : PageRef) : List Nat := (List.range r.count).map (fun k => frameAddr r.leaf.tier (r.leaf.frame + k) 0)

/-- A move between tiers 0 and 1 ends, and so does a move in whose image has come (13 R271). -/
def State.endMove (s : State) (base : Nat) : State :=
  match Tab.find s.moves base, s.walk (base * 65536) with
  | some m, some r =>
    let to' (k : Nat) : Nat := frameAddr m.tier (m.frame + k) 0
    let s := ((List.range r.count).zip r.framePas).foldl (fun s e =>
      if r.leaf.tier ≤ 1 then s.copyFrame e.2 (to' e.1) r.leaf.v else (s.fixBits e.2 (to' e.1)).reKey e.2 (to' e.1)) s
    let s := (s.rehome r m.tier m.frame).giveFrames r.leaf.tier (r.unitsAt r.leaf.tier)
    { s with moves := Tab.del s.moves base }.markShoots.finishMove
  | _, _ => s

/-- Open transfers of the parts of a page. -/
def State.transfersOf (s : State) (r : PageRef) : List Nat :=
  (s.transfers.filter (fun e => r.base ≤ e.2.page && e.2.page < r.base + r.count)).map (·.1)

/-- PAGE_MOVE_END (13 R271): a move without a transfer ends. -/
def execPageMoveEnd (ipa : Nat) (s : State) : Host.Outcome State Fault Refusal :=
  .next (match s.walk ipa with
    | some r =>
      let r := s.wholeOf r
      if r.leaf.tier ≤ 1 && (s.transfersOf r).isEmpty then s.endMove r.base else s
    | none => s)

/-- The bytes of a page's image (13 R267). -/
def imageLen (wos : Bool) : Nat := if wos then 65792 else 65536

/-- An image byte of a page that leaves the device. -/
def State.imageByte (s : State) (r : PageRef) (page k : Nat) : Byte :=
  let pa := frameAddr r.leaf.tier (r.leaf.frame + (page - r.base)) 0
  if k < 65536 then
    (if r.leaf.v then (match s.newest ((pa + k) / 512) with | some n => s.slotByte n (pa + k) | none => 0) else s.plainByte (pa + k))
  else BitVec.ofNat 8 (((List.range 8).map (fun i => if s.isWritten (pa + ((k - 65536) * 8 + i) * 32) then 2 ^ i else 0)).foldl (· + ·) 0)

/-- A complete image is written into the frame of its move (13 R266, R267). -/
def State.storeImage (s : State) (t : Transfer) : State :=
  match s.walk (t.page * 65536) with
  | none => s
  | some r => match Tab.find s.moves r.base with
    | none => s
    | some m =>
      let pa := frameAddr m.tier (m.frame + (t.page - r.base)) 0
      let cells := (t.got.filter (fun e => e.1 < 65536)).map (fun e => (pa + e.1, e.2))
      let s := { s with mem0 := applyCells (s.mem0.clear pa 65536) cells }
      let s := if r.leaf.v then s.versionFrame pa else s
      if t.wos then
        (List.range 2048).foldl (fun s i =>
          if (Tab.get (0 : Byte) t.got (65536 + i / 8)).getLsbD (i % 8) then { s with written := Tab.set s.written (pa / 32 + i) true } else s) s
      else s

/-- A frame's bytes, version slots and written bits are gone; what an L2 holds dirty of it stays there. -/
def State.clearFrame (s : State) (pa : Nat) : State :=
  { s.dropLines pa 65536 with
    mem0 := s.mem0.clear pa 65536, mem1 := s.mem1.clear pa 65536,
    slotMeta := s.slotMeta.filter (fun e => e.1 < pa / 256 || pa / 256 + 256 ≤ e.1),
    written := s.written.filter (fun e => e.1 < pa / 32 || pa / 32 + 2048 ≤ e.1) }

/-- A transfer ends: an image has come in, or the host has confirmed one that went out (13 R267). A 2 MiB page moves when
its 32 parts have; the host's copy takes a number as a frame does (log 22). -/
def State.endTransfer (s : State) (id : Nat) : State :=
  match Tab.find s.transfers id with
  | none => s
  | some t =>
    let s := if t.dirIn then s.storeImage t else s
    let s := { s with transfers := Tab.del s.transfers id }
    match s.walk (t.page * 65536) with
    | none => s
    | some r =>
      if !(s.transfersOf r).isEmpty then s
      else if t.dirIn then s.endMove r.base
      else match s.takeFrames 2 r.count 0 with
        | none => s
        | some (s, f) =>
          let s := ((List.range r.count).zip r.framePas).foldl (fun s e => (s.clearFrame e.2).reKey e.2 (frameAddr 2 (f + e.1) 0)) s
          ((s.rehome r t.tier f).giveFrames r.leaf.tier (r.unitsAt r.leaf.tier)).markShoots.finishMove

/-- Every transfer of a page closes, and the page stays in its tier (13 R267). -/
def State.closeTransfers (s : State) (r : PageRef) : State :=
  let r := s.wholeOf r
  let ids := s.transfersOf r
  let s := match Tab.find s.moves r.base with
    | some m => s.giveFrames m.tier (r.unitsAt m.tier)
    | none => s
  let stays (e : Nat × Bool) : Bool := r.leaf.tier ≥ 2 || r.framePas.all (fun pa => e.1 < pa / 32 || pa / 32 + 2048 ≤ e.1)
  { s with
    transfers := s.transfers.filter (fun e => !ids.contains e.1), moves := Tab.del s.moves r.base,
    bitFix := s.bitFix.filter stays }.setMov (r.base * 65536) false |>.markShoots

/-- A waiting PAGE demote or promote of the page is answered with LOST (13 R267). -/
def State.loseMove (s : State) (r : PageRef) : State :=
  match s.ctl with
  | some (.move h _ pages) =>
    if pages.any (fun p => (s.sharedPages (s.wholeOf r)).contains p) then { s.answer h 0x0C stLost with ctl := none } else s
  | _ => s

/-- DEMOTION_ABANDONED (13 R267): the host has not confirmed within 100 ms. -/
def execDemotionAbandoned (transfer : Nat) (s : State) : Host.Outcome State Fault Refusal :=
  .next (match Tab.find s.transfers transfer with
    | some t =>
      if !t.dirIn && s.time ≥ t.since + ms100 then
        (match s.walk (t.page * 65536) with
         | some r => (s.closeTransfers r).loseMove r
         | none => { s with transfers := Tab.del s.transfers transfer })
      else s
    | none => s)

/-! Warmth, demotion and promotion (13 R268 to R270). -/

/-- WARM_DECAY (13 R268). -/
def execWarmDecay (s : State) : Host.Outcome State Fault Refusal :=
  .next (if s.time ≥ s.lastDecay + ms1 then
    let half (t : Tab Leaf) : Tab Leaf := t.map (fun e => (e.1, e.2.put 55 48 (e.2.warm / 2)))
    { s with leaves := half s.leaves, bigLeaves := half s.bigLeaves, lastDecay := s.time }
  else s)

/-- Every mapped page, with the entry of the die where its first 64 KiB are at home. -/
def State.allPages (s : State) : List PageRef :=
  (s.bigLeaves.filter (fun e => e.2.p && e.1 / 2 ^ 31 == homeDie (e.1 % 2 ^ 31 * 2 ^ 21))).map (fun e => (⟨true, e.1, e.2, 0⟩ : PageRef)) ++
  (s.leaves.filter (fun e => e.2.p)).map (fun e => (⟨false, e.1, e.2, 0⟩ : PageRef))

/-- Pages, each frame once: an alias of a page listed before is left out (14 R287). -/
def ownPages (l : List PageRef) : List PageRef :=
  l.foldl (fun acc r => if acc.any (fun x => r.leaf.within x.leaf.tier x.leaf.frame x.count) then acc else acc ++ [r]) []

/-- The victim of a demotion on a die (13 R268): unpinned, not moving, least WARM, then the lowest IPA. -/
def State.victim (s : State) (tier die : Nat) : Option PageRef :=
  (s.allPages.filter (fun r => r.leaf.tier = tier && homeDie (r.base * 65536) = die && !r.leaf.mov &&
      !(r.leaf.v && s.stepOpenNow) && !(s.shoots.any (fun h => h.pages.contains r.base)))).foldl
    (fun (b : Option PageRef) r => match b with
      | none => some r
      | some x => if r.leaf.warm < x.leaf.warm || (r.leaf.warm = x.leaf.warm && r.base < x.base) then some r else some x) none

/-- Units of a tier that pages already on their way out will free. -/
def State.leaving (s : State) (tier : Nat) : Nat :=
  ((ownPages (s.allPages.filter (fun r => r.leaf.tier = tier && r.leaf.mov))).map (fun r => r.unitsAt tier)).foldl (· + ·) 0

/-- Pages of tier 2, in 64 KiB units. -/
def State.hostPages (s : State) : Nat := ((ownPages (s.allPages.filter (fun r => r.leaf.tier = 2))).map (·.count)).foldl (· + ·) 0

def markLow (w : BitVec 128) : Nat := fld w.toNat 31 0
def markHigh (w : BitVec 128) : Nat := fld w.toNat 63 32
def markPool (w : BitVec 128) : Nat := fld w.toNat 95 64

/-- Demotions of one die until HIGH, or until no victim or no space remains (13 R270). -/
def State.demoteMore (s : State) (tier die : Nat) : Nat → State
  | 0 => s
  | fuel + 1 =>
    if Tab.get 0 s.freePages tier + s.leaving tier ≥ markHigh (Tab.get 0 s.marks tier) then s
    else match s.victim tier die with
      | none => s
      | some r =>
        let room := tier = 0 || s.hostPages + (s.wholeOf r).count ≤ markPool (Tab.get 0 s.marks 2)
        if !room then s
        else match s.startMove r (tier + 1) with
          | some s => State.demoteMore s tier die fuel
          | none => s

/-- TIER_DEMOTION (13 R270). -/
def execTierDemotion (tier die : Nat) (s : State) : Host.Outcome State Fault Refusal :=
  .next (if tier ≤ 1 && die < 4 && Tab.get 0 s.freePages tier < markLow (Tab.get 0 s.marks tier) then
    s.demoteMore tier die s.allPages.length
  else s)

/-- WARM_PROMOTION (13 R270). -/
def execWarmPromotion (ipa : Nat) (s : State) : Host.Outcome State Fault Refusal :=
  .next (match s.walk ipa with
    | some r =>
      if r.leaf.tier = 1 && !r.leaf.mov && r.leaf.warm ≥ 128 && Tab.get 0 s.freePages 0 > markHigh (Tab.get 0 s.marks 0) then
        (s.startMove r 0).getD s
      else s
    | none => s)

/-! Shootdowns (13 R258). -/

/-- Steps 2 and 3 of a shootdown: translations dropped, dirty lines written back, copies invalidated. -/
def State.shootPage (s : State) (r : PageRef) : State :=
  let mine (e : Nat) : Bool := if r.big then e % 2 = 1 && e / 2 % 2 ^ 31 = r.key % 2 ^ 31 else e = r.entry
  let s := { s.dropCached none (r.base * 65536) (65536 * r.count) with tlb := s.tlb.filter (fun e => !mine e) }
  if r.leaf.tier ≥ 2 || r.leaf.v then s else s.writeBackAll (frameAddr r.leaf.tier r.leaf.frame 0) (65536 * r.count)

/-- P := 0, and each frame that no mapping is left of is freed (13 R257, 14 R287). -/
def State.unmapPage (s : State) (r : PageRef) : State :=
  r.framePas.foldl (fun s pa => match Tab.find s.frames (pa / 65536) with
    | some f =>
      if f.maps > 1 then { s with frames := Tab.set s.frames (pa / 65536) { f with maps := f.maps - 1 } }
      else
        let s := ((s.dropDirty pa 65536).clearFrame pa).giveFrames r.leaf.tier (unitsAt r.leaf.tier 1 r.leaf.v)
        { s with
          frames := Tab.del s.frames (pa / 65536),
          bitFix := s.bitFix.filter (fun e => e.1 < pa / 32 || pa / 32 + 2048 ≤ e.1),
          wosUndo := s.wosUndo.filter (fun e => e.1 < pa / 32 || pa / 32 + 2048 ≤ e.1) }
    | none => s) (s.delLeaf r)

/-- Permissions and marks of a leaf from plan flags (02 R45, 13 R253). -/
def Leaf.setFlags (l : Leaf) (type : Nat) (f : BitVec 8) : Leaf :=
  let b (n : Nat) : Nat := if f.getLsbD n then 1 else 0
  (((((l.put 2 1 type).put 3 3 (b 0)).put 4 4 (b 1)).put 7 7 1).put 8 8 (b 3)).put 9 9 (b 4)

/-- Written bits of a frame all set or all dropped (14 R290); those of a page that the host holds are set in its image as it
comes back. -/
def State.fillWritten (s : State) (pa : Nat) (b : Bool) : State :=
  let out {α : Type} (t : List (Nat × α)) : List (Nat × α) := t.filter (fun e => e.1 < pa / 32 || pa / 32 + 2048 ≤ e.1)
  let all (t : Tab Bool) : Tab Bool := if b then (List.range 2048).foldl (fun t i => Tab.set t (pa / 32 + i) true) (out t) else out t
  let s := { s with wosUndo := out s.wosUndo }
  if awayKey (pa / 32) then { s with bitFix := all s.bitFix } else { s with written := all s.written }

/-- The new TYPE and flags of a page with the effects of 14 R290. -/
def State.retypePage (s : State) (r : PageRef) (type : Nat) (flags : BitVec 8) : State :=
  let l := r.leaf
  let v := flags.getLsbD 0
  let held := l.tier ≤ 1
  let s := if (type = 2) ≠ (l.type = 2) then r.framePas.foldl (fun s pa => s.fillWritten pa (type = 2)) s else s
  let s := if held && v && !l.v then r.framePas.foldl (fun s pa => s.versionFrame pa) s else s
  let s := if held && !v && l.v then
      r.framePas.foldl (fun s pa => (frameBlocks pa).foldl (fun s k => s.settleBlock k false) s) s
    else s
  let free := Tab.get 0 s.freePages l.tier + r.unitsAt l.tier - unitsAt l.tier r.count v
  let s := if held then { s with freePages := Tab.set s.freePages l.tier free } else s
  let s := { s with frames := r.framePas.foldl (fun t pa => match Tab.find t (pa / 65536) with
      | some f => Tab.set t (pa / 65536) { f with type := type }
      | none => Tab.set t (pa / 65536) ⟨type, 1⟩) s.frames }
  s.modPage r (fun l =>
    let x := l.setFlags type flags
    if type = 3 && l.type = 3 then x else (x.put 95 64 0).put 111 96 0)

/-- PAGE set type answers when the accesses that it held have performed (14 R289). -/
def State.finishShoot (s : State) : State :=
  match s.ctl with
  | some (.shootHeld h keys) =>
    if keys.any (fun k => s.keyLive k && (match s.waitOf k with | some w => w.isHeld | none => false)) then s
    else { s with ctl := none }.answer h 0x0C stOk
  | _ => s

/-- SHOOTDOWN_COMPLETE (13 R258, 14 R289): every cache has acknowledged; the operation takes effect, and PAGE answers, a change
of type once what it held has performed. It waits while a page of the range moves, and for the accesses that were accepted before
the mark. -/
def execShootdownComplete (index : Nat) (s : State) : Host.Outcome State Fault Refusal :=
  .next (match s.shoots[index]? with
    | none => s
    | some h =>
      let refs := h.pages.filterMap (fun p => s.walk (p * 65536))
      if !h.marked || refs.any (fun r => r.leaf.mov) ||
          h.before.any (fun k => s.keyLive k && (match s.waitOf k with | some w => w.isHeld | none => false)) then s
      else
        let s := h.pages.foldl (fun s p => match s.walk (p * 65536) with
          | none => s
          | some r =>
            if r.base ≠ p then s
            else
              let s := s.shootPage r
              (match h.op with
               | .unmap => s.unmapPage r
               | .setType type flags => s.retypePage r type flags
               | .only => s)) s
        let keys := match h.op with | .setType _ _ => s.heldAt h.pages | _ => []
        { s with shoots := s.shoots.eraseIdx index, ctl := some (.shootHeld h.head keys) }.finishShoot)

/-! The scrubber (13 R264). -/

/-- Tags from a first one, n of them, modulo 4,096. -/
def tagsFrom (first n : Nat) : List Nat := (List.range (min n 4096)).map (fun k => (first + k) % 4096)

/-- The scrub set of 13 R264. -/
def State.scrubSet (s : State) : List Nat :=
  match s.openWait with
  | some w => w.set
  | none => tagsFrom (s.last + 1) 1

/-- A slot of a block loses VAL when no attempt can still commit it. -/
def State.scrubDead (s : State) (blk t : Nat) : State :=
  let m := s.slotMd blk t
  let mine := s.stepOpenNow && mdTag m == s.attempt % 4096
  if mdVal m && !mdFin m && !s.commitBits.getLsbD (mdTag m) && !mine then s.setMd blk t (mdMake false false (mdTag m)) else s

/-- A committed slot whose tag leaves the window. -/
def State.scrubTag (s : State) (blk t i : Nat) : State :=
  let m := s.slotMd blk t
  let o := s.slotMd blk (1 - t)
  if s.committed m && !mdFin m && mdTag m == i then
    if s.committed o && s.age o < s.age m then s.setMd blk t (mdMake false false (mdTag m))
    else
      let s := s.setMd blk t (mdMake true true (mdTag m))
      if mdFin o then s.setMd blk (1 - t) (mdMake false true (mdTag o)) else s
  else s

/-- Whether a block holds a slot that the scrub set names. -/
def State.scrubFinds (s : State) (blk : Nat) (set : List Nat) : Bool :=
  [0, 1].any (fun t => let m := s.slotMd blk t; mdVal m && !mdFin m && set.contains (mdTag m))

/-- The versioned tier-0 page that a block belongs to. -/
def State.blockPage (s : State) (blk : Nat) : Option PageRef :=
  s.allPages.find? (fun r => r.leaf.v && r.leaf.tier = 0 && r.leaf.frame ≤ blk / 128 && blk / 128 < r.leaf.frame + r.count)

/-- Blocks whose metadata a pass meets: the others hold nothing. -/
def State.scrubBlocks (s : State) : List Nat :=
  ((s.slotMeta.map (fun e => e.1 / 2)).eraseDups).filter (fun b => (s.blockPage b).isSome)

/-- A pass has visited a block. -/
def State.visited (s : State) (block : Nat) (found : Bool) : State :=
  match s.openWait with
  | none => s
  | some w =>
    let w := { w with todo := w.todo.filter (· != block), found := w.found || found }
    { s with openWait := some (if w.todo.isEmpty && w.found then { w with todo := s.scrubBlocks, found := false } else w) }

/-- SCRUBBER_VISIT (13 R264): one update of a block; a block of a moving page is skipped (13 R272), and one whose page has
left tier 0 has no slots any more. -/
def execScrubberVisit (block : Nat) (s : State) : Host.Outcome State Fault Refusal :=
  .next (match s.blockPage block with
    | none => s.visited block false
    | some r =>
      if r.leaf.mov then s
      else
        let set := s.scrubSet
        let found := s.scrubFinds block set
        let s := (s.scrubDead block 0).scrubDead block 1
        let s := set.foldl (fun s i => (s.scrubTag block 0 i).scrubTag block 1 i) s
        s.visited block found)

/-- The fields that a STEP-OPEN loads (03 R64). -/
def Scb.load (b : Scb) (o : OpenReq) (attempt : Nat) : Scb :=
  { seed := if o.flags.getLsbD 0 then o.seed else b.seed,
    cursor := if o.flags.getLsbD 1 then (List.range 8).zip o.cursors else b.cursor,
    seq := if o.flags.getLsbD 2 then (List.range 16).zip o.counters else b.seq,
    step := o.step, attempt := attempt,
    threshold := if o.flags.getLsbD 3 then o.threshold else b.threshold }

/-- STEP_OPEN_COMPLETION (03 R65, 13 R264): every channel has completed a pass that found no slot of the set. -/
def execStepOpenCompletion (s : State) : Host.Outcome State Fault Refusal :=
  .next (match s.openWait with
    | none => s
    | some w =>
      if !w.todo.isEmpty || w.found then s
      else
        let bits := s.scrubSet.foldl (fun (b : BitVec 4096) i => b &&& ~~~(BitVec.ofNat 4096 (2 ^ i))) s.commitBits
        let scb := s.scb.load w.req w.attempt
        let s := { s with
          commitBits := bits, scb := scb, snap := scb, last := w.attempt, attempt := w.attempt, stepState := 1,
          ownWord := 0, mergedWord := 0, verdict := none, voteReady := false, childVotes := [], silenceAt := none,
          wosUndo := [], halted := [], openWait := none, ctl := none, commitDue := none }
        s.reply w.head 0x06 stOk 0 (leBytes 4 w.attempt))

end Sys2Proof.Machine
end

