-- ==== Sys2Proof/Machine/Load.lean ====
section
/-! DEFINITION. The checks of a container in the order of their codes (02 R43 to R50), and the loading of its plan
regions (03 R61, 13 R253, R259, R269). -/

namespace Sys2Proof.Machine

/-! Fields. -/

/-- An n-byte little-endian field of a byte list. -/
def fieldAt (b : List Byte) (a n : Nat) : Nat := ofLe ((b.drop a).take n)

/-- A section-table entry (02 R44). -/
structure SecEnt where
  kind : Nat
  off : Nat
  size : Nat
  count : Nat
  deriving DecidableEq, Repr

def secEnt (b : List Byte) (t i : Nat) : SecEnt :=
  { kind := fieldAt b (t + 32 * i) 2, off := fieldAt b (t + 32 * i + 8) 8, size := fieldAt b (t + 32 * i + 16) 8,
    count := fieldAt b (t + 32 * i + 24) 4 }

/-- The section table, when it lies in the container. -/
def secTable (b : List Byte) : List SecEnt :=
  let n := fieldAt b 8 2
  let t := fieldAt b 24 8
  if t + 32 * n ≤ b.length then (List.range n).map (secEnt b t) else []

/-- The bytes of a section. -/
def secBytes (b : List Byte) (e : SecEnt) : List Byte := (b.drop e.off).take e.size

def sectionAt (b : List Byte) (l : List SecEnt) (i : Nat) : List Byte :=
  match l[i]? with | some e => secBytes b e | none => []

def kindAt (l : List SecEnt) (i : Nat) : Nat := match l[i]? with | some e => e.kind | none => 0

/-! 0x04 BADSECTION. -/

/-- Entries that a presence mask names. -/
def present (mask width : Nat) : List Nat := (List.range width).filter (fun n => mask / 2 ^ n % 2 = 1)

/-- Whether a section's size matches its records (02 R44, R47, R49); the records of a graph are its nodes and edges
(log 39). -/
def sizeOk (b : List Byte) (e : SecEnt) : Bool :=
  let x := secBytes b e
  match e.kind with
  | 1 => e.count = 0
  | 2 => e.count = 0
  | 3 => e.size = 32 * e.count
  | 4 => e.count = (present (ofLe (x.take 32)) 256).length && e.size = 32 + 64 * e.count
  | 5 => e.count = 16 && e.size = 16 + 16 * 64
  | 6 => e.size ≥ 32 && e.size = 32 + 64 * fieldAt x 0 4 + 4 * fieldAt x 4 4 && e.count = fieldAt x 0 4 + fieldAt x 4 4
  | 7 => e.size = 16 * e.count
  | 8 => e.size = 216 * e.count
  | 9 => e.size = 8 * e.count
  | _ => false

/-- Pairs of a list that do not meet. -/
def apart : List (Nat × Nat) → Bool
  | [] => true
  | (a, n) :: r => r.all (fun e => n = 0 || e.2 = 0 || a + n ≤ e.1 || e.1 + e.2 ≤ a) && apart r

/-- 02 R44: counts, places and sizes. What a string table holds and the name offsets into it are not checked (log 39). -/
def sectionsOk (b : List Byte) (l : List SecEnt) : Bool :=
  let n := fieldAt b 8 2
  let t := fieldAt b 24 8
  1 ≤ n && n ≤ 4096 && t % 64 = 0 && fieldAt b 16 8 = b.length && b.length ≤ 2 ^ 32 && l.length = n &&
    apart ((0, 64) :: (t, 32 * n) :: l.map (fun e => (e.off, e.size))) &&
    l.all (fun e => e.off % 64 = 0 && e.off + e.size ≤ b.length && sizeOk b e) &&
    (l.filter (fun e => e.kind = 1)).length = 1

/-! 0x05 BADRESERVED (00 R9). -/

/-- Reserved bits of a table entry and of a shape register (07 R149, 12 R231). -/
def wideClean (shape : Bool) (w : Nat) : Bool :=
  if shape then fld w 511 500 = 0
  else fld w 63 60 = 0 && fld w 75 75 = 0 && fld w 95 88 = 0 && fld w 351 346 = 0 && fld w 415 409 = 0 && fld w 511 481 = 0

/-- Reserved fields of a section's records. -/
def cleanSection (b : List Byte) (e : SecEnt) : Bool :=
  let x := secBytes b e
  let f (a n : Nat) : Nat := fieldAt x a n
  match e.kind with
  | 3 => (List.range e.count).all (fun i => f (32 * i + 16) 1 / 4 = 0 && f (32 * i + 17) 1 / 32 = 0 && f (32 * i + 19) 1 = 0 &&
      f (32 * i + 28) 4 = 0)
  | 4 => (List.range e.count).all (fun i => wideClean false (f (32 + 64 * i) 64))
  | 5 => f 1 1 = 0 && f 4 12 = 0 && (List.range 16).all (fun i => wideClean true (f (16 + 64 * i) 64))
  | 6 =>
    let n := f 0 4
    f 8 4 / 2 = 0 && f 20 12 = 0 &&
      (List.range n).all (fun i => let a := 32 + 64 * i
        f (a + 4) 2 / 1024 = 0 && f (a + 7) 1 / 2 = 0 && f (a + 13) 1 = 0 && f (a + 31) 1 = 0 && f (a + 56) 8 = 0) &&
      (List.range (f 4 4)).all (fun i => f (32 + 64 * n + 4 * i + 2) 2 = 0)
  | 7 => (List.range e.count).all (fun i => f (16 * i + 6) 2 = 0)
  | 8 => (List.range e.count).all (fun i => f (216 * i + 4) 4 = 0 && f (216 * i + 21) 3 = 0)
  | _ => true

def reservedOk (b : List Byte) (l : List SecEnt) : Bool :=
  let t := fieldAt b 24 8
  fieldAt b 6 2 / 2 = 0 && fieldAt b 10 2 = 0 &&
    (List.range l.length).all (fun i => fieldAt b (t + 32 * i + 2) 2 = 0 && fieldAt b (t + 32 * i + 28) 4 = 0) &&
    l.all (cleanSection b)

/-! 0x06 BADPLAN (02 R45, R46). -/

def planRecOf (x : List Byte) (i : Nat) : PlanRec :=
  let f (a n : Nat) : Nat := fieldAt x (32 * i + a) n
  { vbase := BitVec.ofNat 64 (f 0 8), size := f 8 8, type := f 16 1, flags := BitVec.ofNat 8 (f 17 1), tier := f 18 1,
    image := f 20 4 }

/-- The bytes of the memory plan. -/
def planBytes (b : List Byte) (l : List SecEnt) : List Byte :=
  (l.filter (fun e => e.kind = 3)).flatMap (secBytes b)

def planOf (b : List Byte) (l : List SecEnt) : List PlanRec :=
  let x := planBytes b l
  (List.range (x.length / 32)).map (planRecOf x)

/-- The page size of a region (02 R45). -/
def pageSize (f : BitVec 8) : Nat := if f.getLsbD 2 then 2 ^ 21 else 65536

/-- Type and flags that 02 R46 allows together. -/
def flagsOk (type : Nat) (f : BitVec 8) : Bool :=
  !(f.getLsbD 0 && (type = 1 || type = 2)) && !(f.getLsbD 1 && type ≠ 0) && !(f.getLsbD 3 && f.getLsbD 4)

/-- A plan record (02 R45, R46); its end must fit LIMIT of a range register (04 R78, R79; log 39). -/
def planRecOk (l : List SecEnt) (p : PlanRec) : Bool :=
  let z := pageSize p.flags
  p.vbase.toNat % z = 0 && p.size % z = 0 && p.size > 0 && p.vbase.toNat + p.size < 2 ^ 57 && p.tier ≤ 3 && flagsOk p.type p.flags &&
    (p.image = 0xFFFFFFFF || (p.type ≠ 2 && kindAt l p.image = 2 &&
      (match l[p.image]? with | some e => e.size ≤ p.size | none => false)))

/-! Graphs (02 R47, R48). -/

def nodeRecOf (x : List Byte) (edges i : Nat) : NodeRec :=
  let f (a n : Nat) : Nat := fieldAt x (32 + 64 * i + a) n
  { gang := f 2 1, prio := f 3 1, layer := BitVec.ofNat 10 (f 4 2), die := f 6 1, terminal := f 7 1 % 2 = 1, entry := f 8 4,
    entryRegion := f 12 1, tensors := f 14 2, shapesA := f 16 2, shapesB := f 18 2, deps := f 20 2,
    succ := (List.range (f 22 2)).map (fun k => fieldAt x (edges + 4 * (f 24 4 + k)) 2), safePoints := f 28 2,
    argRegion := f 30 1, regions := (List.range 16).map (fun k => f (32 + k) 1), argOff := f 48 4, argSize := f 52 4 }

def graphOf (x : List Byte) : Graph :=
  let n := fieldAt x 0 4
  let t := fieldAt x 12 4
  { step := fieldAt x 8 4 % 2 = 1, terminal := if t = 0xFFFFFFFF then none else some t,
    nodes := (List.range n).map (nodeRecOf x (32 + 64 * n)) }

/-- Whether the nodes of a graph can be taken one after another, each after its predecessors; the fuel is the number of
nodes. -/
def noCycle (g : Graph) : Nat → List Nat → Bool
  | 0, left => left.isEmpty
  | fuel + 1, left =>
    let next := left.filter (fun n => !left.any (fun m => match g.nodes[m]? with | some r => r.succ.contains n | none => false))
    if left.isEmpty then true else if next.isEmpty then false else noCycle g fuel (left.filter (fun n => !next.contains n))

/-- The plan record at a position of a node's region list. -/
def regionAt (plan : List PlanRec) (r : NodeRec) (pos : Nat) : Option PlanRec :=
  match r.regions[pos]? with
  | some n => if n = 0xFF then none else plan[n]?
  | none => none

/-- One node's fields and references; a record listed twice would load two ranges that overlap (04 R78; log 39). -/
def nodeOk (b : List Byte) (l : List SecEnt) (plan : List PlanRec) (x : List Byte) (g : Graph) (i : Nat) : Bool :=
  match g.nodes[i]? with
  | none => false
  | some r =>
    let kindIs (n k : Nat) : Bool := n = 0xFFFF || kindAt l n = k
    let engineIs (n k : Nat) : Bool := n = 0xFFFF || fieldAt (sectionAt b l n) 0 1 = k
    fieldAt x (32 + 64 * i) 2 = i && (r.gang = 1 || r.gang = 2 || r.gang = 4 || r.gang = 8) && r.prio ≤ 3 &&
      (r.die ≤ 3 || r.die = 0xFF) && r.regions.all (fun n => n = 0xFF || (n < plan.length && (r.regions.filter (· = n)).length = 1)) &&
      r.entry % 4 = 0 && (match regionAt plan r r.entryRegion with | some p => p.flags.getLsbD 4 && r.entry < p.size | none => false) &&
      kindIs r.tensors 4 && kindIs r.shapesA 5 && kindIs r.shapesB 5 && kindIs r.safePoints 8 && engineIs r.shapesA 0 && engineIs r.shapesB 1 &&
      (r.argRegion = 0xFF || (match regionAt plan r r.argRegion with | some p => r.argOff < p.size && r.argOff + r.argSize ≤ p.size | none => false)) &&
      r.deps = ((g.nodes.map (fun m => (m.succ.filter (· = i)).length)).foldl (· + ·) 0) &&
      r.succ.all (fun n => n < g.nodes.length)

/-- Whether out-edges are contiguous runs of the edge records that share none and leave none out (log 39). -/
def edgesOk (x : List Byte) (g : Graph) : Bool :=
  let runs := (List.range g.nodes.length).map (fun i => (fieldAt x (32 + 64 * i + 24) 4, fieldAt x (32 + 64 * i + 22) 2))
  let n := fieldAt x 4 4
  runs.all (fun e => e.2 = 0 || e.1 + e.2 ≤ n) && apart runs && (runs.map (·.2)).foldl (· + ·) 0 = n

/-- 02 R48: the terminal node; a graph that is no step graph names none in its head either (log 39). -/
def terminalOk (g : Graph) : Bool :=
  let t := (List.range g.nodes.length).filter (fun i => match g.nodes[i]? with | some r => r.terminal | none => false)
  if g.step then
    (match t, g.terminal with
     | [n], some m => n = m && (match g.nodes[n]? with | some r => r.succ.isEmpty | none => false)
     | _, _ => false)
  else t.isEmpty && g.terminal.isNone

def graphOk (b : List Byte) (l : List SecEnt) (plan : List PlanRec) (e : SecEnt) : Bool :=
  let x := secBytes b e
  let g := graphOf x
  1 ≤ g.nodes.length && g.nodes.length ≤ 65535 && edgesOk x g && terminalOk g &&
    (List.range g.nodes.length).all (nodeOk b l plan x g) && noCycle g g.nodes.length (List.range g.nodes.length)

def graphsOf (b : List Byte) (l : List SecEnt) : List Graph :=
  (l.filter (fun e => e.kind = 6)).map (fun e => graphOf (secBytes b e))

/-- 02 R46: an IP region listed by more than one node. -/
def ipTwice (plan : List PlanRec) (gs : List Graph) : Bool :=
  (List.range plan.length).any (fun k => (match plan[k]? with | some p => p.type = 3 | none => false) &&
    ((gs.flatMap (·.nodes)).filter (fun r => r.regions.contains k)).length > 1)

def planOk (b : List Byte) (l : List SecEnt) : Bool :=
  let plan := planOf b l
  (l.filter (fun e => e.kind = 3)).length ≤ 1 && plan.length ≤ 255 && plan.all (planRecOk l) &&
    apart (plan.map (fun p => (p.vbase.toNat, p.size))) && !ipTwice plan (graphsOf b l)

/-! 0x08 BADPATCH and 0x09 BADSAFEPOINT (02 R49). -/

def patchOf (x : List Byte) (i : Nat) : PatchRec :=
  { plan := fieldAt x (16 * i + 4) 1, size := fieldAt x (16 * i + 5) 1, off := fieldAt x (16 * i + 8) 8 }

def patchesOf (b : List Byte) (l : List SecEnt) : List PatchRec :=
  let x := (l.filter (fun e => e.kind = 7)).flatMap (secBytes b)
  (List.range (x.length / 16)).map (patchOf x)

/-- Whether a plan record bears the name `const`. -/
def namedConst (b : List Byte) (l : List SecEnt) (i : Nat) : Bool :=
  let names := (l.filter (fun e => e.kind = 1)).flatMap (secBytes b)
  (names.drop (fieldAt (planBytes b l) (32 * i + 24) 4)).take 6 = [0x63, 0x6F, 0x6E, 0x73, 0x74, 0]

def patchOk (b : List Byte) (l : List SecEnt) (plan : List PlanRec) (p : PatchRec) : Bool :=
  match plan[p.plan]? with
  | none => false
  | some r =>
    (p.size = 1 || p.size = 2 || p.size = 4 || p.size = 8) && p.off % p.size = 0 && p.off + p.size ≤ r.size && !r.flags.getLsbD 4 &&
      (r.flags.getLsbD 3 || namedConst b l p.plan)

def safeRecOf (x : List Byte) (i : Nat) : SafeRec :=
  let f (a n : Nat) : Nat := fieldAt x (216 * i + a) n
  { off := f 0 4, smap := BitVec.ofNat 64 (f 8 8), pmap := BitVec.ofNat 32 (f 16 4), amap := BitVec.ofNat 8 (f 20 1),
    vmap := BitVec.ofNat 1536 (f 24 192) }

def safeRecsOf (b : List Byte) (e : SecEnt) : List SafeRec := (List.range e.count).map (safeRecOf (secBytes b e))

def rising : List Nat → Bool
  | [] => true
  | a :: r => (match r with | [] => true | c :: _ => a < c) && rising r

/-- Whether a code image holds a header with SP set at an offset, which is a multiple of 4 (05 R83). -/
def spAt (img : List Byte) (off : Nat) : Bool :=
  off % 4 = 0 && off + 4 ≤ img.length && match decodeHeader (fieldAt img off 4) with
  | .ok h => h.sp
  | .error _ => false

def safePointsOk (b : List Byte) (l : List SecEnt) (plan : List PlanRec) : Bool :=
  (l.filter (fun e => e.kind = 8)).all (fun e => rising ((safeRecsOf b e).map (·.off))) &&
    ((graphsOf b l).flatMap (·.nodes)).all (fun r => match l[r.safePoints]?, regionAt plan r r.entryRegion with
      | some e, some p => (safeRecsOf b e).all (fun s => spAt (sectionAt b l p.image) s.off)
      | _, _ => true)

/-! The places of regions (03 R61). -/

/-- The pages of a region from an IPA: first 64 KiB page numbers. -/
def regionPages (p : PlanRec) (ipa : Nat) : List Nat :=
  (List.range (p.size / pageSize p.flags)).map (fun k => ipa / 65536 + k * (pageSize p.flags / 65536))

/-- Whether chosen IPAs meet the bounds of 03 R61. -/
def State.ipasOk (s : State) (plan : List PlanRec) (ipas : List Nat) : Bool :=
  ipas.length = plan.length &&
    (plan.zip ipas).all (fun e => e.2 % pageSize e.1.flags = 0 && e.2 + e.1.size ≤ 2 ^ 52 && (!e.1.flags.getLsbD 1 || e.2 % 2 ^ 34 = 0)) &&
    apart ((plan.zip ipas).map (fun e => (e.2, e.1.size)) ++ s.allPages.map (fun r => (r.base * 65536, r.count * 65536)))

/-- The lowest multiple of z at which n bytes below 2^52 meet none of the ranges taken: 0 or the first one after some
range. -/
def firstFit (taken : List (Nat × Nat)) (z n : Nat) : Option Nat :=
  ((0 :: taken.map (fun e => (e.1 + e.2 + z - 1) / z * z)).filter (fun a =>
    a + n ≤ 2 ^ 52 && taken.all (fun e => a + n ≤ e.1 || e.1 + e.2 ≤ a))).foldl
      (fun (b : Option Nat) a => match b with | some x => some (min x a) | none => some a) none

/-- A place for each region beside the ranges taken; none when one has no place. -/
def freshIpas : List PlanRec → List (Nat × Nat) → Option (List Nat)
  | [], _ => some []
  | p :: r, taken => match firstFit taken (if p.flags.getLsbD 1 then 2 ^ 34 else pageSize p.flags) p.size with
    | none => none
    | some a => (freshIpas r ((a, p.size) :: taken)).map (a :: ·)

/-- The model's own choice of IPAs, when the one given does not meet the bounds (log 39). -/
def State.ownIpas (s : State) (plan : List PlanRec) : Option (List Nat) :=
  freshIpas plan (s.allPages.map (fun r => (r.base * 65536, r.count * 65536)))

/-- The IPAs of the regions of a plan (03 R61): the choice given, if it meets the bounds. -/
def State.chooseIpas (s : State) (plan : List PlanRec) (ipas : List Nat) : Option (List Nat) :=
  if s.ipasOk plan ipas then some ipas else s.ownIpas plan

/-! The container. -/

/-- The units of tier capacity that a plan takes (13 R251, R269). -/
def planUnits (plan : List PlanRec) (tier : Nat) : Nat :=
  ((plan.filter (fun p => p.tier = tier)).map (fun p => unitsAt tier (p.size / 65536) (p.flags.getLsbD 0))).foldl (· + ·) 0

/-- 02 R50: the first code that applies; 0 accepts. Bit 0 of the header's flags is not compared with the graphs, and POOL
of tier 2 bounds no region (log 39). -/
def State.containerCode (s : State) (b : List Byte) : Nat :=
  let l := secTable b
  let plan := planOf b l
  if fieldAt b 0 4 ≠ 0x4C535250 || fieldAt b 12 4 ≠ 64 then 0x01
  else if fieldAt b 4 2 ≠ 1 then 0x02
  else if (b.drop 32).take 32 ≠ shake256 (b.drop 64) 32 then 0x03
  else if !sectionsOk b l then 0x04
  else if !reservedOk b l then 0x05
  else if !planOk b l then 0x06
  else if !(l.filter (fun e => e.kind = 6)).all (graphOk b l plan) then 0x07
  else if !(patchesOf b l).all (patchOk b l plan) then 0x08
  else if !safePointsOk b l plan then 0x09
  else if [0, 1].any (fun t => planUnits plan t > Tab.get 0 s.freePages t) || (s.ownIpas plan).isNone then 0x0A
  else 0

/-- Table images: present entries of a mask, in increasing number. -/
def wideTab (x : List Byte) (at' : Nat) (ns : List Nat) : Tab Wide :=
  (List.range ns.length).zip ns |>.map (fun e => (e.2, BitVec.ofNat 512 (fieldAt x (at' + 64 * e.1) 64)))

/-- A section as the schedulers use it; a shape image holds all sixteen registers and a mask of those present (02 R49). -/
def secRecOf (b : List Byte) (e : SecEnt) : SecRec :=
  let x := secBytes b e
  match e.kind with
  | 2 => .image x
  | 3 => .plan
  | 4 => .tensors (wideTab x 32 (present (ofLe (x.take 32)) 256))
  | 5 => .shapes (fieldAt x 0 1 = 1)
      ((present (fieldAt x 2 2) 16).map (fun n => (n, BitVec.ofNat 512 (fieldAt x (16 + 64 * n) 64))))
  | 6 => .graph (graphOf x)
  | 7 => .patches
  | 8 => .safePoints (safeRecsOf b e)
  | 9 => .program ((List.range e.count).map (fun i => BitVec.ofNat 64 (fieldAt x (8 * i) 8)))
  | _ => .strings

/-! Loading (03 R61). -/

/-- A leaf entry as LOAD-CONTAINER and PAGE map write it (13 R253, R257). -/
def newLeaf (type : Nat) (f : BitVec 8) (tier frame : Nat) (va : Word) : Leaf :=
  let l : Leaf := { e := 0, va := va }
  ((((l.setFlags type f).put 0 0 1).put 11 10 tier).put 12 12 (if f.getLsbD 2 then 1 else 0)).put 47 16 frame

/-- A page is mapped: its frames are taken in tiers 0 and 1; none when they do not suffice. The host's copy of a page in tier
2 or 3 takes a number in the same way (13 R267; log 22). -/
def State.mapPage (s : State) (page type : Nat) (f : BitVec 8) (tier : Nat) (va : Word) : Option State :=
  let count := pageSize f / 65536
  match s.takeFrames (min tier 2) count (unitsAt tier count (f.getLsbD 0)) with
  | none => none
  | some (s, frame) =>
    let recs := (List.range count).foldl (fun t k => Tab.set t (frameAddr tier (frame + k) 0 / 65536) (⟨type, 1⟩ : Frame)) s.frames
    some ({ s with frames := recs }.putLeaf (f.getLsbD 2) page (newLeaf type f tier frame va))

/-- The bytes of a region's image written at a page; the blocks of a versioned image become committed (13 R259). -/
def State.loadBytes (s : State) (page v : Nat) (l : List Byte) : State :=
  match s.walk (page * 65536) with
  | none => s
  | some r =>
    let pa := r.pa (page * 65536)
    let s := { s with mem0 := applyCells s.mem0 (cellsAt pa l) }
    if v = 0 then s
    else (List.range ((l.length + 511) / 512)).foldl (fun s k => s.setMd (pa / 512 + k) 0 (mdMake true true 0)) s

/-- One plan region (03 R61): mapped page by page, its image in the frames of tiers 0 and 1. -/
def State.loadRegion (s : State) (b : List Byte) (l : List SecEnt) (p : PlanRec) (ipa : Nat) : State :=
  let z := pageSize p.flags
  let s := ((List.range (p.size / z)).zip (regionPages p ipa)).foldl (fun s e =>
    (s.mapPage e.2 p.type p.flags p.tier (p.vbase + BitVec.ofNat 64 (e.1 * z))).getD s) s
  if p.tier ≥ 2 then s
  else
    let img := sectionAt b l p.image
    (List.range ((img.length + 65535) / 65536)).foldl (fun s k =>
      s.loadBytes (ipa / 65536 + k) (if p.flags.getLsbD 0 then 1 else 0) ((img.drop (k * 65536)).take 65536)) s

/-- An accepted container: its regions loaded, and what the schedulers read of it. -/
def State.acceptContainer (s : State) (handle : Nat) (h : Container) (b : List Byte) (ipas : List Nat) : State × List Nat :=
  let l := secTable b
  let plan := planOf b l
  let ipas := (s.chooseIpas plan ipas).getD []
  let s := (plan.zip ipas).foldl (fun s e => s.loadRegion b l e.1 e.2) s
  let h := { h with
    accepted := true, digest := (b.drop 32).take 32, plan := plan, sections := l.map (secRecOf b), patches := patchesOf b l,
    ipas := ipas, binds := [] }
  ({ s with containers := Tab.set s.containers handle h }, ipas)

/-- A region's pages leave with their frames; a transfer of one of them closes (03 R61). -/
def State.dropPage (s : State) (page : Nat) : State :=
  match s.walk (page * 65536) with
  | none => s
  | some r => let s := (s.closeTransfers r).shootPage r
              (match s.walk (page * 65536) with | some r => s.unmapPage r | none => s)

def State.unload (s : State) (handle : Nat) : State :=
  match Tab.find s.containers handle with
  | none => s
  | some h =>
    let s := (h.plan.zip h.ipas).foldl (fun s e => (regionPages e.1 e.2).foldl (fun s p => s.dropPage p) s) s
    { s with containers := Tab.del s.containers handle }

end Sys2Proof.Machine
end

