-- ==== Sys2Proof/Machine/Commands.lean ====
section
/-! DEFINITION. What each request of the host does (03 R56 to R67; 04 R76; 13 R248, R257, R267, R269, R270; 14 R285, R287 to
R290; 17 R325, R336, R339; 19 R370; 20 R385; 21 R394 to R401; 23 R403). -/

namespace Sys2Proof.Machine

/-! Sessions and attestation. -/

def s10 : Nat := 10000000000

/-- Events that an old session left, under new numbers from 1 (03 R62). -/
def renumber : Nat → List Ev → List Ev
  | _, [] => []
  | n, e :: r => { e with num := n } :: renumber (n + 1) r

/-- The 72 bytes of a session's keys and salts (03 R56). -/
def sessionKeys (secret host device : List Byte) : List Byte := shake256 (secret ++ host ++ device) 72

/-- HELLO (03 R56): the reply is not sealed and belongs to no session yet, so that its head has session and sequence number 0
(log 31). The length is looked at before the session that stands (log 47). -/
def State.doHello (s : State) (h : FrameHead) (payload : List Byte) : State :=
  let busy : Bool := match s.session with | some z => s.time < z.lastAt + s10 | none => false
  let raw (st : Nat) (l : List Byte) : Out := .reply 0 0 h.reqId h.mgmt 0x01 st 0 l
  if payload.length ≠ 1216 then { s with out := s.out ++ [raw stBadFrame []] }
  else if busy then { s with out := s.out ++ [raw stBusy []] }
  else
    let id := s.nextSession
    let nonce := padTo 32 (Config.deviceNonce id)
    let body := nonce ++ padTo 1088 (Config.mlKemCiphertext (payload.drop 32) id) ++ leBytes 4 id ++
      leBytes 2 s.deviceId ++ leBytes 2 0
    let sig := padTo 3309 (Config.identitySign (shake256 (payload ++ leBytes 4 0 ++ body) 32))
    let old := match s.session with | some z => z.unacked | none => []
    let evs := renumber 1 (old ++ s.carried)
    let z : Session := { id := id, keys := sessionKeys (padTo 32 (Config.mlKemSecret (payload.drop 32) id)) (payload.take 32) nonce,
                         txSeq := evs.length, attested := false, highest := 0, seen := [], replies := [], lastAt := s.time,
                         evNum := evs.length, unacked := evs, mask := 0, period := 0 }
    { s with
      session := some z, carried := [], nextSession := if id + 1 < 2 ^ 32 then id + 1 else 1,
      out := s.out ++ [raw stOk (body ++ sig)] ++ evs.map (fun e => .event id e.num e.num e.code e.payload) }

/-- The attestation report (21 R399). -/
def State.report (s : State) (challenge : List Byte) : List Byte :=
  let rec1 (n : Nat) : List Byte := match Tab.find s.containers n with
    | some c => if c.accepted then leBytes 4 1 ++ padTo 32 c.digest else leBytes 36 0
    | none => leBytes 36 0
  let fenced := s.fenced.foldl (fun a c => a + 2 ^ c) 0
  let body := padTo 32 challenge ++ leBytes 2 s.deviceId ++ leBytes 2 0 ++ leBytes 4 s.fw.version ++ padTo 32 s.fw.meas ++
    leBytes 32 fenced ++ (List.range 16).flatMap rec1 ++ leBytes 8 0 ++ padTo 32 Config.identityKeyDigest
  body ++ padTo 3309 (Config.identitySign (shake256 body 32))

/-- ATTEST (03 R57, 21 R399): it attests the session that asked. -/
def State.doAttest (s : State) (h : FrameHead) (challenge : List Byte) : State :=
  let s := { s with session := s.session.map (fun (z : Session) => if z.id = h.session then { z with attested := true } else z) }
  s.reply h 0x02 stOk 0 (s.report challenge)

/-! Containers. -/

/-- Whether a launch of a container is live. -/
def State.inUse (s : State) (handle : Nat) : Bool := s.launches.any (fun l => l.2.handle = handle)

/-- A total length of 0 (03 R61). -/
def State.doUnload (s : State) (h : FrameHead) (handle : Nat) : State :=
  if handle > 15 then s.answer h 0x03 stBadFrame
  else if (Tab.find s.containers handle).isNone then s.answer h 0x03 stBadHandle
  else if s.inUse handle then s.answer h 0x03 stBusy
  else (s.unload handle).reply h 0x03 stOk 0 (leBytes 8 0)

def Container.fresh (total : Nat) : Container :=
  { total := total, got := [], accepted := false, digest := [], plan := [], sections := [], patches := [], ipas := [], binds := [] }

/-- LOAD-CONTAINER (03 R61): one chunk; the one that completes the container runs the checks of 02 R50. A handle above 15 is
BADFRAME (log 47). -/
def State.doLoad (s : State) (h : FrameHead) (handle total offset : Nat) (data : List Byte) (ipas : List Nat) : State :=
  if total = 0 then s.doUnload h handle
  else
    let c := (Tab.find s.containers handle).getD (Container.fresh total)
    if handle > 15 then s.answer h 0x03 stBadFrame
    else if c.accepted then s.answer h 0x03 stBusy
    else if c.total ≠ total || offset + data.length > total then s.answer h 0x03 stBadFrame
    else
      let c := { c with got := (cellsAt offset data).foldl (fun t e => Tab.set t e.1 e.2) c.got }
      let n := c.got.length
      if n < total then { s with containers := Tab.set s.containers handle c }.reply h 0x03 stOk 0 (leBytes 8 n)
      else
        let b := c.got.map (·.2)
        match s.containerCode b with
        | 0 =>
          let (s, ipas) := s.acceptContainer handle { c with got := [] } b ipas
          s.reply h 0x03 stOk 0 (leBytes 8 n ++ ipas.flatMap (leBytes 8))
        | code => { s with containers := Tab.del s.containers handle }.reply h 0x03 stContainer code []

/-- The issuer of the command path, for the byte of a request (03 R61). -/
def cmdIssuer (req off : Nat) : Issuer := ⟨false, 0, 0, 0, .command, .command req off⟩

/-- Whether an IP page's owner is live. -/
def State.ownerLive (s : State) (l : Leaf) : Bool :=
  l.type = 3 && l.ownL ≠ 0 && (match s.nodeSt l.ownL l.ownN with
    | some n => n.state != .retired && n.state != .killed
    | none => false)

/-- What the command path finds at a page (03 R61): as any access, but an IP page is open unless its owner is live. -/
def State.cmdChk (s : State) (kd : AKind) (ipa : Nat) : Chk :=
  match s.pageChk (cmdIssuer 0 0) kd ipa with
  | .fail code =>
    if code = fcIpOwner then (match s.walk ipa with
      | some r => if s.ownerLive r.leaf then .fail code else .ok r
      | none => .fail code)
    else .fail code
  | x => x

/-- The IPA parts of a range of space 0 or 1, none when a byte lies outside every region. -/
def State.cmdParts (s : State) (space : Bool) (handle addr len : Nat) : Option (List (Nat × Nat)) :=
  if space then (if addr + len ≤ 2 ^ 52 then some (pageParts (len / 65536 + 2) addr (addr + len)) else none)
  else match Tab.find s.containers handle with
    | none => none
    | some c =>
      let one (e : Nat × Nat) : Option (Nat × Nat) :=
        ((c.plan.zip c.ipas).find? (fun x => x.1.vbase.toNat ≤ e.1 && e.1 + e.2 ≤ x.1.vbase.toNat + x.1.size)).map
          (fun x => (x.2 + (e.1 - x.1.vbase.toNat), e.2))
      (pageParts (len / 65536 + 2) addr (addr + len)).foldl (fun acc e => match acc, one e with
        | some l, some x => some (l ++ [x])
        | _, _ => none) (some [])

/-- The status of a failing check of the command path. -/
def cmdStatus (code : Nat) : Nat :=
  if code = fcPageAbsent then stBadAddr else if code = fcVersionWrite then stStepBusy
  else if code = fcPageLost then stLost else stViolation

/-- The first failure among the parts of a request. What the entry of a page says is known while the page is held, too. -/
def State.cmdGate (s : State) (kd : AKind) (parts : List (Nat × Nat)) : Option Nat :=
  parts.findSome? (fun p => match s.cmdChk kd p.1, s.walk p.1 with
    | .fail c, _ => some (cmdStatus c)
    | .held 1, _ => none
    | .held _, some r =>
      if (if kd == .write then r.leaf.get 8 8 == 0 else r.leaf.get 7 7 == 0) || s.ownerLive r.leaf then some stViolation else none
    | _, _ => none)

/-- The space, handle, length and address of a READ or WRITE, and its bytes. -/
def Cmd.range : Cmd → Bool × Nat × Nat × Nat × List Byte
  | .read p a l x => (p, a, l, x, [])
  | .write p a l x d => (p, a, l, x, d)
  | _ => (false, 0, 0, 0, [])

/-- The rest of the parts of a request after its first bytes. -/
def dropParts : Nat → List (Nat × Nat) → List (Nat × Nat)
  | _, [] => []
  | 0, l => l
  | n, p :: r => if n < p.2 then (p.1 + n, p.2 - n) :: r else dropParts (n - p.2) r

/-- The parts of a READ or WRITE that have not performed, by their IPAs. -/
def State.cmdLeft (s : State) (x : HeldCmd) : List (Nat × Nat) :=
  let (space, handle, len, addr, _) := x.cmd.range
  dropParts x.got.length ((s.cmdParts space handle addr len).getD [])

/-- Whether a unit of the command path must wait for some requests accepted before its own (13 R272; 14 R275, R277, R280). -/
def State.cmdWaits (s : State) (key : MemKey) (before : List HeldCmd) (ipa n : Nat) : Bool :=
  let heldNow := match s.waitOf key with
    | some w => w.isHeld
    | none => (match s.walk ipa with | some r => r.leaf.mov | none => false)
  before.any (fun y => (s.cmdLeft y).any (fun p => s.ordered heldNow 4 p.1 p.2 4 ipa n))

/-- Whether a request waits at memory behind an access of the command path. -/
def State.cmdBehind (s : State) (key : MemKey) (y : HeldCmd) : Bool :=
  ((s.waiting.dropWhile (fun w => w.iss.key != key)).drop 1).any (fun w => match w.iss.key with | .command r _ => r = y.head.reqId | _ => false)

/-- PATCH (03 R61): the bytes of a patch point in the loaded region. A WOS page and, while a step is open, a versioned one refuse
it (log 47). -/
def State.doPatch (s : State) (h : FrameHead) (handle index : Nat) (value : Word) : State :=
  match Tab.find s.containers handle with
  | none => s.answer h 0x04 stBadHandle
  | some c => match c.accepted, c.patches[index]? with
    | true, some p =>
      if s.inUse handle then s.answer h 0x04 stBusy
      else
        let ipa := c.ipas.getD p.plan 0 + p.off
        let key : MemKey := .command h.reqId 0
        let later (c : Nat) : State := { s.await (cmdIssuer h.reqId 0) .read ipa p.size c with ctl := some (.retry h (.patch handle index value)) }
        (match s.cmdChk .read ipa with
         | .held c => later c
         | .fail code => s.answer h 0x04 (if code = fcPageLost then stLost else if code = fcPageAbsent then stBadAddr else stViolation)
         | .ok r =>
           if r.leaf.type = 2 then s.answer h 0x04 stViolation
           else if r.leaf.v && s.stepOpenNow then s.answer h 0x04 stStepBusy
           else if !s.turnAt key ipa then later (s.turnCause key ipa)
           else if s.cmdWaits key (s.held.filter (fun y => !s.cmdBehind key y)) ipa p.size then later 0
           else
             let s := (s.wrBytes r.leaf.v false none (r.pa ipa) (leBytes p.size value.toNat)).dropCached none ipa p.size
             ((s.leave key).atHome ipa true true).answer h 0x04 stOk)
    | _, _ => s.answer h 0x04 stBadHandle

/-! Launches (03 R61, 04 R72, 14 R285). -/

/-- The pages of the IP regions that a node lists. -/
def Container.ipPagesOf (c : Container) (r : NodeRec) : List Nat :=
  r.regions.flatMap (fun n => if n = 0xFF then [] else match c.plan[n]?, c.ipas[n]? with
    | some p, some ipa => if p.type = 3 then regionPages p ipa else []
    | _, _ => [])

/-- The owners of IP pages, written under a shootdown (14 R285). -/
def State.ownPages (s : State) (c : Container) (id : Nat) (nodes : List (Nat × NodeRec)) : State :=
  nodes.foldl (fun s e => (c.ipPagesOf e.2).foldl (fun s p => match s.walk (p * 65536) with
    | some r =>
      let s := s.shootPage r
      if r.leaf.type = 3 then
        (match s.walk (p * 65536) with
         | some r => s.modPage r (fun l => (l.put 95 64 id).put 111 96 e.1)
         | none => s)
      else s
    | none => s) s) s

/-- Whether a gang fits in some cluster (04 R72). -/
def State.gangFits (s : State) (g : Nat) : Bool :=
  (List.range 4).any (fun d => (dieSets g d).any (fun f => (setCores f g).all (fun c => !s.fenced.contains c)))

def NodeSt.fresh (r : NodeRec) (time : Nat) : NodeSt :=
  { state := .loaded, deps := r.deps, level := r.prio, order := 0, queuedAt := time, readyAt := time, first := 0, reserve := none,
    askedAt := none, escal := 0, atSafe := false, restored := false, dying := false }

/-- Whether an IP page is owned by a node of a launch that is still live (14 R285). -/
def State.ownedLive (s : State) (l : Leaf) : Bool := l.type = 3 && l.ownL ≠ 0 && (Tab.find s.launches l.ownL).isSome

/-- LAUNCH (03 R61, 04 R72): every node of a live launch counts, the retired and the killed too (log 47). It waits while an IP page
of the graph moves (13 R258, 14 R285). -/
def State.doLaunch (s : State) (h : FrameHead) (handle graph : Nat) : State :=
  match Tab.find s.containers handle with
  | none => s.answer h 0x05 stBadHandle
  | some c => match c.accepted, c.sections[graph]? with
    | true, some (.graph g) =>
      let nodes := (List.range g.nodes.length).zip g.nodes
      let live := (s.launches.map (fun l => l.2.nodes.length)).foldl (· + ·) 0
      if g.step && s.stepState = 0 then s.answer h 0x05 stNoStep
      else if g.step && s.stepState ≠ 1 then s.answer h 0x05 stStepBusy
      else if s.launches.length ≥ 64 || live + g.nodes.length > 262144 || g.nodes.any (fun r => !s.gangFits r.gang) then
        s.answer h 0x05 stNoSpace
      else if (g.nodes.flatMap c.ipPagesOf).any (fun p => match s.walk (p * 65536) with | some r => s.ownedLive r.leaf | none => false) then
        s.answer h 0x05 stBusy
      else if (g.nodes.flatMap c.ipPagesOf).any (fun p => match s.walk (p * 65536) with | some r => r.leaf.mov | none => false) then
        { s with ctl := some (.retry h (.launch handle graph)) }
      else
        let id := s.nextLaunch
        let s := s.ownPages c id nodes
        let l : Launch := { handle := handle, graphSec := graph, step := g.step,
                            nodes := nodes.map (fun e => (e.1, NodeSt.fresh e.2 s.time)), stepend := false }
        { s with
          launches := Tab.set s.launches id l, nextLaunch := id + 1,
          stepState := if g.step then 2 else s.stepState }.reply h 0x05 stOk 0 (leBytes 4 id)
    | _, _ => s.answer h 0x05 stBadHandle

/-! The step (03 R61, R65, R66). -/

/-- STEP-OPEN (03 R65): the checks, then the wait for the scrubber; a reserved flag is no good payload (03 R58, R64). -/
def State.doStepOpen (s : State) (h : FrameHead) (o : OpenReq) : State :=
  let force := o.flags.getLsbD 4
  let a := if force then o.expected else s.last + 1
  if o.flags.toNat ≥ 32 then s.answer h 0x06 stBadFrame
  else if s.stepState ≠ 0 then s.answer h 0x06 stStepBusy
  else if !s.tree.getLsbD 17 then s.answer h 0x06 stNoTree
  else if o.step.toNat < s.lastCommitted.toNat then s.answer h 0x06 stBadStep
  else if s.last ≥ 2 ^ 32 - 1 || (if force then o.expected ≤ s.last else o.expected ≠ 0 && o.expected ≠ a) then
    s.answer h 0x06 stAttempt
  else
    let w : OpenWait := { head := h, req := o, attempt := a, set := tagsFrom (s.last + 1) (a - s.last), todo := s.scrubBlocks, found := false }
    { s with openWait := some w, ctl := some .stepOpen }

/-- STEP-CLOSE (03 R61, 19 R373). -/
def State.doStepClose (s : State) (h : FrameHead) (attempt : Nat) : State :=
  if s.stepState < 6 then s.answer h 0x07 stNotDecided
  else if attempt ≠ s.attempt then s.answer h 0x07 stAttempt
  else if s.abortWait then { s with ctl := some (.stepClose h) }
  else s.closeStep h

/-- STEP-STATUS (03 R61, 20 R388, R390). -/
def State.doStepStatus (s : State) (h : FrameHead) (attempt : Nat) (supplied : Bool) (verdict : Nat) (word : BitVec 16) : State :=
  let s := if supplied && s.stepState = 5 && (attempt = s.attempt || attempt = 0) then s.learn (halMsg 4 verdict word s.attempt 0) else s
  let out (st a w : Nat) : State :=
    s.reply h 0x08 stOk 0 (leBytes 1 st ++ leBytes 3 0 ++ leBytes 4 a ++ leBytes 2 s.ownWord.toNat ++ leBytes 2 w)
  let asked := if attempt = 0 then s.attempt else attempt
  match Tab.find s.verdictLog (asked % 4096) with
  | some v => if v.attempt = asked && (attempt ≠ 0 || 1 ≤ s.stepState) then out (if v.commit then 6 else 7) asked v.word.toNat
              else out s.stepState s.attempt s.mergedWord.toNat
  | none => out s.stepState s.attempt s.mergedWord.toNat

/-- VETO (03 R61, R66). -/
def State.doVeto (s : State) (h : FrameHead) (attempt : Nat) (soft : BitVec 8) : State :=
  if s.stepState = 0 then s.answer h 0x09 stNoStep
  else if attempt ≠ s.attempt then s.answer h 0x09 stAttempt
  else if s.stepState ≥ 4 || s.commitDue.isSome then s.answer h 0x09 stLate
  else
    let s := s.pennonOr (BitVec.ofNat 16 (1 + soft.toNat * 256))
    (if s.stepState = 1 then s.readyVote else s).answer h 0x09 stOk

/-- The command code of a request (03 R60 and the chapters of the management requests). -/
def Cmd.code : Cmd → Nat
  | .hello _ => 0x01 | .attest _ => 0x02 | .loadContainer _ _ _ _ _ => 0x03 | .unloadContainer _ => 0x03
  | .patch _ _ _ => 0x04 | .launch _ _ => 0x05 | .stepOpen _ => 0x06 | .stepClose _ => 0x07
  | .read _ _ _ _ => 0x0A | .write _ _ _ _ _ => 0x0B | .page _ _ => 0x0C | .kill _ _ => 0x0D
  | .firmware _ _ _ => 0x0E | .resetWork _ => 0x0F | .resetModule _ => 0x0F
  | .schedSet _ => 0x40 | .carveSet _ _ => 0x41 | .tierSet _ _ => 0x42 | .linkSet _ _ => 0x43 | .fabricSet _ _ => 0x44
  | .commSet _ _ => 0x45 | .halyardSet _ => 0x46 | .powerSet _ => 0x47 | .margin => 0x48
  | .remoteSetBind _ _ _ _ => 0x49 | .remoteSetClear _ _ => 0x49 | .boardSet _ => 0x4A

/-! READ and WRITE (03 R61). -/

/-- What becomes of a request's next unit. -/
inductive CmdRes where
  | wait
  | more
  | stop (status : Nat)
  deriving DecidableEq, Repr

/-- The unit of a READ at an address (14 R273): an unwritten WOS sector reads as zero and sets its bit of the mask, which counts
sectors from that of the first byte (03 R61). -/
def State.readUnit (s : State) (x : HeldCmd) (ipa n : Nat) : State × HeldCmd × CmdRes :=
  let off := x.got.length
  let iss := cmdIssuer x.head.reqId off
  match s.cmdChk .read ipa with
  | .held c => (s.await iss .read ipa n c, x, .wait)
  | .fail code => (s, x, .stop (cmdStatus code))
  | .ok r =>
    let pa := r.pa ipa
    let (_, _, _, addr, _) := x.cmd.range
    let bit := 2 ^ ((addr + off) / 32 - addr / 32)
    if !s.turnAt iss.key ipa then (s.await iss .read ipa n (s.turnCause iss.key ipa), x, .wait)
    else if r.leaf.type = 2 && !s.isWritten pa then
      ((s.leave iss.key).atHome ipa false true, { x with got := x.got ++ List.replicate n 0, mask := Nat.lor x.mask bit }, .more)
    else ((s.leave iss.key).atHome ipa false true, { x with got := x.got ++ s.rdBytes r.leaf.v false pa n }, .more)

/-- The unit of a WRITE at an address (14 R273): whole sectors of a WOS page. -/
def State.writeUnit (s : State) (x : HeldCmd) (ipa n : Nat) : State × HeldCmd × CmdRes :=
  let off := x.got.length
  let iss := cmdIssuer x.head.reqId off
  let (_, _, _, _, data) := x.cmd.range
  let l := (data.drop off).take n
  match s.cmdChk .write ipa with
  | .held c => (s.await iss .write ipa n c, x, .wait)
  | .fail code => (s, x, .stop (cmdStatus code))
  | .ok r =>
    let pa := r.pa ipa
    let sectors := if r.leaf.type = 2 then (List.range (n / 32)).map (fun k => pa + 32 * k) else []
    if !s.turnAt iss.key ipa then (s.await iss .write ipa n (s.turnCause iss.key ipa), x, .wait)
    else if r.leaf.type = 2 && (ipa % 32 ≠ 0 || n % 32 ≠ 0) then (s, x, .stop stBadAddr)
    else if sectors.any s.isWritten then (s, x, .stop stViolation)
    else
      let s := (s.wrBytes r.leaf.v false none pa l).dropCached none ipa n
      let s := sectors.foldl (fun s a => s.setWritten false a true) s
      ((s.leave iss.key).atHome ipa true true, { x with got := x.got ++ l }, .more)

/-- The first reason for which a WRITE is refused by the pages it meets. -/
def State.writeRefusal (s : State) (parts : List (Nat × Nat)) : Option Nat :=
  parts.findSome? (fun p => match s.walk p.1 with
    | none => some stBadAddr
    | some r =>
      if r.leaf.v && s.stepOpenNow then some stStepBusy
      else if r.leaf.type = 2 && (p.1 % 32 ≠ 0 || p.2 % 32 ≠ 0) then some stBadAddr
      else if r.leaf.type = 2 && r.leaf.tier ≤ 1 && (List.range (p.2 / 32)).any (fun k => s.isWritten (r.pa p.1 + 32 * k)) then some stViolation
      else none)

/-- The next unit of a READ or WRITE (14 R273): 8 bytes aligned, or a sector of a WOS page of a WRITE; `before` are the requests
accepted before it. Before its first byte a request is refused whole, and it waits for what it would be refused by: the end of a
change of a page's entry, and for a WRITE every WOS page that it meets (03 R61; log 47). -/
def State.cmdUnit (s : State) (x : HeldCmd) (before : List HeldCmd) : State × HeldCmd × CmdRes :=
  let (space, handle, len, addr, _) := x.cmd.range
  let write : Bool := match x.cmd with | .write _ _ _ _ _ => true | _ => false
  match s.cmdParts space handle addr len with
  | none => (s, x, .stop stBadAddr)
  | some parts =>
    let refused := if !x.got.isEmpty then none
      else match (if write then s.writeRefusal parts else none) with
        | some st => some st
        | none => s.cmdGate (if write then .write else .read) parts
    let away := if x.got.isEmpty then
        parts.find? (fun p => match s.cmdChk (if write then .write else .read) p.1 with
          | .held c => c = 1 || (write && s.onType 4 p.1 2)
          | _ => false)
      else none
    match refused, away, dropParts x.got.length parts with
    | some st, _, _ => (s, x, .stop st)
    | none, some p, _ => if write then s.writeUnit x p.1 p.2 else s.readUnit x p.1 p.2
    | none, none, [] => (s, x, .stop stOk)
    | none, none, p :: _ =>
      let unit := if write && s.onType 4 p.1 2 then 32 else 8
      let n := min p.2 (unit - p.1 % unit)
      if s.cmdWaits (.command x.head.reqId x.got.length) before p.1 n then (s, x, .wait)
      else if write then s.writeUnit x p.1 n
      else s.readUnit x p.1 n

/-- A held request goes on: one unit, or all that can perform; once every byte has, it answers. The fuel is the number of units. -/
def State.cmdRun (s : State) (x : HeldCmd) (before : List HeldCmd) (one : Bool) : Nat → State × Option HeldCmd
  | 0 => (s, some x)
  | fuel + 1 =>
    let (_, _, len, _, _) := x.cmd.range
    let (s, y, r) := s.cmdUnit x before
    match (if r = .more && y.got.length ≥ len then .stop stOk else r) with
    | .wait => (s, some y)
    | .more => if one then (s, some y) else s.cmdRun y before one fuel
    | .stop st =>
      (s.reply y.head y.cmd.code st 0
        (match y.cmd with | .read _ _ _ _ => if st = stOk then leBytes 40 y.mask ++ y.got else [] | _ => []), none)

/-- The n-th held request goes on. -/
def State.cmdTurn (s : State) (n : Nat) (one : Bool) : State :=
  match s.held[n]? with
  | none => s
  | some x =>
    let (s, w) := s.cmdRun x (s.held.take n) one 8194
    { s with held := match w with | some y => s.held.set n y | none => s.held.eraseIdx n }

/-- A request that may perform is taken up; it performs what it can, unless a turn for one unit of it comes next (log 8). -/
def State.holdCmd (s : State) (h : FrameHead) (c : Cmd) : State :=
  let n := s.held.length
  let x : HeldCmd := { head := h, cmd := c, got := [], mask := 0 }
  let s := { s with held := s.held ++ [x] }
  match s.turns with
  | .command _ :: _ => s
  | _ => s.cmdTurn n false

/-- Whether a handle holds an accepted container. -/
def State.loaded (s : State) (handle : Nat) : Bool := match Tab.find s.containers handle with | some c => c.accepted | none => false

/-- READ (03 R61). A length of 0 or above 8,192 is BADFRAME (log 47). -/
def State.doRead (s : State) (h : FrameHead) (space : Bool) (handle len addr : Nat) : State :=
  if len = 0 || len > 8192 then s.answer h 0x0A stBadFrame
  else if !space && !s.loaded handle then s.answer h 0x0A stBadHandle
  else s.holdCmd h (.read space handle len addr)

/-- WRITE (03 R61). -/
def State.doWrite (s : State) (h : FrameHead) (space : Bool) (handle len addr : Nat) (data : List Byte) : State :=
  if len = 0 || len > 8192 || data.length ≠ len then s.answer h 0x0B stBadFrame
  else if !space && !s.loaded handle then s.answer h 0x0B stBadHandle
  else s.holdCmd h (.write space handle len addr data)

/-! PAGE (03 R61, 13 R257, R270; 14 R287 to R290). -/

/-- The pages of a request that are mapped at its grain; none when one is not. -/
def State.pageRefs (s : State) (r : PageReq) : Option (List PageRef) :=
  (PageReq.pages r).foldl (fun acc p => match acc, s.walk (p * 65536) with
    | some l, some x => if x.big == r.flags.getLsbD 2 && x.base = p then some (l ++ [x]) else none
    | _, _ => none) (some [])

/-- What every PAGE request must meet. -/
def pageReqOk (r : PageReq) : Bool := r.type ≤ 3 && r.tier ≤ 3 && r.flags.toNat < 32

def pageInSpace (r : PageReq) : Bool :=
  r.ipa % pageSize r.flags = 0 && r.ipa + r.count * pageSize r.flags ≤ 2 ^ 52

/-- PAGE map with bit 63 of its virtual address set: an alias (14 R287). -/
def State.mapAlias (s : State) (h : FrameHead) (r : PageReq) : State :=
  let old := fld r.va.toNat 51 16 * 65536
  let step (k : Nat) : Nat := k * pageSize r.flags
  if fld r.va.toNat 15 0 ≠ 0 || fld r.va.toNat 62 52 ≠ 0 then s.answer h 0x0C stBadFrame
  else if r.flags.getLsbD 0 || r.flags.getLsbD 1 || r.type = 0 || r.type = 3 then s.answer h 0x0C stBadType
  else if old % 2 ^ 34 ≠ r.ipa % 2 ^ 34 then s.answer h 0x0C stBadAddr
  else
    let refs := (List.range r.count).map (fun k => s.walk (old + step k))
    if refs.any (fun x => match x with
        | some x => x.leaf.tier ≠ 0 || x.leaf.mov || x.big != r.flags.getLsbD 2
        | none => true) then s.answer h 0x0C stBadAddr
    else if refs.any (fun x => match x with | some x => x.leaf.type = 0 || x.leaf.type = 3 | none => false) then s.answer h 0x0C stBadType
    else
      let s := ((List.range r.count).zip refs).foldl (fun (s : State) (e : Nat × Option PageRef) => match e.2 with
        | none => s
        | some x =>
          let page := r.ipa / 65536 + e.1 * (pageSize r.flags / 65536)
          let l := newLeaf r.type r.flags 0 x.leaf.frame r.va
          let s := s.putLeaf x.big page l
          { s with frames := x.framePas.foldl (fun t pa => match Tab.find t (pa / 65536) with
              | some f => Tab.set t (pa / 65536) { f with maps := f.maps + 1 }
              | none => t) s.frames }) s
      s.answer h 0x0C stOk

/-- PAGE operation 0. -/
def State.pageMap (s : State) (h : FrameHead) (r : PageReq) : State :=
  let pages := PageReq.pages r
  let units := unitsAt r.tier (r.count * (pageSize r.flags / 65536)) (r.flags.getLsbD 0)
  if !pageInSpace r then s.answer h 0x0C stBadAddr
  else if !flagsOk r.type r.flags then s.answer h 0x0C stBadType
  else if s.allPages.any (fun x => pages.any (fun p => x.base < p + pageSize r.flags / 65536 && p < x.base + x.count)) then
    s.answer h 0x0C stBusy
  else if r.va.getLsbD 63 then s.mapAlias h r
  else if r.tier ≤ 1 && Tab.get 0 s.freePages r.tier < units then s.answer h 0x0C stNoSpace
  else
    let s := ((List.range r.count).zip pages).foldl (fun (s : State) (e : Nat × Nat) =>
      (s.mapPage e.2 r.type r.flags r.tier (r.va + BitVec.ofNat 64 (e.1 * pageSize r.flags))).getD s) s
    s.answer h 0x0C stOk

/-- A shootdown begins (13 R258): it marks the entries once none of the pages moves. PAGE answers at its end. -/
def State.beginShoot (s : State) (h : FrameHead) (op : ShootOp) (refs : List PageRef) : State :=
  let pages := refs.flatMap (fun x => (List.range x.count).map (fun k => x.base + k))
  State.markShoots { s with shoots := s.shoots ++ [⟨op, pages, h, false, []⟩], ctl := some .shoot }

/-- PAGE operation 2 (14 R288, R290). -/
def State.pageType (s : State) (h : FrameHead) (r : PageReq) (refs : List PageRef) : State :=
  let v := r.flags.getLsbD 0
  let more := (refs.map (fun x => unitsAt x.leaf.tier x.count v - x.unitsAt x.leaf.tier)).foldl (· + ·) 0
  if !flagsOk r.type r.flags then s.answer h 0x0C stBadType
  else if refs.any (fun x => s.ownerLive x.leaf) then s.answer h 0x0C stViolation
  else if refs.any (fun x => match Tab.find s.frames (frameAddr x.leaf.tier x.leaf.frame 0 / 65536) with
      | some f => f.maps > 1
      | none => false) then s.answer h 0x0C stBadType
  else if s.stepOpenNow && (v || refs.any (fun x => x.leaf.v)) then s.answer h 0x0C stStepBusy
  else if more > Tab.get 0 s.freePages 0 then s.answer h 0x0C stNoSpace
  else s.beginShoot h (.setType r.type r.flags) refs

/-- PAGE operations 4 and 5 (13 R270): while a step is open no versioned page leaves tier 0 (13 R265). -/
def State.pageMove (s : State) (h : FrameHead) (op : Nat) (r : PageReq) (refs : List PageRef) : State :=
  let todo := refs.filter (fun x => x.leaf.tier ≠ r.tier)
  let units := (todo.map (fun x => x.unitsAt r.tier)).foldl (· + ·) 0
  if op = 4 && refs.any (fun x => s.ownerLive x.leaf) then s.answer h 0x0C stViolation
  else if s.stepOpenNow && refs.any (fun x => x.leaf.v && (op = 4 || (x.leaf.tier = 0 && r.tier ≠ 0))) then s.answer h 0x0C stStepBusy
  else if r.tier ≤ 1 && units > Tab.get 0 s.freePages r.tier then s.answer h 0x0C stNoSpace
  else { s with ctl := some (.move h r.tier (PageReq.pages r)) }.finishMove

/-- PAGE. -/
def State.doPage (s : State) (h : FrameHead) (op : Nat) (r : PageReq) : State :=
  if !pageReqOk r then s.answer h 0x0C stBadFrame
  else if op = 0 then s.pageMap h r
  else if !pageInSpace r then s.answer h 0x0C stBadAddr
  else match s.pageRefs r with
    | none => s.answer h 0x0C stBadAddr
    | some refs =>
      match op with
      | 1 => if refs.any (fun x => s.ownerLive x.leaf) then s.answer h 0x0C stViolation else s.beginShoot h .unmap refs
      | 2 => s.pageType h r refs
      | 3 => s.beginShoot h .only refs
      | _ => s.pageMove h op r refs

/-! Kills and resets. -/

/-- Whether a kill still has an effect on a node (04 R70). -/
def NodeSt.live (n : NodeSt) : Bool := n.state != .retired && n.state != .killed

/-- KILL (03 R61, 19 R370). -/
def State.doKill (s : State) (h : FrameHead) (launch node : Nat) : State :=
  match Tab.find s.launches launch with
  | none => s.answer h 0x0D stBadHandle
  | some l =>
    if node ≠ 0xFFFFFFFF && node ≥ l.nodes.length then s.answer h 0x0D stBadHandle
    else
      let named := if node = 0xFFFFFFFF then Tab.keys l.nodes else [node]
      let s := named.foldl (fun (s : State) (n : Nat) => match s.nodeSt launch n with
        | some x => if x.live then s.killTask launch n 1 else s
        | none => s) s
      State.finishKill { s with ctl := some (.kill h ((Tab.keys l.nodes).map (fun n => (launch, n)))) }

/-- Every launch is killed (03 R61). -/
def State.killAll (s : State) : State :=
  s.launches.foldl (fun s l => (l.2.nodes.foldl (fun s n => s.killNode l.1 n.1) (s.enterLaunch l.1)).tryComplete l.1) s

/-- A forced RESET strikes an open step with VETO (19 R372). -/
def State.resetStrike (s : State) : State := if s.stepOpenNow then s.strike 1 else s

/-- The end of a work reset: every container is unloaded and no communicator stays halted (03 R61, 17 R345). -/
def State.finishReset (s : State) : State :=
  match s.ctl with
  | some (.resetWork h) =>
    if s.launches.isEmpty then
      let s := (Tab.keys s.containers).foldl (fun s c => s.unload c) s
      { s with halted := [], ctl := none }.answer h 0x0F stOk
    else s
  | _ => s

/-- RESET of scope work. With force the vote that strikes the step comes first, which may wait for the children's (03 R61, 20 R387). -/
def State.doResetWork (s : State) (h : FrameHead) (force : Bool) : State :=
  if s.stepOpenNow && !force then s.answer h 0x0F stStepBusy
  else
    let s := s.resetStrike.vote
    if s.voting then { s with ctl := some (.retry h (.resetWork force)) }
    else { s.killAll with ctl := some (.resetWork h) }.finishReset

/-- RESET of scope module: the reply, then the module reset that follows (21 R400), with force after the vote. -/
def State.doResetModule (s : State) (h : FrameHead) (force : Bool) : State :=
  if s.stepOpenNow && !force then s.answer h 0x0F stStepBusy
  else
    let s := s.resetStrike.vote
    if s.voting then { s with ctl := some (.retry h (.resetModule force)) }
    else { s.answer h 0x0F stOk with ctl := some (.resetModule h) }

/-- FIRMWARE (03 R61): chunks of an image that the next module reset tries. A chunk after a complete image begins a new one (log
47). -/
def State.doFirmware (s : State) (h : FrameHead) (total offset : Nat) (data : List Byte) : State :=
  let f := s.fw
  let f := if f.stagedFull || f.staged.isEmpty then { f with staged := [], stagedTotal := total, stagedFull := false } else f
  if f.stagedTotal ≠ total || offset + data.length > total then s.answer h 0x0E stBadFrame
  else
    let f := { f with staged := (cellsAt offset data).foldl (fun t e => Tab.set t e.1 e.2) f.staged }
    let n := f.staged.length
    if n < total then { s with fw := f }.reply h 0x0E stOk 0 (leBytes 8 n)
    else if Config.imageVerifies (f.staged.map (·.2)) then { s with fw := { f with stagedFull := true } }.reply h 0x0E stOk 0 (leBytes 8 n)
    else { s with fw := { f with staged := [], stagedTotal := 0, stagedFull := false } }.answer h 0x0E stBadSig

/-! Telemetry (21 R401, 17 R336). -/

def linkCode : LinkState → Nat
  | .off => 0 | .train => 1 | .active => 2 | .retrain => 3 | .down => 4

/-- A link status word. -/
def Link.status (l : Link) : Word :=
  BitVec.ofNat 64 (linkCode l.state + l.width * 8 + l.group * 32 + l.speed * 128 + l.retrains * 256 + l.laneFail.toNat * 65536 +
    l.replays * 2 ^ 32)

/-- The status word of a scale-out port, from its flows (17 R331, R336; log 38): its state is OFF while it is disabled or has no
flow, else that of the first flow in RETRAIN, else ACTIVE if some flow is, else DOWN. -/
def State.portStatus (s : State) (p : Nat) : Word :=
  let own := (s.flows.filter (fun e => (e.1 - 2 ^ 20) / 65536 = p)).map (·.2)
  let has (t : LinkState) : Bool := own.any (fun l => l.state == t)
  let st := if !(Tab.get 0 s.portWord (6 + p)).getLsbD 40 || own.isEmpty then LinkState.off
    else if has .retrain then .retrain else if has .active then .active else if has .train then .train else .down
  let sum (f : Link → Nat) : Nat := (own.map f).foldl (· + ·) 0
  BitVec.ofNat 64 (linkCode st + min 255 (sum (·.retrains)) * 256 + min (2 ^ 32 - 1) (sum (·.replays)) * 2 ^ 32)

/-- Hours since the last margin plan. -/
def State.planHours (s : State) : Nat := (s.time - s.lastPlan) / 3600000000000

/-- The words of a group. -/
def State.groupWords (s : State) (g : Nat) : List Word :=
  let n (x : Nat) : Word := BitVec.ofNat 64 x
  let t (k : Nat) : Word := Tab.get 0 s.telem k
  match g with
  | 0 => n s.readings.power :: (List.range 4).map (fun d => n (Tab.get 0 s.clocks d)) ++
      [n ((if s.limitHold then 1 else 0) + (if s.boardHold then 2 else 0))]
  | 1 => (List.range 4).map (fun d => n (Tab.get 0 s.readings.junction d)) ++ [n s.readings.inlet, n s.readings.supply, n s.readings.current]
  | 2 => (List.range 4).map (fun d => n (Tab.get 0 s.readings.margin d)) ++ [n s.planHours]
  | 3 => (List.range 6).map (fun q => (s.link q).status) ++ [s.portStatus 0, s.portStatus 1]
  | 4 => [t tcCorrected, t tcUncorrected]
  | 5 => [t tcPackets, t tcFrames]
  | 6 => [t tcCrc, t tcVc7, t tcLqSlots, t tcArrivals]
  | 7 => [t tcHalyard]
  | _ => []

/-- The groups of a mask in increasing number. -/
def State.groups (s : State) (mask : Word) : List Byte :=
  (List.range 8).flatMap (fun g =>
    if mask.getLsbD g then
      let ws := s.groupWords g
      leBytes 1 g ++ leBytes 1 0 ++ leBytes 2 ws.length ++ leBytes 4 0 ++ ws.flatMap (fun w => leBytes 8 w.toNat)
    else [])

/-- TELEMETRY. -/
def State.doTelemetry (s : State) (h : FrameHead) (mask : Word) (period : Nat) : State :=
  { s with session := s.session.map (fun (z : Session) => { z with mask := mask, period := period }), lastPush := s.time }.reply h 0x10 stOk 0
    (s.groups mask)

/-- XFER (13 R267). -/
def State.doXfer (s : State) (h : FrameHead) (id offset len : Nat) (last : Bool) (data : List Byte) : State :=
  match Tab.find s.transfers id with
  | none => s.answer h 0x11 stBadHandle
  | some t =>
    let n := imageLen t.wos
    if len > 8192 || data.length ≠ (if t.dirIn then len else 0) then s.answer h 0x11 stBadFrame
    else if offset + len > n then s.answer h 0x11 stBadAddr
    else if t.dirIn then
      let got := (cellsAt offset data).foldl (fun m e => Tab.set m e.1 e.2) t.got
      if got.length = n then
        ({ s with transfers := Tab.set s.transfers id { t with got := got } }.endTransfer id).answer h 0x11 stOk
      else if last then s.answer h 0x11 stBadAddr
      else { s with transfers := Tab.set s.transfers id { t with got := got } }.answer h 0x11 stOk
    else match s.walk (t.page * 65536) with
      | none => s.answer h 0x11 stBadHandle
      | some r =>
        if last && len = 0 then (s.endTransfer id).answer h 0x11 stOk
        else s.reply h 0x11 stOk 0 ((List.range len).map (fun k => s.imageByte r t.page (offset + k)))

/-! Management requests. -/

/-- SCHED-SET (04 R76). -/
def State.doSched (s : State) (h : FrameHead) (w : Word) : State :=
  if fld w.toNat 31 8 = 0 || fld w.toNat 7 1 ≠ 0 || fld w.toNat 63 32 ≠ 0 then s.answer h 0x40 stBadFrame
  else { s with sched := w }.reply h 0x40 stOk 0 (leBytes 8 s.sched.toNat)

/-- CARVE-SET (13 R248): every dirty line of the die is written back; those of a page that moves stay until it has moved (13 R271). -/
def State.doCarve (s : State) (h : FrameHead) (die ways : Nat) : State :=
  if die > 3 || ways > 12 then s.answer h 0x41 stBadFrame
  else if s.cores.any (fun e => dieOf e.1 = die && (e.2.occ.isSome || !e.2.slots.isEmpty)) then s.answer h 0x41 stBusy
  else
    let t := s.writeBack die 0 (2 ^ 62)
    { t with cached := t.cached.filter (fun c => c.holder != die), carve := Tab.set s.carve die ways }.reply
      h 0x41 stOk 0 (leBytes 1 (Tab.get 0 s.carve die))

/-- TIER-SET (13 R269). -/
def State.doTier (s : State) (h : FrameHead) (tier : Nat) (w : BitVec 128) : State :=
  if tier > 2 || markLow w ≥ markHigh w || fld w.toNat 127 96 ≠ 0 || (tier < 2 && markPool w ≠ 0) then s.answer h 0x42 stBadFrame
  else { s with marks := Tab.set s.marks tier w }.reply h 0x42 stOk 0 (leBytes 16 (Tab.get 0 s.marks tier).toNat)

/-- Fields of a link control word that are out of range. -/
def linkWordBad (w : Word) : Bool :=
  (List.range 8).any (fun v => fld w.toNat (2 * v + 1) (2 * v) = 3) || fld w.toNat 23 16 = 0 || fld w.toNat 31 24 = 0 ||
    fld w.toNat 39 32 = 0 || fld w.toNat 63 41 ≠ 0

/-- A link takes its new control word (17 R331, R336): ENABLE = 0 holds it OFF, ENABLE = 1 takes it to TRAIN from OFF or
DOWN, and a MODE change retrains it. Failed lanes are tried again (17 R329). -/
def State.applyLink (s : State) (k : Nat) (w : Word) : State :=
  let old := (s.link k).word
  let st := (s.link k).state
  let s := s.setLink k { s.link k with word := w }
  if !w.getLsbD 40 then
    let s := if st == .off then s else s.linkDown k
    s.setLink k { s.link k with state := .off }
  else if st == .off || st == .down then
    s.setLink k { s.link k with state := .train, partnerAt := s.time, laneFail := 0, disagree := 0, sent := false }
  else if fld old.toNat 15 0 ≠ fld w.toNat 15 0 then s.retrain k
  else s

/-- The flows of a port take its new control word, each as a link does (17 R331, R336, R337). -/
def State.applyPort (s : State) (p : Nat) (w : Word) : State :=
  let s := { s with portWord := Tab.set s.portWord (6 + p) w }
  (s.flows.filter (fun e => (e.1 - 2 ^ 20) / 65536 = p)).foldl (fun s e => s.applyLink e.1 w) s

/-- LINK-SET (17 R336). -/
def State.doLink (s : State) (h : FrameHead) (k : Nat) (w : Word) : State :=
  let old := if k < 6 then (s.link k).word else Tab.get 0 s.portWord k
  if k > 7 || linkWordBad w then s.answer h 0x43 stBadFrame
  else if s.stepOpenNow && (fld old.toNat 15 0 ≠ fld w.toNat 15 0 || old.getLsbD 40 != w.getLsbD 40) then s.answer h 0x43 stStepBusy
  else (if k < 6 then s.applyLink k w else s.applyPort (k - 6) w).reply h 0x43 stOk 0 (leBytes 8 old.toNat)

/-- FABRIC-SET (17 R325). -/
def State.doFabric (s : State) (h : FrameHead) (w pre : Word) : State :=
  if s.stepOpenNow then s.answer h 0x44 stStepBusy
  else if fld w.toNat 63 16 ≠ 0 || (List.range 4).any (fun d => coord s.deviceId d > fld w.toNat (4 * d + 3) (4 * d)) then
    s.answer h 0x44 stBadFrame
  else { s with fabric := w, fprefix := pre }.reply h 0x44 stOk 0 (leBytes 8 s.fabric.toNat ++ leBytes 8 s.fprefix.toNat)

/-- COMM-SET (17 R339). -/
def State.doComm (s : State) (h : FrameHead) (c : Nat) (w : Word) : State :=
  let busy := s.cores.any (fun e => e.2.colls.any (fun x => x.comm = c))
  let bad := c > 15 || fld w.toNat 63 33 ≠ 0 ||
    (w.getLsbD 32 && ((List.range 4).any (fun d => commLo w d > commHi w d) || !commHas w s.deviceId))
  if s.stepOpenNow then s.answer h 0x45 stStepBusy
  else if busy then s.answer h 0x45 stBusy
  else if bad then s.answer h 0x45 stBadFrame
  else { s with comms := Tab.set s.comms c w }.reply h 0x45 stOk 0 (leBytes 8 (Tab.get 0 s.comms c).toNat)

/-- HALYARD-SET (20 R385). -/
def State.doHalyard (s : State) (h : FrameHead) (w : BitVec 256) : State :=
  let f (hi lo : Nat) : Nat := fld w.toNat hi lo
  let root := f 16 16 = 1
  let size := f 160 144
  if s.stepOpenNow then s.answer h 0x46 stStepBusy
  else if f 31 21 ≠ 0 || f 175 161 ≠ 0 || f 255 208 ≠ 0 || f 20 18 > 7 || (root && (size = 0 || size > 65536)) ||
      (!root && size ≠ 0) || f 191 176 = 0 || f 207 192 = 0 || (root && f 15 0 ≠ 0) then s.answer h 0x46 stBadFrame
  else { s with tree := w }.reply h 0x46 stOk 0 (leBytes 32 s.tree.toNat)

def powerLimit (w : Word) : Nat := fld w.toNat 15 0
def powerFmin (w : Word) : Nat := fld w.toNat 31 16

/-- POWER-SET (21 R394). -/
def State.doPower (s : State) (h : FrameHead) (w : Word) : State :=
  let f := powerFmin w
  if powerLimit w < 1000 || powerLimit w > 4000 || f < 800 || f > 1600 || f % 25 ≠ 0 || fld w.toNat 63 32 ≠ 0 then s.answer h 0x47 stBadFrame
  else { s with power := w }.reply h 0x47 stOk 0 (leBytes 8 s.power.toNat)

/-- A new margin plan (21 R397; log 23): it takes effect at the first instant at which the step state is NONE. -/
def State.newPlan (s : State) : State :=
  let t := { s with
    lastPlan := s.time, replanning := false, nextPlan := some (MarginPlan.formed (s.fresh + 1)), fresh := s.fresh + 1 }
  if s.stepOpenNow then t else t.takePlan

/-- MARGIN (21 R397). -/
def State.doMargin (s : State) (h : FrameHead) : State :=
  if s.replanning then s.answer h 0x48 stBusy else s.newPlan.answer h 0x48 stOk

/-- REMOTE-SET (23 R403): its refusals are the same whether it binds or clears (log 47). -/
def State.doRemote (s : State) (h : FrameHead) (handle : Nat) (t : RemoteTarget) (bind : Bool) : State :=
  match Tab.find s.containers handle with
  | none => s.answer h 0x49 stBadHandle
  | some c => match c.accepted, c.plan[t.record]? with
    | true, some p =>
      if s.inUse handle then s.answer h 0x49 stBusy
      else if t.ipa % 65536 ≠ 0 || t.ipa + p.size > 2 ^ 52 || t.dev = s.deviceId || t.dev ≥ 65536 then s.answer h 0x49 stBadFrame
      else if p.flags.getLsbD 4 || p.type = 3 then s.answer h 0x49 stBadType
      else
        let binds := if bind then Tab.set c.binds t.record (t.dev, t.ipa) else Tab.del c.binds t.record
        { s with containers := Tab.set s.containers handle { c with binds := binds } }.answer h 0x49 stOk
    | _, _ => s.answer h 0x49 stBadHandle

def boardInlet (w : Word) : Nat := fld w.toNat 15 0
def boardVmin (w : Word) : Nat := fld w.toNat 31 16
def boardVmax (w : Word) : Nat := fld w.toNat 47 32

def State.clockOf (s : State) (d : Nat) : Nat := Tab.get 1600 s.clocks d
def State.setClock (s : State) (d mhz : Nat) : State := { s with clocks := Tab.set s.clocks d mhz }

/-- A die that its junction or the board holds at FMIN. -/
def State.dieHeld (s : State) (d : Nat) : Bool := s.boardHold || s.thermalHold.contains d

/-- Clocks stand at or above FMIN, and held dies at it. -/
def State.clampClocks (s : State) : State :=
  (List.range 4).foldl (fun s d =>
    let f := powerFmin s.power
    s.setClock d (if s.dieHeld d then f else max f (s.clockOf d))) s

/-- The cause of a reading outside the limits: 0 inlet, 1 supply low, 2 supply high. -/
def boardCause (w : Word) (inlet : Bool) (reading : Nat) : Option Nat :=
  if inlet then (if reading > boardInlet w * 100 then some 0 else none)
  else if reading < boardVmin w then some 1
  else if reading > boardVmax w then some 2
  else none

/-- Whether the last readings stand within the limits; a supply of which there is no reading does (log 23). -/
def State.boardFine (s : State) : Bool :=
  (boardCause s.board true s.readings.inlet).isNone && (s.readings.supply = 0 || (boardCause s.board false s.readings.supply).isNone)

/-- The standing readings are judged by the limits (21 R396): one outside begins an episode with its event, unless one stands; while
all are within, the time to its end runs. -/
def State.judgeBoard (s : State) : State :=
  if s.boardFine then (if s.boardHold && s.boardOkSince.isNone then { s with boardOkSince := some s.time } else s)
  else
    let t := { s with boardHold := true, boardOkSince := none }.clampClocks
    if s.boardHold then t
    else match boardCause s.board true s.readings.inlet, boardCause s.board false s.readings.supply with
      | some c, _ => t.emit 0x8B (leBytes 1 c ++ leBytes 7 0 ++ leBytes 8 s.readings.inlet)
      | none, some c => t.emit 0x8B (leBytes 1 c ++ leBytes 7 0 ++ leBytes 8 s.readings.supply)
      | none, none => t

/-- BOARD-SET (21 R396). -/
def State.doBoard (s : State) (h : FrameHead) (w : Word) : State :=
  let volt (n : Nat) : Bool := 40000 ≤ n && n ≤ 56000
  if boardInlet w < 100 || boardInlet w > 800 || !volt (boardVmin w) || !volt (boardVmax w) || boardVmin w ≥ boardVmax w ||
      fld w.toNat 63 48 ≠ 0 then s.answer h 0x4A stBadFrame
  else { s with board := w }.judgeBoard.reply h 0x4A stOk 0 (leBytes 8 s.board.toNat)

/-! Classes (03 R59). -/

/-- A request runs. -/
def State.runCmd (s : State) (h : FrameHead) : Cmd → State
  | .hello p => s.doHello h p
  | .attest c => s.doAttest h c
  | .loadContainer a t o d i => s.doLoad h a t o d i
  | .unloadContainer a => s.doUnload h a
  | .patch a i v => s.doPatch h a i v
  | .launch a g => s.doLaunch h a g
  | .stepOpen o => s.doStepOpen h o
  | .stepClose a => s.doStepClose h a
  | .read p a l x => s.doRead h p a l x
  | .write p a l x d => s.doWrite h p a l x d
  | .page op r => s.doPage h op r
  | .kill l n => s.doKill h l n
  | .firmware t o d => s.doFirmware h t o d
  | .resetWork f => s.doResetWork h f
  | .resetModule f => s.doResetModule h f
  | .schedSet w => s.doSched h w
  | .carveSet d n => s.doCarve h d n
  | .tierSet t w => s.doTier h t w
  | .linkSet k w => s.doLink h k w
  | .fabricSet w p => s.doFabric h w p
  | .commSet c w => s.doComm h c w
  | .halyardSet w => s.doHalyard h w
  | .powerSet w => s.doPower h w
  | .margin => s.doMargin h
  | .remoteSetBind a r d i => s.doRemote h a ⟨r, d, i⟩ true
  | .remoteSetClear a t => s.doRemote h a t false
  | .boardSet w => s.doBoard h w

/-- An accepted control-class request runs, or waits for those before it. -/
def State.queueCmd (s : State) (h : FrameHead) (c : Cmd) : State :=
  if s.ctl.isSome || !s.ctlQueue.isEmpty then { s with ctlQueue := s.ctlQueue ++ [(h, c)] } else s.runCmd h c

/-- A control-class request arrives. -/
def State.control (s : State) (h : FrameHead) (c : Cmd) : State :=
  let (s, go) := s.accept h c.code (c.code == 0x02)
  if go then s.queueCmd h c else s

/-- The first waiting request runs when none is under way. -/
def State.nextCmd (s : State) : State :=
  match s.ctl, s.ctlQueue with
  | none, e :: r => { s with ctlQueue := r }.runCmd e.1 e.2
  | _, _ => s

/-- Requests that wait are tried again (03 R61). -/
def State.retryCmds (s : State) : State :=
  let s := (List.range s.held.length).reverse.foldl (fun s n => s.cmdTurn n false) s
  match s.ctl with
  | some (.retry h c) => { s with ctl := none }.runCmd h c
  | _ => s

end Sys2Proof.Machine
end

