-- ==== Sys2Proof/Machine/Host.lean ====
section
/-! DEFINITION. The rows of the opcode table that the host sends on the command port (03 R52 to R67), and what the port
does by itself (03 R52, R62; 21 R401). -/

namespace Sys2Proof.Machine

/-! Sessions. -/

/-- HELLO (03 R56): unsealed; a malformed head is dropped and counted (03 R54). -/
def execHello (f : FrameHead) (payload : List Byte) (s : State) : Host.Outcome State Fault Refusal :=
  .next (if f.headOk then s.queueCmd f (.hello payload) else s.count tcFrames)

/-! Control class (03 R59). -/

/-- ATTEST (03 R57, 21 R399). -/
def execAttest (f : FrameHead) (challenge : List Byte) (s : State) : Host.Outcome State Fault Refusal :=
  .next (s.control f (.attest challenge))

/-- LOAD_CONTAINER (03 R61, 02 R50). -/
def execLoadContainer (f : FrameHead) (handle total offset : Nat) (data : List Byte) (ipas : List Nat) (s : State) :
    Host.Outcome State Fault Refusal :=
  .next (s.control f (.loadContainer handle total offset data ipas))

/-- UNLOAD_CONTAINER (03 R61). -/
def execUnloadContainer (f : FrameHead) (handle : Nat) (s : State) : Host.Outcome State Fault Refusal :=
  .next (s.control f (.unloadContainer handle))

/-- PATCH (03 R61). -/
def execPatch (f : FrameHead) (handle index : Nat) (value : Word) (s : State) : Host.Outcome State Fault Refusal :=
  .next (s.control f (.patch handle index value))

/-- LAUNCH (03 R61, 04 R72). -/
def execLaunch (f : FrameHead) (handle graph : Nat) (s : State) : Host.Outcome State Fault Refusal :=
  .next (s.control f (.launch handle graph))

/-- STEP_OPEN (03 R65). -/
def execStepOpen (f : FrameHead) (o : OpenReq) (s : State) : Host.Outcome State Fault Refusal :=
  .next (s.control f (.stepOpen o))

/-- STEP_CLOSE (03 R61). -/
def execStepClose (f : FrameHead) (attempt : Nat) (s : State) : Host.Outcome State Fault Refusal :=
  .next (s.control f (.stepClose attempt))

/-- PAGE_MAP (13 R257, 14 R287). -/
def execPageMap (f : FrameHead) (r : PageReq) (s : State) : Host.Outcome State Fault Refusal :=
  .next (s.control f (.page 0 r))

/-- PAGE_UNMAP (13 R257). -/
def execPageUnmap (f : FrameHead) (r : PageReq) (s : State) : Host.Outcome State Fault Refusal :=
  .next (s.control f (.page 1 r))

/-- PAGE_SET_TYPE (14 R288 to R290). -/
def execPageSetType (f : FrameHead) (r : PageReq) (s : State) : Host.Outcome State Fault Refusal :=
  .next (s.control f (.page 2 r))

/-- PAGE_SHOOT_DOWN (13 R258). -/
def execPageShootDown (f : FrameHead) (r : PageReq) (s : State) : Host.Outcome State Fault Refusal :=
  .next (s.control f (.page 3 r))

/-- PAGE_DEMOTE (13 R270). -/
def execPageDemote (f : FrameHead) (r : PageReq) (s : State) : Host.Outcome State Fault Refusal :=
  .next (s.control f (.page 4 r))

/-- PAGE_PROMOTE (13 R270). -/
def execPagePromote (f : FrameHead) (r : PageReq) (s : State) : Host.Outcome State Fault Refusal :=
  .next (s.control f (.page 5 r))

/-- KILL (03 R61, 19 R370). -/
def execKill (f : FrameHead) (launch node : Nat) (s : State) : Host.Outcome State Fault Refusal :=
  .next (s.control f (.kill launch node))

/-- FIRMWARE (03 R61). -/
def execFirmware (f : FrameHead) (total offset : Nat) (data : List Byte) (s : State) : Host.Outcome State Fault Refusal :=
  .next (s.control f (.firmware total offset data))

/-- RESET_WORK (03 R61). -/
def execResetWork (f : FrameHead) (force : Bool) (s : State) : Host.Outcome State Fault Refusal :=
  .next (s.control f (.resetWork force))

/-- RESET_MODULE (03 R61, 21 R400). -/
def execResetModule (f : FrameHead) (force : Bool) (s : State) : Host.Outcome State Fault Refusal :=
  .next (s.control f (.resetModule force))

/-- SCHED_SET (04 R76). -/
def execSchedSet (f : FrameHead) (word : Word) (s : State) : Host.Outcome State Fault Refusal :=
  .next (s.control f (.schedSet word))

/-- CARVE_SET (13 R248). -/
def execCarveSet (f : FrameHead) (die ways : Nat) (s : State) : Host.Outcome State Fault Refusal :=
  .next (s.control f (.carveSet die ways))

/-- TIER_SET (13 R269). -/
def execTierSet (f : FrameHead) (tier : Nat) (word : BitVec 128) (s : State) : Host.Outcome State Fault Refusal :=
  .next (s.control f (.tierSet tier word))

/-- LINK_SET (17 R336). -/
def execLinkSet (f : FrameHead) (link : Nat) (word : Word) (s : State) : Host.Outcome State Fault Refusal :=
  .next (s.control f (.linkSet link word))

/-- FABRIC_SET (17 R325). -/
def execFabricSet (f : FrameHead) (word pre : Word) (s : State) : Host.Outcome State Fault Refusal :=
  .next (s.control f (.fabricSet word pre))

/-- COMM_SET (17 R339). -/
def execCommSet (f : FrameHead) (c : Nat) (word : Word) (s : State) : Host.Outcome State Fault Refusal :=
  .next (s.control f (.commSet c word))

/-- HALYARD_SET (20 R385). -/
def execHalyardSet (f : FrameHead) (word : BitVec 256) (s : State) : Host.Outcome State Fault Refusal :=
  .next (s.control f (.halyardSet word))

/-- POWER_SET (21 R394). -/
def execPowerSet (f : FrameHead) (word : Word) (s : State) : Host.Outcome State Fault Refusal :=
  .next (s.control f (.powerSet word))

/-- MARGIN (21 R397). -/
def execMargin (f : FrameHead) (s : State) : Host.Outcome State Fault Refusal :=
  .next (s.control f (.margin))

/-- REMOTE_SET bind (23 R403). -/
def execRemoteSetBind (f : FrameHead) (handle rec dev ipa : Nat) (s : State) : Host.Outcome State Fault Refusal :=
  .next (s.control f (.remoteSetBind handle rec dev ipa))

/-- REMOTE_SET clear (23 R403). -/
def execRemoteSetClear (f : FrameHead) (handle : Nat) (t : RemoteTarget) (s : State) : Host.Outcome State Fault Refusal :=
  .next (s.control f (.remoteSetClear handle t))

/-- BOARD_SET (21 R396). -/
def execBoardSet (f : FrameHead) (word : Word) (s : State) : Host.Outcome State Fault Refusal :=
  .next (s.control f (.boardSet word))

/-! Quick class (03 R59): executed as accepted. -/

def State.quick (s : State) (f : FrameHead) (code : Nat) (run : State → State) : State :=
  let (s, go) := s.accept f code false
  if go then run s else s

/-- STEP_STATUS (03 R61, 20 R390). -/
def execStepStatus (f : FrameHead) (attempt : Nat) (supplied : Bool) (verdict : Nat) (word : BitVec 16) (s : State) :
    Host.Outcome State Fault Refusal :=
  .next (s.quick f 0x08 (fun s => s.doStepStatus f attempt supplied verdict word))

/-- VETO (03 R61, R66). -/
def execVeto (f : FrameHead) (attempt : Nat) (soft : BitVec 8) (s : State) : Host.Outcome State Fault Refusal :=
  .next (s.quick f 0x09 (fun s => s.doVeto f attempt soft))

/-- READ (03 R61). -/
def execRead (f : FrameHead) (ipaSpace : Bool) (handle len addr : Nat) (s : State) : Host.Outcome State Fault Refusal :=
  .next (s.quick f 0x0A (fun s => s.doRead f ipaSpace handle len addr))

/-- WRITE (03 R61). -/
def execWrite (f : FrameHead) (ipaSpace : Bool) (handle len addr : Nat) (data : List Byte) (s : State) :
    Host.Outcome State Fault Refusal :=
  .next (s.quick f 0x0B (fun s => s.doWrite f ipaSpace handle len addr data))

/-- TELEMETRY (21 R401). -/
def execTelemetry (f : FrameHead) (mask : Word) (period : Nat) (s : State) : Host.Outcome State Fault Refusal :=
  .next (s.quick f 0x10 (fun s => s.doTelemetry f mask period))

/-- XFER (13 R267). -/
def execXfer (f : FrameHead) (id offset len : Nat) (last : Bool) (data : List Byte) (s : State) :
    Host.Outcome State Fault Refusal :=
  .next (s.quick f 0x11 (fun s => s.doXfer f id offset len last data))

/-! What the port does by itself. -/

/-- PACKET_DROPPED (03 R52). -/
def execPacketDropped (s : State) : Host.Outcome State Fault Refusal := .next (s.count tcPackets)

/-- Events under new sequence numbers from n on (03 R62). -/
def resent (session n : Nat) (l : List Ev) : List Out :=
  ((List.range l.length).zip l).map (fun e => Out.event session (n + e.1) e.2.num e.2.code e.2.payload)

/-- EVENT_REPEAT (03 R62): every 10 ms, under new sequence numbers and the same event numbers. -/
def execEventRepeat (s : State) : Host.Outcome State Fault Refusal :=
  .next (if s.time ≥ s.lastRepeat + 10000000 then
    match s.session with
    | some z =>
      let z' : Session := { z with txSeq := z.txSeq + z.unacked.length }
      { s with lastRepeat := s.time, session := some z', out := s.out ++ resent z.id (z.txSeq + 1) z.unacked }
    | none => { s with lastRepeat := s.time }
  else s)

/-- TELEMETRY_PUSH (21 R401): every push period of the session. -/
def execTelemetryPush (s : State) : Host.Outcome State Fault Refusal :=
  .next (match s.session with
    | some z =>
      if z.period ≠ 0 && s.time ≥ s.lastPush + z.period * 1000000 then
        { s with lastPush := s.time }.emit 0x8A (s.groups z.mask)
      else s
    | none => s)

end Sys2Proof.Machine
end

