-- ==== Sys2Proof/Machine/Lost.lean ====
section
/-! DEFINITION. A promotion that has not completed within 100 ms (13 R266, R267): what the page holds fails with
PAGE_LOST, the transfer closes, and the page stays in its tier. -/

namespace Sys2Proof.Machine

/-- A state taken only where a test holds. -/
def takeIf (s t : State) (b : Bool) : State := if b then t else s

/-- Units of accesses that the page holds fail. -/
def State.loseAccess (s : State) (c : Nat) (a : Access) : State :=
  a.elems.foldl (fun s e =>
    if e.done then s
    else match s.tryUnit c a e with
      | (.fail code, _, _) => takeIf s (s.performElem c a.id e.idx) (code = fcPageLost)
      | _ => s) s

/-- A copy that the page holds fails. -/
def State.loseCopy (s : State) (c : Nat) (e : Eng) : State :=
  let t := s.runCopy c e
  takeIf s t (((t.core c).engine e).failures != ((s.core c).engine e).failures)

/-- The outcome of a meaning that always answers a next state. -/
def nextOr (s : State) : Host.Outcome State Fault Refusal → State
  | .next t => t
  | _ => s

/-- A row of a run that the page holds fails. -/
def State.loseUnit (s : State) (u : Nat) : State :=
  let t := match s.nextMicro u with
    | some (.nld q n) => nextOr s (execNld q n { s with curUnit := u })
    | some (.nst n q) => nextOr s (execNst n q { s with curUnit := u })
    | _ => s
  takeIf s t ((t.unit u).run != (s.unit u).run)

/-- A run that waits to start fails. -/
def State.loseRun (s : State) (n : Nat) : State :=
  let t := nextOr s (execNmRunStart n s)
  takeIf s t (match t.run n with | some r => (match r.fault with | some f => f.code = fcPageLost | none => false) | none => false)

/-- A collective that the page holds fails: the first call may only find that its wait has ended. -/
def State.loseColl (s : State) (c id : Nat) : State :=
  let t := nextOr s (execCollStart c id [] s)
  let t := nextOr t (execCollStart c id [] t)
  let refused := match (t.core c).colls.find? (fun x => x.id = id) with
    | some x => (match x.fault with | some f => f.code = fcPageLost | none => false)
    | none => false
  takeIf s t (refused || (t.core c).faults.length > (s.core c).faults.length)

/-- A fetch that the page holds fails (18 R349). -/
def State.loseFetch (s : State) (c : Nat) : State :=
  match s.beforeIssue c with
  | none => s
  | some (first, t) => if first ≠ c then s
    else match t.ready first (s.gang first) false with
      | .fault m f => takeIf s (s.takeFault m f) (f.code = fcPageLost)
      | _ => s

/-- Everything of a core that the page holds. -/
def State.loseCore (s : State) (c : Nat) : State :=
  let s := (s.core c).land.foldl (fun s a => if a.level = 4 && a.open && a.fault.isNone then s.loseAccess c a else s) s
  let s := (s.loseCopy c .a).loseCopy c .b
  let s := ((s.core c).colls.map (·.id)).foldl (fun s id => s.loseColl c id) s
  s.loseFetch c

/-- Everything that the page holds: cores, near-memory units, other devices, and the host. -/
def State.loseAll (s : State) : State :=
  let s := (Tab.keys s.cores).foldl (fun s c => s.loseCore c) s
  let s := (Tab.keys s.units).foldl (fun s u => s.loseUnit u) s
  let s := (Tab.keys s.runs).foldl (fun s n => s.loseRun n) s
  let s := (List.range s.remote.length).reverse.foldl (fun s n => s.retryRemote n false) s
  s.retryCmds

/-- Since when the promotion of a page has been asked for: its transfers, its move, or the wait for a frame (13 R266, R267). -/
def State.promotionSince (s : State) (r : PageRef) : Option Nat :=
  let own := (s.transfers.filter (fun e => e.2.dirIn && r.base ≤ e.2.page && e.2.page < r.base + r.count)).map (·.2.since)
  let move := match Tab.find s.moves r.base with | some m => if m.tier < r.leaf.tier then [m.since] else [] | none => []
  let want := match Tab.find s.wants r.base with | some t => [t] | none => []
  match own ++ move ++ want with
  | [] => none
  | t :: l => some (l.foldl min t)

/-- PAGE_LOST (13 R266, R267): the promotion of a page, by one of its IPAs, has not completed in 100 ms. -/
def execPageLost (ipa : Nat) (s : State) : Host.Outcome State Fault Refusal :=
  .next (match s.walk ipa with
    | none => s
    | some r0 =>
      let r := s.wholeOf r0
      match s.promotionSince r with
      | none => s
      | some t =>
        if s.time < t + ms100 then s
        else
          let s := { s with lost := s.sharedPages r }.loseAll
          let s := { s with lost := [] }.closeTransfers r
          { s with wants := Tab.del s.wants r.base }.loseMove r)

end Sys2Proof.Machine
end

