-- ==== Sys2Proof/Machine/Matrix.lean ====
section
/-! DEFINITION. The MX slot (10 R189 to R206): accumulators, group sums (07 R147, R148), unfolding and drains. -/

namespace Sys2Proof.Machine

/-! Accumulators. -/

/-- The containers of an accumulator (10 R189). -/
def Core.accVal (k : Core) (a : Nat) : List Word := (Tab.find k.acc a).getD (List.replicate 4096 0)

/-- The latest compute-port result in flight of an accumulator (10 R193). -/
def Core.chained (k : Core) (a : Nat) : Option (List Word) :=
  k.pend.foldl (fun r p => match p.eff with
    | .acc b v => if b = a then some v else r
    | _ => r) none

/-- A byte of the scratchpad; the spec states none past its end, so it is free there (log 34). -/
def State.mxByte (s : State) (a : Nat) : Byte := if a < spBytes then s.me.sp.read a else Config.freeByte (s.fresh + a)

/-- A fresh block of free bytes for an instruction whose tensor runs past the scratchpad. -/
def State.useFree (s : State) (e : Wide) : State := if footEnd e > spBytes then { s with fresh := s.fresh + 2 ^ 64 } else s

/-! Group sums (07 R147). -/

/-- NaN codes of an operand in the result format. -/
def nanOf (src dst : Fmt) : FV → List Nat
  | .nan c => [convNan src dst c]
  | _ => []

/-- The sum of two values before rounding. -/
def exPlus : Ex → Ex → Ex
  | .invalid, _ => .invalid
  | _, .invalid => .invalid
  | .inf a, .inf b => if a == b then .inf a else .invalid
  | .inf a, .val _ => .inf a
  | .val _, .inf b => .inf b
  | .val a, .val b => .val (a.add b)

/-- A value as a sum's start. -/
def FV.toEx : FV → Ex
  | .nan _ => .invalid
  | .inf n => .inf n
  | .num n m x => .val (FV.num n m x).exact

/-- One group: exact products and the old value, one rounding (07 R147). -/
def mmaGroup (f : Fmt) (cx : NanCtx) (fa fb : Fmt) (acc : Nat) (ts : List (FV × FV)) : Nat :=
  let v := fvOf f acc
  let nans := nanOf f f v ++ ts.flatMap (fun t => nanOf fa f t.1 ++ nanOf fb f t.2)
  if !nans.isEmpty then pickNan f nans
  else match ts.foldl (fun e t => exPlus e (exMul t.1 t.2)) v.toEx with
    | .invalid => newNan f cx
    | .inf n => f.signed n (f.maxMag + 1)
    | .val e => (roundArith f .rne e).1

/-- One accumulator element over all its groups, and whether it is non-finite from finite operands (07 R146). -/
def mmaElem (f : Fmt) (cx : NanCtx) (fa fb : Fmt) (g : Nat) (base : Nat) (row col : List FV) : Nat × Bool :=
  let r := (chunks g row.length (row.zip col)).foldl (mmaGroup f cx fa fb) base
  (r, !(fvOf f r).isFinite && (fvOf f base).isFinite && row.all FV.isFinite && col.all FV.isFinite)

/-- The integer of an integer element. -/
def FV.int : FV → Int
  | .num n m _ => if n then -(m : Int) else m
  | _ => 0

/-- An INT32 element (07 R148). -/
def mmaInt (base : Nat) (row col : List FV) : Nat :=
  intPat 32 ((row.zip col).foldl (fun a t => a + t.1.int * t.2.int) (intVal true 32 base))

/-! Operands (10 R191, R201). -/

def zeroFV : FV := .num false 0 0

/-- The indices of A's element, of B's element, and of MLOAD's and MDRAIN's window; none outside the tensor. -/
def idxIn (e : Wide) (i0 i1 i2 i3 : Nat) : Option (Nat × Nat × Nat × Nat) :=
  if i0 < tExt e 0 && i1 < tExt e 1 && i2 < tExt e 2 && i3 < tExt e 3 then some (i0, i1, i2, i3) else none

def aIdx (e : Wide) (o : Word) (i k : Nat) : Option (Nat × Nat × Nat × Nat) :=
  idxIn e (originIdx o 0 + k) (originIdx o 1 + i) (originIdx o 2) (originIdx o 3)
def bIdx (e : Wide) (o : Word) (k j : Nat) : Option (Nat × Nat × Nat × Nat) :=
  idxIn e (originIdx o 0 + j) (originIdx o 1 + k) (originIdx o 2) (originIdx o 3)

/-- The element of the virtual A (10 R201): `u` is the mode, `w` the window and `f` the filter. -/
def uIdx (e : Wide) (u : Nat) (w f : Word) (i k : Nat) : Option (Nat × Nat × Nat × Nat) :=
  let stride : Int := if u = 2 || u = 4 then 2 else 1
  let dil : Int := if u = 3 || u = 4 then 2 else 1
  let n := unfoldK0 w + k
  let c := n % tExt e 0
  let tap := n / tExt e 0
  let fw := fld f.toNat 3 0 + 1
  let fx : Int := (tap % fw : Nat)
  let fy : Int := (tap / fw : Nat)
  let x : Int := ((fld w.toNat 39 24 + i : Nat) : Int) * stride + fx * dil - fld f.toNat 11 8
  let y : Int := (fld w.toNat 51 40 : Int) * stride + fy * dil - fld f.toNat 15 12
  if tap < unfoldTaps f && 0 ≤ x && x < tExt e 1 && 0 ≤ y && y < tExt e 2 then
    some (c, x.toNat, y.toNat, fld w.toNat 63 52)
  else none

/-- An operand element's value; outside the tensor +0. -/
def State.mxElem (s : State) (e : Wide) (nan : Nat) : Option (Nat × Nat × Nat × Nat) → FV
  | some (a, b, c, d) => tElem e s.mxByte nan a b c d
  | none => zeroFV

/-- The bytes that an operand element is read from, with the line that it feeds (10 R206). -/
def readSpan (e : Wide) (line : Nat) : Option (Nat × Nat × Nat × Nat) → List (Nat × Nat × Nat)
  | some (a, b, c, d) =>
    (tHalfAddr e a b c d / 2, (tHalf e + 1) / 2, line) :: (if tBlock e = 0 then [] else [(tScaleAddr e a b c d, 1, line)])
  | none => []

/-- A compute-port instruction: its accumulator's tag, occupancy, landing, record and reads (10 R189, R192, R195). -/
def State.compute (s : State) (a tag occ lat : Nat) (v : List Word) (mma chain bad wide : Bool)
    (rows cols : List (Nat × Nat × Nat)) : State :=
  let s := s.post lat (.acc a v)
  s.modMe (fun k => { k with
    atag := Tab.set k.atag a tag,
    busyC := k.now + occ,
    second := if bad then min 255 (k.second + 1) else k.second,
    mx := k.mx ++ [⟨s.seq, k.now + lat, a, chain, false, bad, mma, k.tag a⟩],
    mxReads := if rows.isEmpty && cols.isEmpty then k.mxReads
      else k.mxReads ++ [⟨s.seq, k.now, k.now + occ, a, wide, rows, cols⟩] })

/-- MZERO (10 R199). -/
def execMzero (acc : Nat) (s : State) : Host.Outcome State Fault Refusal :=
  syl .mx (.mzero acc) s (fun s => s.compute acc 3 1 14 (List.replicate 4096 0) false false false false [] [])

/-- MMA and MMAU (10 R200): `ai` gives the indices of A's elements. -/
def State.matMul (s : State) (o : MmaOp) (ai : Nat → Nat → Option (Nat × Nat × Nat × Nat)) : State :=
  let k := s.me
  let eA := Tab.get 0 k.tt o.tA
  let eB := Tab.get 0 k.tt o.tB
  let depth := 32 * (o.kn + 1)
  let oB := k.sc o.soffB
  match pairing (tKind eA) (tKind eB) depth with
  | none => s
  | some (tag, g, occ0) =>
    let cx := s.nanCtx s.cur
    let occ := occ0 + (if o.c then 4 else 0)
    let line := List.range 64
    let ks := List.range depth
    let nfA := tNanFmt eA
    let nfB := tNanFmt eB
    let bi (kk j : Nat) := bIdx eB oB kk j
    let A := line.map (fun i => ks.map (fun x => s.mxElem eA (newNan nfA cx) (ai i x)))
    let B := line.map (fun j => ks.map (fun x => s.mxElem eB (newNan nfB cx) (bi x j)))
    let chained := if o.z then none else k.chained o.acc
    let base := if o.z then List.replicate 4096 (0 : Word) else chained.getD (k.accVal o.acc)
    let bad := o.c && !o.z && chained.isNone && k.accBad.contains o.acc
    let f := if tag = 0 then fmt64 else fmt32
    let cells : List (Nat × Bool) := (chunks 64 64 base).zip A |>.flatMap (fun r =>
      r.1.zip B |>.map (fun x =>
        if tag = 2 then (mmaInt x.1.toNat r.2 x.2, false)
        else mmaElem f cx nfA nfB g (x.1.toNat % (if tag = 0 then 2 ^ 64 else 2 ^ 32)) r.2 x.2))
    let lat := 12 + occ
    let s := s.compute o.acc tag occ lat (cells.map (fun c => BitVec.ofNat 64 c.1)) true (!o.z) bad (tag == 0)
      (line.flatMap (fun i => ks.flatMap (fun x => readSpan eA i (ai i x))))
      (line.flatMap (fun j => ks.flatMap (fun x => readSpan eB j (bi x j))))
    ((s.postOvf lat (cells.any (·.2))).useFree eA).useFree eB

/-- MMA (10 R200). -/
def execMma (o : MmaOp) (s : State) : Host.Outcome State Fault Refusal :=
  syl .mx (.mma o) s (fun s => s.matMul o (aIdx (Tab.get 0 s.me.tt o.tA) (s.me.sc o.soffA)))

/-- MMAU (10 R201). -/
def execMmau (o : MmaOp) (u : Nat) (s : State) : Host.Outcome State Fault Refusal :=
  syl .mx (.mmau o u) s (fun s =>
    s.matMul o (uIdx (Tab.get 0 s.me.tt o.tA) u (s.me.sc o.soffA) (s.me.sc (o.soffA + 1))))

/-- MLOAD (10 R202): bits are copied into the containers. -/
def execMload (acc tS soffA sbar stok : Nat) (s : State) : Host.Outcome State Fault Refusal :=
  syl .mx (.mload acc tS soffA sbar stok) s (fun s =>
    let k := s.me
    let e := Tab.get 0 k.tt tS
    let o := k.sc soffA
    let at' (n : Nat) := bIdx e o (n / 64) (n % 64)
    let ns := List.range 4096
    let v := ns.map (fun n => match at' n with
      | some (a, b, c, d) => BitVec.ofNat 64 (tReadCode e s.mxByte (tHalfAddr e a b c d))
      | none => 0)
    let tag := if tKind e = 1 then 0 else if tKind e = 2 then 1 else 2
    (s.compute acc tag 8 20 v false false false (tag == 0) (ns.flatMap (fun n => readSpan e (64 + n) (at' n))) []).useFree e)

/-! Drains (10 R203). -/

/-- The tag of the value that an accumulator shows: of its last result to land (10 R189, R193). -/
def Core.shownTag (k : Core) (a : Nat) : Nat :=
  match k.mx.find? (fun x => x.acc = a) with
  | some x => x.was
  | none => k.tag a

/-- The value of a container under a tag. -/
def accFV (tag : Nat) (w : Word) : FV :=
  match tag with
  | 0 => fvOf fmt64 w.toNat
  | 1 => fvOf fmt32 (w.toNat % 2 ^ 32)
  | 2 => let x := intVal true 32 w.toNat; .num (x < 0) x.natAbs 0
  | _ => zeroFV

/-- An exact value whose denominator is 1. -/
def Exact.toFV (a : Exact) : FV := .num a.isNeg a.n.natAbs a.x

/-- x + y of `.add`: NaNs in a format, and the NaN created for +∞ + −∞. -/
def drainAdd (f nf : Fmt) (nan : Nat) (x y : FV) : FV :=
  let nans := nanOf f f x ++ nanOf nf f y
  if !nans.isEmpty then .nan (pickNan f nans)
  else match exAdd x y with
    | .invalid => .nan nan
    | .inf n => .inf n
    | .val e => e.toFV

/-- `.relu` (10 R203). -/
def relu : FV → FV
  | .nan c => .nan c
  | .inf n => if n then zeroFV else .inf n
  | .num n m x => if n || m = 0 then zeroFV else .num n m x

/-- The epilogue. -/
def epilogue (e : Nat) (f nf : Fmt) (nan : Nat) (x y : FV) : FV :=
  match e with
  | 0 => x
  | 1 => relu x
  | 2 => drainAdd f nf nan x y
  | _ => relu (drainAdd f nf nan x y)

/-- The bytes that a code writes, with the bits of each: half a byte for a nibble format (07 R137). -/
def codeCells (e : Wide) (half code : Nat) : List (Nat × Byte × Byte) :=
  if tHalf e = 1 then
    [(half / 2, if half % 2 = 0 then 0x0F else 0xF0, BitVec.ofNat 8 (code % 16 * 16 ^ (half % 2)))]
  else (cellsAt (half / 2) (leBytes (tHalf e / 2) code)).map (fun c => (c.1, 0xFF, c.2))

/-- MDRAIN (10 R203). -/
def execMdrain (acc tD soffB sbar stok e : Nat) (s : State) : Host.Outcome State Fault Refusal :=
  syl .mx (.mdrain acc tD soffB sbar stok e) s (fun s =>
    let k := s.me
    let t := Tab.get 0 k.tt tD
    let o := k.sc soffB
    let nr := drainRows t o
    let nc := min 64 (tExt t 0 - originIdx o 0)
    let tag := k.shownTag acc
    let cx := s.nanCtx s.cur
    let nf := tNanFmt t
    let f := if tag = 0 then fmt64 else if tag = 1 then fmt32 else nf
    let vals := k.accVal acc
    let i1 (i : Nat) := originIdx o 1 + i
    let i0 (j : Nat) := originIdx o 0 + j
    let i2 := originIdx o 2
    let i3 := originIdx o 3
    let elem (i j : Nat) : Nat × FV :=
      let y := if e ≥ 2 then tElem t s.mxByte (newNan nf cx) (i0 j) (i1 i) i2 i3 else zeroFV
      (tIndex t (i0 j) (i1 i) i2 i3,
        epilogue e f nf (newNan f cx) (accFV tag (vals.getD (64 * i + j) 0)) y)
    let blk := tBlock t
    let width := if blk = 0 then 64 else blk
    let seed := s.scb.seed.toNat
    let groups : List (Nat × Nat × Narrowed) := (List.range nr).flatMap (fun i =>
      (chunks width 64 (List.range nc)).map (fun js =>
        (i, js.headD 0, tNarrowBlock t seed f none (js.map (elem i)))))
    let cells : List (Nat × Byte × Byte) := groups.flatMap (fun g =>
      ((List.range g.2.2.codes.length).zip g.2.2.codes).flatMap (fun c =>
        codeCells t (tHalfAddr t (i0 (g.2.1 + c.1)) (i1 g.1) i2 i3) c.2) ++
      (if blk = 0 then [] else [(tScaleAddr t (i0 g.2.1) (i1 g.1) i2 i3, 0xFF, BitVec.ofNat 8 g.2.2.scale)]))
    let n := 8 * drainGroups t o
    let s := s.post (24 + n) (.drain (cells.filter (fun c => c.1 < spBytes)))
    let s := s.postOrigin (24 + n) tD (groups.findSome? (·.2.2.origin))
    (s.modMe (fun k => { k with busyD := k.now + n, drains := k.drains ++ [⟨s.seq, k.now + 24 + n⟩] })).useFree t)

/-- MCKSUM (10 R204). -/
def execMcksum (acc sd : Nat) (s : State) : Host.Outcome State Fault Refusal :=
  syl .mx (.mcksum acc sd) s (fun s =>
    s.postS 8 sd (BitVec.ofNat 64 (((List.range 4096).zip (s.me.accVal acc)).foldl (fun n c => n + c.2.toNat * (c.1 + 1)) 0)))

/-- The MSTAT word (10 R205). -/
def Core.mstat (k : Core) (a : Nat) : Nat :=
  let busy (b : Nat) : Nat := min 65535 (b - k.now)
  k.tag a + (if (k.chained a).isSome then 4 else 0) + k.reex * 2 ^ 8 + k.second * 2 ^ 16 + busy k.busyC * 2 ^ 24 +
    busy k.busyD * 2 ^ 40

/-- MSTAT (10 R205). -/
def execMstat (acc sd : Nat) (s : State) : Host.Outcome State Fault Refusal :=
  syl .mx (.mstat acc sd) s (fun s => s.postS 1 sd (BitVec.ofNat 64 (s.me.mstat acc)))

end Sys2Proof.Machine
end

