-- ==== Sys2Proof/Machine/Port.lean ====
section
/-! DEFINITION. The command port's packets (03 R52 to R54, R58, R60): the headers of Ethernet, IPv6, UDP and ICMPv6, in network
byte order (00 R4), the frame head with its sealing, and the fields of each request; and the bytes of the frames that the
device sends. -/

namespace Sys2Proof.Machine

/-! Network byte order (00 R4). -/

/-- An n-byte big-endian field. -/
def netAt (b : List Byte) (a n : Nat) : Nat := ofLe ((b.drop a).take n).reverse
def netBytes (n v : Nat) : List Byte := (leBytes n v).reverse

/-- The sum of the 16-bit words of a list of bytes, as the Internet checksum takes it. -/
def sum16 : List Byte → Nat
  | [] => 0
  | [a] => a.toNat * 256
  | a :: b :: r => a.toNat * 256 + b.toNat + sum16 r

/-! Addresses (03 R52). -/

/-- The link-local address, and the global one once a router has advertised its prefix (log 31). -/
def linkLocal : List Byte := netBytes 8 0xFE80000000000000 ++ netBytes 8 Config.portInterface
def State.ownAddrs (s : State) : List (List Byte) :=
  linkLocal :: (match s.hostPrefix with
    | some p => [netBytes 8 p.toNat ++ netBytes 8 Config.portInterface]
    | none => [])

/-- Multicast addresses that reach the port: all nodes, and the solicited-node address of its interface. -/
def portGroups : List (List Byte) :=
  [netBytes 2 0xFF02 ++ netBytes 14 1, netBytes 2 0xFF02 ++ netBytes 11 0x1FF ++ netBytes 3 (Config.portInterface % 2 ^ 24)]

/-! IPv6. -/

def ipSrc (ip : List Byte) : List Byte := (ip.drop 8).take 16
def ipDst (ip : List Byte) : List Byte := (ip.drop 24).take 16
def ipBody (ip : List Byte) : List Byte := (ip.drop 40).take (netAt ip 4 2)

/-- The sum of a packet's pseudo-header and body. -/
def ipSum (src dst : List Byte) (next : Nat) (body : List Byte) : Nat :=
  sum16 src + sum16 dst + body.length + next + sum16 body

/-- An IPv6 packet: version 6, no traffic class and no flow label. -/
def ipPacket (src dst : List Byte) (next hops : Nat) (body : List Byte) : List Byte :=
  netBytes 4 0x60000000 ++ netBytes 2 body.length ++ netBytes 1 next ++ netBytes 1 hops ++ src ++ dst ++ body

/-- An ICMPv6 packet: type, code, and the rest after the checksum. -/
def icmpPacket (src dst : List Byte) (hops type : Nat) (rest : List Byte) : List Byte :=
  let zero := netBytes 1 type ++ netBytes 3 0 ++ rest
  ipPacket src dst 58 hops (netBytes 1 type ++ netBytes 1 0 ++ netBytes 2 (65535 - ipSum src dst 58 zero % 65535) ++ rest)

/-- The answer to an echo request (03 R52; log 31): the request's body from the address that it was sent to. -/
def State.echoAnswer (s : State) (ip : List Byte) : List Byte :=
  let own := if s.ownAddrs.contains (ipDst ip) then ipDst ip else linkLocal
  icmpPacket own (ipSrc ip) 64 129 ((ipBody ip).drop 4)

/-- The answer to a Neighbour Solicitation (03 R52; log 31): an advertisement of the target with the port's link-layer address. -/
def neighbourAnswer (ip : List Byte) : List Byte :=
  let target := ((ipBody ip).drop 8).take 16
  let anon := (ipSrc ip).all (· == 0)
  let dst := if anon then portGroups.headD [] else ipSrc ip
  icmpPacket target dst 255 136 (netBytes 4 (if anon then 0x20000000 else 0x60000000) ++ target ++ netBytes 2 0x0201 ++ padTo 6 Config.portMac)

/-- The first prefix that a Router Advertisement offers for autoconfiguration, in its options; the fuel is their length. -/
def offered : Nat → List Byte → Option Word
  | 0, _ => none
  | fuel + 1, l =>
    let n := 8 * netAt l 1 1
    if n = 0 || l.length < n then none
    else if netAt l 0 1 = 3 && n = 32 && netAt l 2 1 = 64 && netAt l 3 1 / 64 % 2 = 1 then some (BitVec.ofNat 64 (netAt l 16 8))
    else offered fuel (l.drop n)

/-- ICMPV6_ECHO (03 R52): an echo request, whole from its IPv6 header on. -/
def execIcmpv6Echo (data : List Byte) (s : State) : Host.Outcome State Fault Refusal :=
  .next { s with out := s.out ++ [.ipv6 (s.echoAnswer data)] }

/-- NEIGHBOUR_DISCOVERY (03 R52): a Neighbour Solicitation, whole from its IPv6 header on. -/
def execNeighbourDiscovery (data : List Byte) (s : State) : Host.Outcome State Fault Refusal :=
  .next { s with out := s.out ++ [.ipv6 (neighbourAnswer data)] }

/-! Frames (03 R53, R54). -/

/-- The head of a frame as it arrives; the tag and the payload are looked at later. -/
def headOf (l : List Byte) : FrameHead :=
  { session := fieldAt l 8 4, seq := fieldAt l 12 8, reqId := fieldAt l 20 4, ack := fieldAt l 28 4, mgmt := fieldAt l 3 1 == 3,
    tagOk := true, headOk := true, payloadOk := true }

/-- HELLO's code, kind and missing seal. -/
def helloHead (l : List Byte) : Bool := fieldAt l 3 1 = 0 && fieldAt l 4 2 = 1 && fieldAt l 6 2 = 0

/-- Whether a frame's head is well formed: only HELLO is unsealed and names session 0, and the frame is as long as its head and its
seal say. -/
def headGood (l : List Byte) : Bool :=
  let n := fieldAt l 24 2
  32 ≤ l.length && fieldAt l 0 2 = 0x4753 && fieldAt l 2 1 = 1 && (fieldAt l 3 1 = 0 || fieldAt l 3 1 = 3) && fieldAt l 26 2 = 0 &&
    n ≤ 8320 && (if helloHead l then fieldAt l 8 4 = 0 && l.length = 32 + n else fieldAt l 6 2 = 1 && l.length = 48 + n)

/-- The nonce of a frame (03 R54): the salt of its direction and its sequence number. -/
def nonceOf (z : Session) (toHost : Bool) (seq : Nat) : List Byte :=
  (z.keys.drop (if toHost then 68 else 64)).take 4 ++ leBytes 8 seq
def keyOf (z : Session) (toHost : Bool) : List Byte := (z.keys.drop (if toHost then 32 else 0)).take 32

/-! Requests (03 R58, R60, R64; 04 R76; 13 R248, R267, R269; 17 R325, R336, R339; 20 R385; 21 R394, R396, R397; 23 R403). -/

/-- STEP-OPEN's fields (03 R64). -/
def openReqOf (p : List Byte) : OpenReq :=
  let w (a : Nat) : Word := BitVec.ofNat 64 (fieldAt p a 8)
  { flags := BitVec.ofNat 8 (fieldAt p 0 1), expected := fieldAt p 4 4, step := w 8, seed := w 16,
    cursors := (List.range 8).map (fun k => w (24 + 8 * k)),
    counters := (List.range 16).map (fun k => BitVec.ofNat 32 (fieldAt p (88 + 4 * k) 4)), threshold := BitVec.ofNat 32 (fieldAt p 152 4) }

/-- PAGE's fields. -/
def pageReqOf (p : List Byte) : PageReq :=
  { type := fieldAt p 1 1, flags := BitVec.ofNat 8 (fieldAt p 2 1), tier := fieldAt p 3 1, ipa := fieldAt p 4 8,
    va := BitVec.ofNat 64 (fieldAt p 12 8), count := fieldAt p 20 4 }

/-- What a request does: the meaning of a row of the opcode table. -/
abbrev Meaning : Type := State → Host.Outcome State Fault Refusal

/-- A request of kind 0 by its code; none for a code, or a selector within a payload, that does not exist. A payload that is too
short, or whose reserved bytes are not zero, is no good one. -/
def requestOf (h : FrameHead) (code : Nat) (p : List Byte) : Option Meaning :=
  let n (a k : Nat) : Nat := fieldAt p a k
  let f (len : Nat) (ok : Bool) : FrameHead := { h with payloadOk := len ≤ p.length && ok }
  match code with
  | 0x02 => some (execAttest (f 32 true) (p.take 32))
  | 0x03 => some (if n 8 8 = 0 then execUnloadContainer (f 24 (n 1 7 = 0)) (n 0 1)
      else execLoadContainer (f 24 (n 1 7 = 0)) (n 0 1) (n 8 8) (n 16 8) (p.drop 24) [])
  | 0x04 => some (execPatch (f 12 (n 1 1 = 0)) (n 0 1) (n 2 2) (BitVec.ofNat 64 (n 4 8)))
  | 0x05 => some (execLaunch (f 4 (n 1 1 = 0)) (n 0 1) (n 2 2))
  | 0x06 => some (execStepOpen (f 156 (n 1 3 = 0)) (openReqOf p))
  | 0x07 => some (execStepClose (f 4 true) (n 0 4))
  | 0x08 => some (execStepStatus (f 8 (n 4 1 ≤ 1)) (n 0 4) (n 4 1 = 1) (n 5 1) (BitVec.ofNat 16 (n 6 2)))
  | 0x09 => some (execVeto (f 6 (n 5 1 = 0)) (n 0 4) (BitVec.ofNat 8 (n 4 1)))
  | 0x0A => if n 0 1 ≤ 1 then some (execRead (f 12 true) (n 0 1 = 1) (n 1 1) (n 2 2) (n 4 8)) else none
  | 0x0B => if n 0 1 ≤ 1 then some (execWrite (f 12 true) (n 0 1 = 1) (n 1 1) (n 2 2) (n 4 8) (p.drop 12)) else none
  | 0x0C =>
    let (g, r) := (f 24 true, pageReqOf p)
    match n 0 1 with
    | 0 => some (execPageMap g r)
    | 1 => some (execPageUnmap g r)
    | 2 => some (execPageSetType g r)
    | 3 => some (execPageShootDown g r)
    | 4 => some (execPageDemote g r)
    | 5 => some (execPagePromote g r)
    | _ => none
  | 0x0D => some (execKill (f 8 true) (n 0 4) (n 4 4))
  | 0x0E => some (execFirmware (f 16 true) (n 0 8) (n 8 8) (p.drop 16))
  | 0x0F =>
    let g := f 2 (n 1 1 ≤ 1)
    match n 0 1 with
    | 0 => some (execResetWork g (n 1 1 = 1))
    | 1 => some (execResetModule g (n 1 1 = 1))
    | _ => none
  | 0x10 => some (execTelemetry (f 16 (n 12 4 = 0)) (BitVec.ofNat 64 (n 0 8)) (n 8 4))
  | 0x11 => some (execXfer (f 16 (n 10 1 ≤ 1 && n 11 5 = 0)) (n 0 4) (n 4 4) (n 8 2) (n 10 1 = 1) (p.drop 16))
  | _ => none

/-- A management request by its code. -/
def managementOf (h : FrameHead) (code : Nat) (p : List Byte) : Option Meaning :=
  let n (a k : Nat) : Nat := fieldAt p a k
  let w (a : Nat) : Word := BitVec.ofNat 64 (n a 8)
  let f (len : Nat) (ok : Bool) : FrameHead := { h with payloadOk := len ≤ p.length && ok }
  match code with
  | 0x40 => some (execSchedSet (f 8 true) (w 0))
  | 0x41 => some (execCarveSet (f 8 (n 2 6 = 0)) (n 0 1) (n 1 1))
  | 0x42 => some (execTierSet (f 32 (n 1 15 = 0)) (n 0 1) (BitVec.ofNat 128 (n 16 16)))
  | 0x43 => some (execLinkSet (f 16 (n 1 7 = 0)) (n 0 1) (w 8))
  | 0x44 => some (execFabricSet (f 16 true) (w 0) (w 8))
  | 0x45 => some (execCommSet (f 16 (n 1 7 = 0)) (n 0 1) (w 8))
  | 0x46 => some (execHalyardSet (f 32 true) (BitVec.ofNat 256 (n 0 32)))
  | 0x47 => some (execPowerSet (f 8 true) (w 0))
  | 0x48 => some (execMargin h)
  | 0x49 =>
    let g := f 16 (n 2 1 ≤ 1 && n 3 1 = 0 && n 6 2 = 0)
    some (if n 2 1 % 2 = 1 then execRemoteSetBind g (n 0 1) (n 1 1) (n 4 2) (n 8 8) else execRemoteSetClear g (n 0 1) ⟨n 1 1, n 4 2, n 8 8⟩)
  | 0x4A => some (execBoardSet (f 8 true) (w 0))
  | _ => none

/-! Packets. -/

/-- A UDP payload (03 R53, R54, R58): dropped and counted, or a request, whose sender the device answers from then on (log 31). An
unknown code is answered with BADFRAME. -/
def State.readFrame (s : State) (e : HostEnd) (l : List Byte) : Host.Outcome State Fault Refusal :=
  let h := headOf l
  let code := fieldAt l 4 2
  if !headGood l then .next (s.count tcFrames)
  else if helloHead l then execHello h (l.drop 32) { s with host := some e }
  else match s.session with
    | none => .next (s.count tcFrames)
    | some z =>
      let ct := (l.drop 32).take (fieldAt l 24 2)
      match (if z.id = h.session then Config.gcmOpen (keyOf z false) (nonceOf z false h.seq) (l.take 32) ct (l.drop (32 + ct.length)) else none) with
      | none => .next (s.count tcFrames)
      | some p =>
        let s := { s with host := some e }
        match (if h.mgmt then managementOf h code p else requestOf h code p) with
        | some i => i s
        | none => .next (s.accept { h with payloadOk := false } code (!h.mgmt && code == 2)).1

/-- An Ethernet frame at the command port (03 R52): IPv6 with at most 9,000 bytes of payload and a good checksum; UDP to port 38,412
of one of its addresses, an echo request, a Neighbour Solicitation for one of its addresses, or a Router Advertisement, from
which the global address takes its prefix (log 31). Every other packet is dropped and counted. -/
def State.readPacket (s : State) (b : List Byte) : Host.Outcome State Fault Refusal :=
  let ip := b.drop 14
  let body := ipBody ip
  let next := netAt ip 6 1
  let mine := s.ownAddrs.contains (ipDst ip)
  let near := mine || portGroups.contains (ipDst ip)
  let good := netAt b 12 2 = 0x86DD && netAt ip 0 1 / 16 = 6 && 40 ≤ ip.length && netAt ip 4 2 ≤ 9000 && body.length = netAt ip 4 2 &&
    8 ≤ body.length && ipSum (ipSrc ip) (ipDst ip) next body % 65535 = 0
  if !good then execPacketDropped s
  else if next = 17 && mine && netAt body 2 2 = 38412 && netAt body 4 2 = body.length then
    s.readFrame { mac := (b.drop 6).take 6, ip := ipSrc ip, own := ipDst ip, port := netAt body 0 2 } (body.drop 8)
  else if next = 58 && near && netAt body 0 1 = 128 then execIcmpv6Echo ip s
  else if next = 58 && near && netAt body 0 1 = 135 && s.ownAddrs.contains ((body.drop 8).take 16) then execNeighbourDiscovery ip s
  else if next = 58 && near && netAt body 0 1 = 134 then
    .next (if s.hostPrefix.isSome then s else { s with hostPrefix := offered body.length (body.drop 16) })
  else execPacketDropped s

/-! Frames to the host (03 R53, R54), in UDP datagrams from port 38,412 (03 R52). -/

/-- The head of a frame of n payload bytes. -/
def frameHead (kind code flags session seq req n : Nat) : List Byte :=
  leBytes 2 0x4753 ++ leBytes 1 1 ++ leBytes 1 kind ++ leBytes 2 code ++ leBytes 2 flags ++ leBytes 4 session ++ leBytes 8 seq ++
    leBytes 4 req ++ leBytes 2 n ++ leBytes 2 0 ++ leBytes 4 0

/-- A frame under its session's key, HELLO's reply without a seal. -/
def sealFrame (z : Option Session) (kind code session seq req : Nat) (p : List Byte) : List Byte :=
  match z with
  | some z => if session = 0 then frameHead kind code 0 0 seq req p.length ++ p
      else
        let head := frameHead kind code 1 session seq req p.length
        head ++ Config.gcmSeal (keyOf z true) (nonceOf z true seq) head p
  | none => frameHead kind code 0 0 seq req p.length ++ p

/-- The bytes of a reply or an event under the session that sends it (03 R53, R58, R62); none for what leaves by another port. -/
def Out.frame (z : Option Session) : Out → Option (List Byte)
  | .reply session seq req mgmt code status detail payload =>
    some (sealFrame z (if mgmt then 4 else 1) code session seq req (leBytes 1 status ++ leBytes 1 detail ++ leBytes 2 0 ++ payload))
  | .event session seq num code payload => some (sealFrame z 2 code session seq num payload)
  | _ => none

/-- The UDP port of the command port (03 R52). -/
def commandUdp : Nat := 38412

/-- A UDP datagram from the command port's UDP port, with its checksum, in IPv6 (03 R52). -/
def udpPacket (src dst : List Byte) (port : Nat) (l : List Byte) : List Byte :=
  let head (sum : Nat) : List Byte := netBytes 2 commandUdp ++ netBytes 2 port ++ netBytes 2 (8 + l.length) ++ netBytes 2 sum
  let sum := 65535 - ipSum src dst 17 (head 0 ++ l) % 65535
  ipPacket src dst 17 64 (head sum ++ l)

/-- The Ethernet frame of a reply or an event, to the host that has last sent a good command frame (03 R52; log 31). -/
def State.portFrame (s : State) (o : Out) : Option (List Byte) :=
  match s.host, o.frame s.session with
  | some e, some l => some (e.mac ++ padTo 6 Config.portMac ++ netBytes 2 0x86DD ++ udpPacket e.own e.ip e.port l)
  | _, _ => none

end Sys2Proof.Machine
end

