-- ==== Sys2Proof/Machine/Power.lean ====
section
/-! DEFINITION. Power, ageing, and module reset (21 R393 to R400). -/

namespace Sys2Proof.Machine

/-! Module reset (21 R398, R400). -/

/-- The image that a module reset boots, and the event of a refused one (21 R398). -/
def bootFirmware (f : Firmware) : Firmware × List Ev :=
  let clear (f : Firmware) : Firmware := { f with staged := [], stagedTotal := 0, stagedFull := false, meas := measOf f.digest }
  if f.stagedFull then
    let img := f.staged.map (·.2)
    let ver := Config.imageVersion img % 2 ^ 32
    if Config.imageVerifies img && f.counter ≤ ver then
      (clear { f with handler := Config.imageHandler img, version := ver, counter := max f.counter ver, digest := Config.imageDigest img }, [])
    else (clear f, [⟨0, 0x86, leBytes 4 ver ++ leBytes 4 f.version⟩])
  else (clear f, [])

/-- The state after a module reset (21 R400): every field at its reset value, but the firmware in flash, what has been
sent, wall time, from which CLOCK counts anew (15 R304), and the model's own counters (log 1, log 20). The device id is latched
from the straps (17 R324). -/
def State.boot (s : State) (b : BootIn) : State :=
  let (fw, evs) := bootFirmware s.fw
  { State.reset with
    plan := MarginPlan.formed (s.fresh + 1), deviceId := b.straps.toNat, fenced := b.failed, fw := fw, carried := evs, nextSession := s.nextSession,
    time := s.time, bootAt := s.time, lastPush := s.time, lastRepeat := s.time, lastDecay := s.time, lastTick := s.time, lastPlan := s.time,
    links := State.reset.links.map (fun (e : Nat × Link) => (e.1, { e.2 with partnerAt := s.time })),
    out := s.out, turns := s.turns, seq := s.seq, fresh := s.fresh + 1 }

/-- MODULE_RESET (21 R400). -/
def execModuleReset (b : BootIn) (s : State) : Host.Outcome State Fault Refusal := .next (s.boot b)

/-! Power and clocks (21 R393). -/

/-- The first die of a list with the greatest measure. -/
def greatest (f : Nat → Nat) : List Nat → Option Nat
  | [] => none
  | d :: r => some (r.foldl (fun b x => if f x > f b then x else b) d)

/-- One comparison of the power manager: `mw` is the module's power in mW and `dieMw` that of the dies. Flag 0 is set when the module
is above LIMIT with every die at FMIN already. -/
def State.managePower (s : State) (mw : Nat) (dieMw : List Nat) : State :=
  let s := { s with readings := { s.readings with power := mw } }.clampClocks
  let lim := powerLimit s.power * 1000
  let fmin := powerFmin s.power
  let low := (List.range 4).all (fun d => s.clockOf d = fmin)
  let s := if mw > lim then
      match greatest (fun d => dieMw.getD d 0) ((List.range 4).filter (fun d => s.clockOf d > fmin)) with
      | some d => s.setClock d (max fmin (s.clockOf d - 25))
      | none => s
    else if mw * 100 < lim * 95 then
      match greatest (fun d => 1600 - s.clockOf d) ((List.range 4).filter (fun d => s.clockOf d < 1600 && !s.dieHeld d)) with
      | some d => s.setClock d (min 1600 (s.clockOf d + 25))
      | none => s
    else s
  { s with limitHold := low && (mw > lim || (s.limitHold && mw * 100 ≥ lim * 95)) }

/-- POWER_MANAGER_TICK (21 R393): every 100 µs. -/
def execPowerManagerTick (mw : Nat) (dieMw : List Nat) (s : State) : Host.Outcome State Fault Refusal :=
  .next (if s.time ≥ s.lastTick + 100000 then { s with lastTick := s.time }.managePower mw dieMw else s)

/-- What a module reset finds when nothing has changed: the straps and the self-test of the last one (log 19). -/
def State.sameBoot (s : State) : BootIn := { straps := BitVec.ofNat 16 s.deviceId, failed := s.fenced }

/-- A junction reading (21 R395), whichever event brings it: at 115 °C the event and a module reset, at 105 °C the hold, below 100 °C
its end. -/
def State.junctionRead (s : State) (die milliC : Nat) (b : BootIn) : State :=
  if die > 3 then s
  else
    let s := { s with readings := { s.readings with junction := Tab.set s.readings.junction die milliC } }
    if milliC ≥ 115000 then (s.emit 0x85 (leBytes 1 die ++ leBytes 3 0 ++ leBytes 4 milliC)).boot b
    else if milliC ≥ 105000 then
      (if s.thermalHold.contains die then s else { s with thermalHold := die :: s.thermalHold }.clampClocks)
    else if milliC < 100000 then { s with thermalHold := s.thermalHold.filter (· != die) }
    else s

/-- THERMAL_HOLD (21 R395): 105 °C. -/
def execThermalHold (die milliC : Nat) (s : State) : Host.Outcome State Fault Refusal := .next (s.junctionRead die milliC s.sameBoot)

/-- THERMAL_RELEASE (21 R395): below 100 °C. -/
def execThermalRelease (die milliC : Nat) (s : State) : Host.Outcome State Fault Refusal := .next (s.junctionRead die milliC s.sameBoot)

/-- THERMAL_SHUTDOWN (21 R395): 115 °C. -/
def execThermalShutdown (die milliC : Nat) (b : BootIn) (s : State) : Host.Outcome State Fault Refusal := .next (s.junctionRead die milliC b)

/-! Board limits (21 R396). -/

/-- BOARD_LIMIT (21 R396): a reading of the inlet (cause 0, in m°C) or of the supply (cause 1 or 2, in mV). -/
def execBoardLimit (cause reading : Nat) (s : State) : Host.Outcome State Fault Refusal :=
  let inlet := cause = 0
  .next { s with readings := if inlet then { s.readings with inlet := reading } else { s.readings with supply := reading } }.judgeBoard

/-- BOARD_LIMIT_CLEAR (21 R396): every reading has stood within its limits for 1 s. -/
def execBoardLimitClear (s : State) : Host.Outcome State Fault Refusal :=
  .next (match s.boardOkSince with
    | some t => if s.boardHold && s.boardFine && s.time ≥ t + 1000000000 then { s with boardHold := false, boardOkSince := none } else s
    | none => s)

/-! Margins (21 R397). -/

/-- MARGIN_REPLAN (21 R397): every 24 h a re-plan starts; its end forms the plan (log 23). -/
def execMarginReplan (s : State) : Host.Outcome State Fault Refusal :=
  .next (if s.replanning then s.newPlan
  else if s.time ≥ s.lastPlan + 86400000000000 then { s with replanning := true }
  else s)

end Sys2Proof.Machine
end

