-- ==== Sys2Proof/Machine/Scalar.lean ====
section
/-! DEFINITION. The S slot (06 R115 to R126): scalar integer and floating instructions, branches and loops. -/

namespace Sys2Proof.Machine

/-- Leading zeros of a w-bit number. -/
def clzNat (w x : Nat) : Nat := if x = 0 then w else w - 1 - Nat.log2 x

/-- One bits of a w-bit number. -/
def popNat (w x : Nat) : Nat := (List.range w).foldl (fun n i => n + x / 2 ^ i % 2) 0

/-- Quotient and remainder (06 R115). -/
def divide (signed : Bool) (a b : Word) : Word × Word :=
  if b = 0 then (BitVec.allOnes 64, a)
  else if signed then (BitVec.ofInt 64 (a.toInt.tdiv b.toInt), BitVec.ofInt 64 (a.toInt.tmod b.toInt))
  else (BitVec.ofNat 64 (a.toNat / b.toNat), BitVec.ofNat 64 (a.toNat % b.toNat))

def wordCond (cc : Cond) (a b : Word) : Bool := intCond cc a.toInt b.toInt a.toNat b.toNat

/-- The format of a scalar floating instruction, and an operand's code (06 R120). -/
def fmtP (f32 : Bool) : Fmt := if f32 then fmt32 else fmt64
def scF (k : Core) (f32 : Bool) (n : Nat) : Nat := (k.sc n).toNat % (if f32 then 2 ^ 32 else 2 ^ 64)

/-- A scalar floating result: its NaN context is that of issue, and OVF lands with it (06 R120, 07 R143, R146). -/
def State.postF (s : State) (lat : Nat) (f32 : Bool) (sd : Nat) (ops : List Nat) (g : List FV → Ex) : State :=
  let r := fop (fmtP f32) (s.nanCtx s.cur) .rne ops g
  (s.postS lat sd (BitVec.ofNat 64 r.code)).postOvf lat r.ovf

/-- A conversion's result in a scalar register (06 R122). -/
def extResult (dst : ETy) (c : Nat) : Word :=
  match dst with
  | .i32 => BitVec.ofInt 64 (intVal true 32 c)
  | _ => BitVec.ofNat 64 c

/-- The address of the bundle that issues. -/
def State.herePc (s : State) : Word :=
  match s.me.shadow with
  | some h => h.pc
  | none => s.me.pc

/-- The bundle that follows is a delay bundle, with the target of a taken branch after it (06 R124). -/
def Core.setDelay (d : Option (Option Word)) (k : Core) : Core :=
  match k.shadow with
  | some h => { k with shadow := some { h with delay := d } }
  | none => { k with delay := d }

/-- A branch that is taken, for the whole gang (05 R89); it ends a loop, whose buffer
serves the delay bundle only (05 R103). -/
def State.branchTo (s : State) (t : Word) : State :=
  if s.me.shadow.isSome then s.modMe (Core.setDelay (some (some t)))
  else s.modCores (fun k => { Core.setDelay (some (some t)) k with loop := { LoopSt.none with body := k.loop.body } }) (s.gang s.cur)

/-- A branch that is not taken still has a delay bundle (06 R124). -/
def State.branchNot (s : State) : State :=
  if s.me.shadow.isSome then s.modMe (Core.setDelay (some none))
  else s.modCores (Core.setDelay (some none)) (s.gang s.cur)

/-- A loop starts on every member (05 R89, R101, 06 R125): indices land at 0, the stage predicate at all ones. -/
def State.startLoop (s : State) (nd : Nat) (cs : List Nat) (rot : Bool) (e : Nat) : State :=
  let len := (s.bundleLen s.cur s.me.pc).getD 0
  let c0 := cs.headD 0
  s.modCores (fun k =>
    let k := (List.range 6).foldl (fun (k : Core) n => k.post 1 s.seq (.index n 0)) k
    let k := if rot then k.post 1 s.seq (.pred (physP k.prot 16) (BitVec.allOnes 512) (BitVec.allOnes 512)) else k
    { k with loop := { active := true, depth := nd, rot := rot, count := (c0 + e) :: cs.drop 1, real0 := c0,
                       start := k.pc + BitVec.ofNat 64 len, len := 0, whole := false, body := [] } }) (s.gang s.cur)

/-- ADD (06 R115). -/
def execAdd (sd sa sb : Nat) (s : State) : Host.Outcome State Fault Refusal :=
  syl .s (.add sd sa sb) s (fun s => s.postS 1 sd ((s.me.sc sa) + (s.me.sc sb)))

/-- SUB (06 R115). -/
def execSub (sd sa sb : Nat) (s : State) : Host.Outcome State Fault Refusal :=
  syl .s (.sub sd sa sb) s (fun s => s.postS 1 sd ((s.me.sc sa) - (s.me.sc sb)))

/-- MUL (06 R115). -/
def execMul (sd sa sb : Nat) (s : State) : Host.Outcome State Fault Refusal :=
  syl .s (.mul sd sa sb) s (fun s => s.postS 3 sd ((s.me.sc sa) * (s.me.sc sb)))

/-- MULH (06 R115). -/
def execMulh (sd sa sb : Nat) (s : State) : Host.Outcome State Fault Refusal :=
  syl .s (.mulh sd sa sb) s (fun s => s.postS 3 sd (BitVec.ofInt 64 ((s.me.sc sa).toInt * (s.me.sc sb).toInt / 2 ^ 64)))

/-- MULHU (06 R115). -/
def execMulhu (sd sa sb : Nat) (s : State) : Host.Outcome State Fault Refusal :=
  syl .s (.mulhu sd sa sb) s (fun s => s.postS 3 sd (BitVec.ofNat 64 ((s.me.sc sa).toNat * (s.me.sc sb).toNat / 2 ^ 64)))

/-- DIV (06 R115). -/
def execDiv (sd sa sb : Nat) (s : State) : Host.Outcome State Fault Refusal :=
  syl .s (.div sd sa sb) s (fun s => s.postS 34 sd ((divide true (s.me.sc sa) (s.me.sc sb)).1))

/-- DIVU (06 R115). -/
def execDivu (sd sa sb : Nat) (s : State) : Host.Outcome State Fault Refusal :=
  syl .s (.divu sd sa sb) s (fun s => s.postS 34 sd ((divide false (s.me.sc sa) (s.me.sc sb)).1))

/-- REM (06 R115). -/
def execRem (sd sa sb : Nat) (s : State) : Host.Outcome State Fault Refusal :=
  syl .s (.rem sd sa sb) s (fun s => s.postS 34 sd ((divide true (s.me.sc sa) (s.me.sc sb)).2))

/-- REMU (06 R115). -/
def execRemu (sd sa sb : Nat) (s : State) : Host.Outcome State Fault Refusal :=
  syl .s (.remu sd sa sb) s (fun s => s.postS 34 sd ((divide false (s.me.sc sa) (s.me.sc sb)).2))

/-- AND (06 R115). -/
def execAnd (sd sa sb : Nat) (s : State) : Host.Outcome State Fault Refusal :=
  syl .s (.and sd sa sb) s (fun s => s.postS 1 sd ((s.me.sc sa) &&& (s.me.sc sb)))

/-- OR (06 R115). -/
def execOr (sd sa sb : Nat) (s : State) : Host.Outcome State Fault Refusal :=
  syl .s (.or sd sa sb) s (fun s => s.postS 1 sd ((s.me.sc sa) ||| (s.me.sc sb)))

/-- XOR (06 R115). -/
def execXor (sd sa sb : Nat) (s : State) : Host.Outcome State Fault Refusal :=
  syl .s (.xor sd sa sb) s (fun s => s.postS 1 sd ((s.me.sc sa) ^^^ (s.me.sc sb)))

/-- SHL (06 R115): by bits [5:0]. -/
def execShl (sd sa sb : Nat) (s : State) : Host.Outcome State Fault Refusal :=
  syl .s (.shl sd sa sb) s (fun s => s.postS 1 sd ((s.me.sc sa) <<< ((s.me.sc sb).toNat % 64)))

/-- SHR (06 R115). -/
def execShr (sd sa sb : Nat) (s : State) : Host.Outcome State Fault Refusal :=
  syl .s (.shr sd sa sb) s (fun s => s.postS 1 sd ((s.me.sc sa) >>> ((s.me.sc sb).toNat % 64)))

/-- SAR (06 R115). -/
def execSar (sd sa sb : Nat) (s : State) : Host.Outcome State Fault Refusal :=
  syl .s (.sar sd sa sb) s (fun s => s.postS 1 sd (BitVec.sshiftRight (s.me.sc sa) ((s.me.sc sb).toNat % 64)))

/-- SEL (06 R118). -/
def execSel (sd sa sb pn : Nat) (s : State) : Host.Outcome State Fault Refusal :=
  syl .s (.sel sd sa sb pn) s (fun s => s.postS 1 sd (if s.me.cond pn then (s.me.sc sa) else (s.me.sc sb)))

/-- ADDI (06 R116). -/
def execAddi (sd sa : Nat) (imm : Int) (s : State) : Host.Outcome State Fault Refusal :=
  syl .s (.addi sd sa imm) s (fun s => s.postS 1 sd ((s.me.sc sa) + (BitVec.ofInt 64 imm)))

/-- ANDI (06 R116). -/
def execAndi (sd sa : Nat) (imm : Int) (s : State) : Host.Outcome State Fault Refusal :=
  syl .s (.andi sd sa imm) s (fun s => s.postS 1 sd ((s.me.sc sa) &&& (BitVec.ofInt 64 imm)))

/-- ORI (06 R116). -/
def execOri (sd sa : Nat) (imm : Int) (s : State) : Host.Outcome State Fault Refusal :=
  syl .s (.ori sd sa imm) s (fun s => s.postS 1 sd ((s.me.sc sa) ||| (BitVec.ofInt 64 imm)))

/-- XORI (06 R116). -/
def execXori (sd sa : Nat) (imm : Int) (s : State) : Host.Outcome State Fault Refusal :=
  syl .s (.xori sd sa imm) s (fun s => s.postS 1 sd ((s.me.sc sa) ^^^ (BitVec.ofInt 64 imm)))

/-- SHLI (06 R116). -/
def execShli (sd sa count : Nat) (s : State) : Host.Outcome State Fault Refusal :=
  syl .s (.shli sd sa count) s (fun s => s.postS 1 sd ((s.me.sc sa) <<< (count % 64)))

/-- SHRI (06 R116). -/
def execShri (sd sa count : Nat) (s : State) : Host.Outcome State Fault Refusal :=
  syl .s (.shri sd sa count) s (fun s => s.postS 1 sd ((s.me.sc sa) >>> (count % 64)))

/-- SARI (06 R116). -/
def execSari (sd sa count : Nat) (s : State) : Host.Outcome State Fault Refusal :=
  syl .s (.sari sd sa count) s (fun s => s.postS 1 sd (BitVec.sshiftRight (s.me.sc sa) (count % 64)))

/-- MIN (06 R115). -/
def execMin (sd sa sb : Nat) (s : State) : Host.Outcome State Fault Refusal :=
  syl .s (.min sd sa sb) s (fun s => s.postS 1 sd (if (s.me.sc sa).toInt ≤ (s.me.sc sb).toInt then (s.me.sc sa) else (s.me.sc sb)))

/-- MAX (06 R115). -/
def execMax (sd sa sb : Nat) (s : State) : Host.Outcome State Fault Refusal :=
  syl .s (.max sd sa sb) s (fun s => s.postS 1 sd (if (s.me.sc sa).toInt ≥ (s.me.sc sb).toInt then (s.me.sc sa) else (s.me.sc sb)))

/-- MINU (06 R115). -/
def execMinu (sd sa sb : Nat) (s : State) : Host.Outcome State Fault Refusal :=
  syl .s (.minu sd sa sb) s (fun s => s.postS 1 sd (if (s.me.sc sa).toNat ≤ (s.me.sc sb).toNat then (s.me.sc sa) else (s.me.sc sb)))

/-- MAXU (06 R115). -/
def execMaxu (sd sa sb : Nat) (s : State) : Host.Outcome State Fault Refusal :=
  syl .s (.maxu sd sa sb) s (fun s => s.postS 1 sd (if (s.me.sc sa).toNat ≥ (s.me.sc sb).toNat then (s.me.sc sa) else (s.me.sc sb)))

/-- CLZ (06 R115). -/
def execClz (sd sa : Nat) (s : State) : Host.Outcome State Fault Refusal :=
  syl .s (.clz sd sa) s (fun s => s.postS 1 sd (BitVec.ofNat 64 (clzNat 64 (s.me.sc sa).toNat)))

/-- POPC (06 R115). -/
def execPopc (sd sa : Nat) (s : State) : Host.Outcome State Fault Refusal :=
  syl .s (.popc sd sa) s (fun s => s.postS 1 sd (BitVec.ofNat 64 (popNat 64 (s.me.sc sa).toNat)))

/-- MOVJ (06 R119). -/
def execMovj (sd jn : Nat) (s : State) : Host.Outcome State Fault Refusal :=
  syl .s (.movj sd jn) s (fun s => s.postS 1 sd ((Tab.get 0 s.me.j jn).setWidth 64))

/-- MOVP (06 R119). -/
def execMovp (sd pn : Nat) (s : State) : Host.Outcome State Fault Refusal :=
  syl .s (.movp sd pn) s (fun s => s.postS 1 sd ((s.me.pr pn).setWidth 64))

/-- CMP.cc (06 R118). -/
def execCmpCc (cc : Cond) (pd sa sb : Nat) (s : State) : Host.Outcome State Fault Refusal :=
  syl .s (.cmpCc cc pd sa sb) s (fun s => s.postPred 1 pd (predAll (wordCond cc (s.me.sc sa) (s.me.sc sb))))

/-- CMPI.cc (06 R118). -/
def execCmpiCc (cc : Cond) (pd sa : Nat) (imm : Int) (s : State) : Host.Outcome State Fault Refusal :=
  syl .s (.cmpiCc cc pd sa imm) s (fun s => s.postPred 1 pd (predAll (wordCond cc (s.me.sc sa) (BitVec.ofInt 64 imm))))

/-- LI (06 R117). -/
def execLi (sd : Nat) (imm : Int) (s : State) : Host.Outcome State Fault Refusal :=
  syl .s (.li sd imm) s (fun s => s.postS 1 sd (BitVec.ofInt 64 imm))

/-- LIH (06 R117). -/
def execLih (sd imm : Nat) (s : State) : Host.Outcome State Fault Refusal :=
  syl .s (.lih sd imm) s (fun s => s.postS 1 sd (s.me.sc sd <<< 18 + BitVec.ofNat 64 imm))

/-- FADD (06 R120). -/
def execFadd (f32 : Bool) (sd sa sb : Nat) (s : State) : Host.Outcome State Fault Refusal :=
  syl .s (.fadd f32 sd sa sb) s (fun s => s.postF 4 f32 sd [(scF s.me f32 sa), (scF s.me f32 sb)] (bin exAdd))

/-- FSUB (06 R120). -/
def execFsub (f32 : Bool) (sd sa sb : Nat) (s : State) : Host.Outcome State Fault Refusal :=
  syl .s (.fsub f32 sd sa sb) s (fun s => s.postF 4 f32 sd [(scF s.me f32 sa), (scF s.me f32 sb)] (bin exSub))

/-- FMUL (06 R120). -/
def execFmul (f32 : Bool) (sd sa sb : Nat) (s : State) : Host.Outcome State Fault Refusal :=
  syl .s (.fmul f32 sd sa sb) s (fun s => s.postF 4 f32 sd [(scF s.me f32 sa), (scF s.me f32 sb)] (bin exMul))

/-- FFMA (06 R120). -/
def execFfma (f32 : Bool) (sd sa sb : Nat) (s : State) : Host.Outcome State Fault Refusal :=
  syl .s (.ffma f32 sd sa sb) s (fun s => s.postF 4 f32 sd [(scF s.me f32 sa), (scF s.me f32 sb), (scF s.me f32 sd)] (tri exFma))

/-- FDIV (06 R120). -/
def execFdiv (f32 : Bool) (sd sa sb : Nat) (s : State) : Host.Outcome State Fault Refusal :=
  syl .s (.fdiv f32 sd sa sb) s (fun s => s.postF 16 f32 sd [(scF s.me f32 sa), (scF s.me f32 sb)] (bin exDiv))

/-- FSQRT (06 R120). -/
def execFsqrt (f32 : Bool) (sd sa : Nat) (s : State) : Host.Outcome State Fault Refusal :=
  syl .s (.fsqrt f32 sd sa) s (fun s => s.postF 16 f32 sd [(scF s.me f32 sa)] (una exSqrt))

/-- FCMP.cc (06 R121). -/
def execFcmpCc (cc : Cond) (f32 : Bool) (pd sa sb : Nat) (s : State) : Host.Outcome State Fault Refusal :=
  syl .s (.fcmpCc cc f32 pd sa sb) s (fun s => s.postPred 4 pd (predAll (fCond (fmtP f32) cc (scF s.me f32 sa) (scF s.me f32 sb))))

/-- FCVT (06 R122). -/
def execFcvt (dst src : ETy) (sd sa : Nat) (s : State) : Host.Outcome State Fault Refusal :=
  syl .s (.fcvt dst src sd sa) s (fun s => let r := cvt .rne dst src (s.me.sc sa).toNat; (s.postS 4 sd (extResult dst r.code)).postOvf 4 r.ovf)

/-- BR (06 R123, R124). -/
def execBr (disp : Int) (s : State) : Host.Outcome State Fault Refusal :=
  syl .s (.br disp) s (fun s => s.branchTo (s.herePc + BitVec.ofInt 64 (4 * disp)))

/-- BRC (06 R123, R124). -/
def execBrc (pt : Nat) (ng : Bool) (disp : Int) (s : State) : Host.Outcome State Fault Refusal :=
  syl .s (.brc pt ng disp) s (fun s => if s.me.cond pt != ng then s.branchTo (s.herePc + BitVec.ofInt 64 (4 * disp)) else s.branchNot)

/-- JR (06 R123, R124). -/
def execJr (sa : Nat) (s : State) : Host.Outcome State Fault Refusal :=
  syl .s (.jr sa) s (fun s => s.branchTo (s.me.sc sa))

/-- CALL (06 R123, R124): s63 takes the address after the delay bundle on every member. -/
def execCall (disp : Int) (s : State) : Host.Outcome State Fault Refusal :=
  syl .s (.call disp) s (fun s => (s.modCores (fun k => k.post 1 s.seq .link) (s.gang s.cur)).branchTo (s.herePc + BitVec.ofInt 64 (4 * disp)))

/-- RET (06 R123, R124). -/
def execRet (s : State) : Host.Outcome State Fault Refusal := syl .s .ret s (fun s => s.branchTo (s.me.sc 63))

/-- LOOP (06 R125). -/
def execLoop (nd sa : Nat) (rot : Bool) (e : Nat) (s : State) : Host.Outcome State Fault Refusal :=
  syl .s (.loop nd sa rot e) s (fun s => s.startLoop nd (loopCounts s.me nd sa 0 false) rot e)

/-- LOOPX (06 R125). -/
def execLoopx (nd sa : Nat) (rot : Bool) (n0 : Nat) (s : State) : Host.Outcome State Fault Refusal :=
  syl .s (.loopx nd sa rot n0) s (fun s => s.startLoop nd (loopCounts s.me nd sa n0 true) rot 0)

end Sys2Proof.Machine
end

