-- ==== Sys2Proof/Machine/Vector.lean ====
section
/-! DEFINITION. The VA and VB slots, arithmetic, compare and permute (08). -/

namespace Sys2Proof.Machine

/-- Elements of a source register (08 R154). -/
def State.els (s : State) (w n : Nat) : List Nat := lanes w (s.me.vr n)

/-- The second source of an integer instruction, per element (08 R159). -/
def State.srcB (s : State) (w : Nat) : VSrc → List Nat
  | .reg n => s.els w n
  | .imm k => List.replicate (512 / w) (intPat (8 * w) k)

/-- A binary integer instruction: `f` takes W, a, b, c as the element type reads them (08 R160). -/
def State.vbin (s : State) (o : VBin) (f : Nat → Int → Int → Int → Int) : State :=
  let w := o.ty.width
  let rd (x : Nat) : Int := intVal o.ty.isSigned (8 * w) x
  let a := s.els w o.va
  let b := s.srcB w o.b
  let c := s.els w o.vd
  s.postVec 2 w o.vd o.pg o.z (fun e => intPat (8 * w) (f (8 * w) (rd (a.getD e 0)) (rd (b.getD e 0)) (rd (c.getD e 0))))

/-- A unary instruction on element patterns. -/
def State.vun (s : State) (o : VUn) (lat : Nat) (f : Nat → Nat) : State :=
  let w := o.ty.width
  let a := s.els w o.va
  s.postVec lat w o.vd o.pg o.z (fun e => f (a.getD e 0))

/-- A floating instruction with two operands (08 R161). -/
def State.vf2 (s : State) (o : VTer) (lat : Nat) (f : Nat → Nat → FRes) : State :=
  let w := o.ty.width
  let a := s.els w o.va
  let b := s.els w o.vb
  s.postV lat w o.vd o.pg o.z (fun _ => true) (fun e => f (a.getD e 0) (b.getD e 0))

/-- A floating instruction with three operands (08 R161). -/
def State.vf3 (s : State) (o : VTer) (g : List FV → Ex) : State :=
  let w := o.ty.width
  let a := s.els w o.va
  let b := s.els w o.vb
  let c := s.els w o.vc
  let cx := s.nanCtx s.cur
  s.postV 4 w o.vd o.pg o.z (fun _ => true)
    (fun e => fop (fmtOf o.ty) cx .rne [a.getD e 0, b.getD e 0, c.getD e 0] g)

/-- VFADD, VFSUB and VFMUL on two codes. -/
def State.vfop (s : State) (o : VTer) (lat : Nat) (g : FV → FV → Ex) : State :=
  let cx := s.nanCtx s.cur
  s.vf2 o lat (fun x y => fop (fmtOf o.ty) cx .rne [x, y] (bin g))

/-- A permute: result element e from the sources' elements (08 R167). -/
def State.vperm (s : State) (ty : ETy) (vd pg : Nat) (z : Bool) (f : Nat → Nat) : State :=
  s.postVec 3 ty.width vd pg z f

/-- A shift count: the element read unsigned (08 R160). -/
def shCount (w : Nat) (b : Int) : Nat := intPat w b

def bitsAnd (w : Nat) (a b : Int) : Int := (Nat.land (intPat w a) (intPat w b) : Nat)
def bitsOr (w : Nat) (a b : Int) : Int := (Nat.lor (intPat w a) (intPat w b) : Nat)
def bitsXor (w : Nat) (a b : Int) : Int := (Nat.xor (intPat w a) (intPat w b) : Nat)

/-- A shift left, 0 at the width and beyond (08 R160). -/
def shlEl (w : Nat) (a b : Int) : Int := let k := shCount w b; if k ≥ w then 0 else a * 2 ^ k
/-- A logical shift right. -/
def shrEl (w : Nat) (a b : Int) : Int := let k := shCount w b; if k ≥ w then 0 else ((intPat w a / 2 ^ k : Nat) : Int)
/-- An arithmetic shift right; at the width and beyond the sign alone. -/
def sarEl (w : Nat) (a b : Int) : Int :=
  let k := shCount w b
  if k ≥ w then (if a < 0 then -1 else 0) else a / 2 ^ k

/-- VADD (08 R160). -/
def execVadd (o : VBin) (s : State) : Host.Outcome State Fault Refusal :=
  syl .va (.vadd o) s (fun s => s.vbin o (fun _ a b _ => a + b))

/-- VSUB (08 R160). -/
def execVsub (o : VBin) (s : State) : Host.Outcome State Fault Refusal :=
  syl .va (.vsub o) s (fun s => s.vbin o (fun _ a b _ => a - b))

/-- VMUL (08 R160). -/
def execVmul (o : VBin) (s : State) : Host.Outcome State Fault Refusal :=
  syl .va (.vmul o) s (fun s => s.vbin o (fun _ a b _ => a * b))

/-- VMULH (08 R160): the upper half of the exact product. -/
def execVmulh (o : VBin) (s : State) : Host.Outcome State Fault Refusal :=
  syl .va (.vmulh o) s (fun s => s.vbin o (fun w a b _ => a * b / 2 ^ w))

/-- VMAC (08 R160): it reads vd. -/
def execVmac (o : VBin) (s : State) : Host.Outcome State Fault Refusal :=
  syl .va (.vmac o) s (fun s => s.vbin o (fun _ a b c => c + a * b))

/-- VABS (08 R160). -/
def execVabs (o : VUn) (s : State) : Host.Outcome State Fault Refusal :=
  syl .va (.vabs o) s (fun s => s.vun o 2 (fun a => intPat (8 * o.ty.width) (intVal o.ty.isSigned (8 * o.ty.width) a).natAbs))

/-- VNEG (08 R160). -/
def execVneg (o : VUn) (s : State) : Host.Outcome State Fault Refusal :=
  syl .va (.vneg o) s (fun s => s.vun o 2 (fun a => intPat (8 * o.ty.width) (-(a : Int))))

/-- VMIN (08 R160). -/
def execVmin (o : VBin) (s : State) : Host.Outcome State Fault Refusal :=
  syl .va (.vmin o) s (fun s => s.vbin o (fun _ a b _ => if a ≤ b then a else b))

/-- VMAX (08 R160). -/
def execVmax (o : VBin) (s : State) : Host.Outcome State Fault Refusal :=
  syl .va (.vmax o) s (fun s => s.vbin o (fun _ a b _ => if a ≥ b then a else b))

/-- VAND (08 R160). -/
def execVand (o : VBin) (s : State) : Host.Outcome State Fault Refusal :=
  syl .va (.vand o) s (fun s => s.vbin o (fun w a b _ => bitsAnd w a b))

/-- VOR (08 R160). -/
def execVor (o : VBin) (s : State) : Host.Outcome State Fault Refusal :=
  syl .va (.vor o) s (fun s => s.vbin o (fun w a b _ => bitsOr w a b))

/-- VXOR (08 R160). -/
def execVxor (o : VBin) (s : State) : Host.Outcome State Fault Refusal :=
  syl .va (.vxor o) s (fun s => s.vbin o (fun w a b _ => bitsXor w a b))

/-- VSHL (08 R160). -/
def execVshl (o : VBin) (s : State) : Host.Outcome State Fault Refusal :=
  syl .va (.vshl o) s (fun s => s.vbin o (fun w a b _ => shlEl w a b))

/-- VSHR (08 R160). -/
def execVshr (o : VBin) (s : State) : Host.Outcome State Fault Refusal :=
  syl .va (.vshr o) s (fun s => s.vbin o (fun w a b _ => shrEl w a b))

/-- VSAR (08 R160). -/
def execVsar (o : VBin) (s : State) : Host.Outcome State Fault Refusal :=
  syl .va (.vsar o) s (fun s => s.vbin o (fun w a b _ => sarEl w a b))

/-- VADDS (08 R160): clamped. -/
def execVadds (o : VBin) (s : State) : Host.Outcome State Fault Refusal :=
  syl .va (.vadds o) s (fun s => s.vbin o (fun w a b _ => saturate o.ty.isSigned w (a + b)))

/-- VSUBS (08 R160): clamped. -/
def execVsubs (o : VBin) (s : State) : Host.Outcome State Fault Refusal :=
  syl .va (.vsubs o) s (fun s => s.vbin o (fun w a b _ => saturate o.ty.isSigned w (a - b)))

/-- VAVG (08 R160). -/
def execVavg (o : VBin) (s : State) : Host.Outcome State Fault Refusal :=
  syl .va (.vavg o) s (fun s => s.vbin o (fun _ a b _ => (a + b + 1) / 2))

/-- VCLZ (08 R160). -/
def execVclz (o : VUn) (s : State) : Host.Outcome State Fault Refusal :=
  syl .va (.vclz o) s (fun s => s.vun o 2 (clzNat (8 * o.ty.width)))

/-- VPOPC (08 R160). -/
def execVpopc (o : VUn) (s : State) : Host.Outcome State Fault Refusal :=
  syl .va (.vpopc o) s (fun s => s.vun o 2 (popNat (8 * o.ty.width)))

/-- VCMP.cc (08 R165). -/
def execVcmpCc (o : VCmp) (s : State) : Host.Outcome State Fault Refusal :=
  syl .va (.vcmpCc o) s (fun s => 
    let w := o.ty.width
    let a := s.els w o.va
    let b := s.els w o.vb
    let rd (x : Nat) : Int := intVal o.ty.isSigned (8 * w) x
    s.postVP 2 w o.pd o.pg o.z (fun e =>
      intCond o.cc (rd (a.getD e 0)) (rd (b.getD e 0)) (a.getD e 0) (b.getD e 0)))

/-- VSEL (08 R166): vc names the selecting predicate. -/
def execVsel (o : VTer) (s : State) : Host.Outcome State Fault Refusal :=
  syl .va (.vsel o) s (fun s => 
    let w := o.ty.width
    let a := s.els w o.va
    let b := s.els w o.vb
    let p := s.me.pr o.vc
    s.postVec 2 w o.vd o.pg o.z (fun e => if activeAt p w e then a.getD e 0 else b.getD e 0))

/-- VFADD (08 R161). -/
def execVfadd (o : VTer) (s : State) : Host.Outcome State Fault Refusal :=
  syl .va (.vfadd o) s (fun s => s.vfop o 4 exAdd)

/-- VFSUB (08 R161). -/
def execVfsub (o : VTer) (s : State) : Host.Outcome State Fault Refusal :=
  syl .va (.vfsub o) s (fun s => s.vfop o 4 exSub)

/-- VFMUL (08 R161). -/
def execVfmul (o : VTer) (s : State) : Host.Outcome State Fault Refusal :=
  syl .va (.vfmul o) s (fun s => s.vfop o 4 exMul)

/-- VFMA (08 R161). -/
def execVfma (o : VTer) (s : State) : Host.Outcome State Fault Refusal :=
  syl .va (.vfma o) s (fun s => s.vf3 o (tri exFma))

/-- VFNMA (08 R161): the fused multiply-add of −a, b and c. -/
def execVfnma (o : VTer) (s : State) : Host.Outcome State Fault Refusal :=
  syl .va (.vfnma o) s (fun s => s.vf3 o (tri (fun a b c => exFma a.neg b c)))

/-- VFMIN (08 R162). -/
def execVfmin (o : VTer) (s : State) : Host.Outcome State Fault Refusal :=
  syl .va (.vfmin o) s (fun s => s.vf2 o 2 (fun x y => ⟨fMinMax (fmtOf o.ty) true x y, false⟩))

/-- VFMAX (08 R162). -/
def execVfmax (o : VTer) (s : State) : Host.Outcome State Fault Refusal :=
  syl .va (.vfmax o) s (fun s => s.vf2 o 2 (fun x y => ⟨fMinMax (fmtOf o.ty) false x y, false⟩))

/-- VFABS (08 R163): a NaN is quieted, its sign unchanged. -/
def execVfabs (o : VUn) (s : State) : Host.Outcome State Fault Refusal :=
  syl .va (.vfabs o) s (fun s => s.vun o 2 (fun a => if (fvOf (fmtOf o.ty) a).isNan then quietNan (fmtOf o.ty) a else a % (fmtOf o.ty).mag))

/-- VFNEG (08 R163). -/
def execVfneg (o : VUn) (s : State) : Host.Outcome State Fault Refusal :=
  syl .va (.vfneg o) s (fun s => s.vun o 2 (fun a => if (fvOf (fmtOf o.ty) a).isNan then quietNan (fmtOf o.ty) a else Nat.xor a (fmtOf o.ty).mag))

/-- VFCLASS (08 R164). -/
def execVfclass (o : VUn) (s : State) : Host.Outcome State Fault Refusal :=
  syl .va (.vfclass o) s (fun s => s.vun o 2 (fClass (fmtOf o.ty)))

/-- VFCMP.cc (08 R165). -/
def execVfcmpCc (o : VCmp) (s : State) : Host.Outcome State Fault Refusal :=
  syl .va (.vfcmpCc o) s (fun s => 
    let w := o.ty.width
    let a := s.els w o.va
    let b := s.els w o.vb
    s.postVP 2 w o.pd o.pg o.z (fun e => fCond (fmtOf o.ty) o.cc (a.getD e 0) (b.getD e 0)))

/-- VMOV (08 R168). -/
def execVmov (o : VUn) (s : State) : Host.Outcome State Fault Refusal :=
  syl .va (.vmov o) s (fun s => s.vun o 3 (fun a => a))

/-- VBCAST (08 R168): va names a scalar. -/
def execVbcast (o : VUn) (s : State) : Host.Outcome State Fault Refusal :=
  syl .va (.vbcast o) s (fun s => let x := (s.me.sc o.va).toNat; s.vperm o.ty o.vd o.pg o.z (fun _ => x))

/-- VEXT (08 R168): signed integer types are sign-extended. -/
def execVext (ty : ETy) (sd va sb imm : Nat) (s : State) : Host.Outcome State Fault Refusal :=
  syl .va (.vext ty sd va sb imm) s (fun s => 
    let w := ty.width
    let i := (s.me.sc sb).toNat + imm
    let x := lane w (s.me.vr va) i
    s.postS 3 sd (if i ≥ 512 / w then 0
      else if ty.isSigned then BitVec.ofInt 64 (intVal true (8 * w) x) else BitVec.ofNat 64 x))

/-- VINS (08 R168): one element of vd. -/
def execVins (ty : ETy) (vd sa sb imm : Nat) (s : State) : Host.Outcome State Fault Refusal :=
  syl .va (.vins ty vd sa sb imm) s (fun s => 
    let w := ty.width
    let i := (s.me.sc sb).toNat + imm
    if i ≥ 512 / w then s
    else s.post 3 (.vector (physV s.me.vrot vd) (elemMask w (· == i))
      (BitVec.ofNat 4096 ((s.me.sc sa).toNat % 2 ^ (8 * w) * 2 ^ (8 * w * i)))))

/-- VPERM (08 R169): bytes permute within each half. -/
def execVperm (o : VTer) (s : State) : Host.Outcome State Fault Refusal :=
  syl .va (.vperm o) s (fun s => 
    let w := o.ty.width
    let a := s.els w o.va
    let b := s.els w o.vb
    s.vperm o.ty o.vd o.pg o.z (fun e =>
      let x := b.getD e 0
      if w = 1 then a.getD (e / 256 * 256 + x) 0 else a.getD x 0))

/-- VSHUF (08 R170). -/
def execVshuf (o : VUn) (pat : BitVec 8) (s : State) : Host.Outcome State Fault Refusal :=
  syl .va (.vshuf o pat) s (fun s => 
    let a := s.els o.ty.width o.va
    s.vperm o.ty o.vd o.pg o.z (fun e => a.getD (e / 4 * 4 + pat.toNat / 4 ^ (e % 4) % 4) 0))

/-- VROT (08 R171): vb names a scalar. -/
def execVrot (o : VTer) (s : State) : Host.Outcome State Fault Refusal :=
  syl .va (.vrot o) s (fun s => 
    let n := 512 / o.ty.width
    let a := s.els o.ty.width o.va
    let k := (s.me.sc o.vb).toNat
    s.vperm o.ty o.vd o.pg o.z (fun e => a.getD ((e + k) % n) 0))

/-- VZIP (08 R172): vc is h. -/
def execVzip (o : VTer) (s : State) : Host.Outcome State Fault Refusal :=
  syl .va (.vzip o) s (fun s => 
    let n := 512 / o.ty.width
    let a := s.els o.ty.width o.va
    let b := s.els o.ty.width o.vb
    s.vperm o.ty o.vd o.pg o.z (fun e => (if e % 2 = 0 then a else b).getD (e / 2 + o.vc * (n / 2)) 0))

/-- VUNZIP (08 R172): vc is h. -/
def execVunzip (o : VTer) (s : State) : Host.Outcome State Fault Refusal :=
  syl .va (.vunzip o) s (fun s => 
    let a := s.els o.ty.width o.va
    let b := s.els o.ty.width o.vb
    s.vperm o.ty o.vd o.pg o.z (fun e => (a ++ b).getD (2 * e + o.vc) 0))

/-- VSLIDE (08 R171): vb names a scalar, vc the upper source. -/
def execVslide (o : VTer) (s : State) : Host.Outcome State Fault Refusal :=
  syl .va (.vslide o) s (fun s => 
    let a := s.els o.ty.width o.va
    let b := s.els o.ty.width o.vc
    let k := (s.me.sc o.vb).toNat
    s.vperm o.ty o.vd o.pg o.z (fun e => (a ++ b).getD (e + k) 0))

end Sys2Proof.Machine
end

