-- ==== Sys2Proof/Machine/VectorLong.lean ====
section
/-! DEFINITION. The VA and VB slots, conversion, long latency, reduction and random numbers (09). -/

namespace Sys2Proof.Machine

/-! Conversion (09 R174). -/

/-- Whether VCVT writes an element, and from which source element: the source is narrower or equal, or it is wider. -/
def cvtFrom (ns nd q e : Nat) : Option Nat :=
  if ns ≥ nd then some (q * nd + e)
  else if q * ns ≤ e && e < q * ns + ns then some (e - q * ns) else none

/-- A value that is exact in a type, as its code; a NaN is one of a given format (09 R176, R179). -/
def exactCode (src : Fmt) (t : ETy) : FV → Nat
  | .nan c => if t.isFloat then convNan src (fmtOf t) c else 0
  | .inf n => if t.isFloat then (fmtOf t).signed n ((fmtOf t).maxMag + 1) else 0
  | .num n m x =>
    let a := (FV.num n m x).exact
    if t.isFloat then (roundArith (fmtOf t) .rtz a).1 else intPat (8 * t.width) (roundInt .rtz a)

/-- VNARROW.t and VSCALE.t: the narrowing of the register into a register image (09 R175, R177, R178). `given` says
that block scales come from the old vd. -/
def State.vnarrow (s : State) (o : VTer) (given : Bool) : State :=
  let k := s.me
  let w := o.ty.width
  let n := 512 / w
  let src := fmtOf o.ty
  let e := Tab.get 0 k.tt o.vc
  let p := k.pr o.pg
  let a := s.els w o.va
  let base := (k.sc o.vb).toNat
  let xs : List (Nat × FV) := (List.range n).map (fun i =>
    (base + i, if activeAt p w i then fvOf src (a.getD i 0) else .num false 0 0))
  let seed := s.scb.seed.toNat
  let old := k.vr o.vd
  let blk := tBlock e
  let groups := if blk = 0 then [xs] else chunks blk n xs
  let rs := (List.range groups.length).zip groups |>.map (fun g =>
    tNarrowBlock e seed src (if given then some (lane 1 old (480 + g.1)) else none) g.2)
  let img := regImage e (rs.flatMap (·.codes)) (rs.map (·.scale))
  (s.postVAll 4 o.vd img).postOrigin 4 o.vc (rs.findSome? (·.origin))

/-! Reductions (09 R182, R183). -/

/-- One level of the tree: neighbours combine; an absent one passes its partner on. -/
def treeLevel {α : Type} (op : α → α → α) : List (Option α) → List (Option α)
  | x :: y :: r => (match x, y with
      | none, y => y
      | x, none => x
      | some a, some b => some (op a b)) :: treeLevel op r
  | l => l

/-- The tree of 09 R182; the fuel is its depth. -/
def foldTree {α : Type} (op : α → α → α) : Nat → List (Option α) → Option α
  | 0, l => l.headD none
  | d + 1, l => foldTree op d (treeLevel op l)

/-- The active elements of a register, none for the others. -/
def State.actives (s : State) (o : VUn) : List (Option Nat) :=
  let w := o.ty.width
  let p := s.me.pr o.pg
  let a := s.els w o.va
  (List.range (512 / w)).map (fun e => if activeAt p w e then some (a.getD e 0) else none)

/-- An integer reduction to 64 bits in bytes 7 to 0. -/
def State.vred (s : State) (o : VUn) (op : Int → Int → Int) (unit : Int) : State :=
  let l := (s.actives o).map (fun x => x.map (intVal o.ty.isSigned (8 * o.ty.width)))
  s.postVAll 6 o.vd (BitVec.ofNat 4096 (intPat 64 ((foldTree op 9 l).getD unit)))

/-- A node of VFRSUM: the sum rounds once; an overflow below is kept. -/
def fsumNode (f : Fmt) (cx : NanCtx) (x y : FRes) : FRes :=
  let r := fop f cx .rne [x.code, y.code] (bin exAdd)
  ⟨r.code, r.ovf || x.ovf || y.ovf⟩

/-! Random numbers (09 R184 to R187). -/

/-- The index of element e from a base, modulo 2^64. -/
def drawIndex (base e : Nat) : Nat := (base + e) % 2 ^ 64

/-- One FP32 operation whose operands are never NaN. -/
def f32Op (ops : List Nat) (g : List FV → Ex) : Nat := (fop fmt32 ⟨0, 0⟩ .rne ops g).code

/-- k × 2^−24 as FP32. -/
def f32Frac (k : Nat) : Nat := (roundArith fmt32 .rne ⟨k, 1, -24, false⟩).1

/-- A normal draw from words 0 and 1 (09 R186). -/
def normalDraw (w0 w1 : Nat) : Nat :=
  let u1 := f32Frac (w0 / 256 + 1)
  let u2 := w1 / 256
  let t := f32Op [u1] (una exLog2)
  let m := f32Op [t, 0xBFB17218] (bin exMul)
  let c := (roundArith fmt32 .rne (match exCosPi (.num false (2 * u2) (-24)) with | .val e => e | _ => ⟨0, 1, 0, false⟩)).1
  f32Op [f32Op [m] (una exSqrt), c] (bin exMul)

/-- The control scalar of VRNGB and VDROP: stream, threshold and draw (09 R187). -/
def ctlFields (c : Word) : Nat × Nat × Nat :=
  (fld c.toNat 31 0, min (fld c.toNat 56 32) (2 ^ 24), fld c.toNat 63 57)

/-- keep[e] of 09 R187. -/
def keeps (seed base : Nat) (ctl : Word) (e : Nat) : Bool :=
  let (stream, q, draw) := ctlFields ctl
  buntingWord 0 seed stream (drawIndex base e) draw / 256 < q

/-- va × 2^24 / q of a kept element (09 R187). -/
def dropScale (q : Nat) (a : FV) : Ex :=
  match a with
  | .inf n => .inf n
  | .num n m x => .val ((FV.num n m x).exact.mul ⟨2 ^ 24, q, 0, false⟩)
  | .nan _ => .invalid

/-- A unary function that rounds once (09 R181). -/
def State.vfun (s : State) (o : VUn) (lat : Nat) (g : FV → Ex) : State :=
  let w := o.ty.width
  let a := s.els w o.va
  let cx := s.nanCtx s.cur
  s.postV lat w o.vd o.pg o.z (fun _ => true) (fun e => fop (fmtOf o.ty) cx .rne [a.getD e 0] (una g))

/-- VCVT (09 R174). -/
def execVcvt (o : VCvtOp) (s : State) : Host.Outcome State Fault Refusal :=
  syl .va (.vcvt o) s (fun s => 
    let wd := o.dst.width
    let nd := 512 / wd
    let ns := 512 / o.src.width
    let a := s.els o.src.width o.va
    s.postV 4 wd o.vd o.pg o.z (fun e => (cvtFrom ns nd o.q e).isSome)
      (fun e => match cvtFrom ns nd o.q e with
        | some i => cvt (if o.rtz then .rtz else .rne) o.dst o.src (a.getD i 0)
        | none => ⟨0, false⟩))

/-- VNANPAY (09 R180). -/
def execVnanpay (o : VUn) (s : State) : Host.Outcome State Fault Refusal :=
  syl .va (.vnanpay o) s (fun s => 
    let f := fmtOf o.ty
    s.vun o 4 (fun a => if (fvOf f a).isNan then
      (let (l, st) := nanFields f a; 2 ^ (8 * o.ty.width - 1) + st * 2 ^ 10 + l) else 0))

/-- VNANMK (09 R180). -/
def execVnanmk (o : VUn) (s : State) : Host.Outcome State Fault Refusal :=
  syl .va (.vnanmk o) s (fun s => s.vun o 4 (fun a => nanMake (fmtOf o.ty) false (a % 1024) (a / 1024 % 4096)))

/-- VNARROW.t (09 R177). -/
def execVnarrowT (o : VTer) (s : State) : Host.Outcome State Fault Refusal :=
  syl .va (.vnarrowT o) s (fun s => s.vnarrow o false)

/-- VWIDEN.t (09 R179): vc names the entry. -/
def execVwidenT (o : VTer) (s : State) : Host.Outcome State Fault Refusal :=
  syl .va (.vwidenT o) s (fun s => 
    let w := o.ty.width
    let e := Tab.get 0 s.me.tt o.vc
    let v := s.me.vr o.va
    let nf := tNanFmt e
    let nan := newNan nf (s.nanCtx s.cur)
    s.postVec 4 w o.vd o.pg o.z (fun i => exactCode nf o.ty (tWiden e (imgCode e v i) (imgScale e v i) nan)))

/-- VSCALE.t (09 R178). -/
def execVscaleT (o : VTer) (s : State) : Host.Outcome State Fault Refusal :=
  syl .va (.vscaleT o) s (fun s => s.vnarrow o true)

/-- VFDIV (09 R181). -/
def execVfdiv (o : VTer) (s : State) : Host.Outcome State Fault Refusal :=
  syl .va (.vfdiv o) s (fun s => s.vfop o 16 exDiv)

/-- VFSQRT (09 R181). -/
def execVfsqrt (o : VUn) (s : State) : Host.Outcome State Fault Refusal :=
  syl .va (.vfsqrt o) s (fun s => s.vfun o 16 exSqrt)

/-- VFRCP (09 R181). -/
def execVfrcp (o : VUn) (s : State) : Host.Outcome State Fault Refusal :=
  syl .va (.vfrcp o) s (fun s => s.vfun o 16 exRcp)

/-- VFRSQ (09 R181). -/
def execVfrsq (o : VUn) (s : State) : Host.Outcome State Fault Refusal :=
  syl .va (.vfrsq o) s (fun s => s.vfun o 16 exRsq)

/-- VFEXP2 (09 R181). -/
def execVfexp2 (o : VUn) (s : State) : Host.Outcome State Fault Refusal :=
  syl .va (.vfexp2 o) s (fun s => s.vfun o 12 exExp2)

/-- VFLOG2 (09 R181). -/
def execVflog2 (o : VUn) (s : State) : Host.Outcome State Fault Refusal :=
  syl .va (.vflog2 o) s (fun s => s.vfun o 12 exLog2)

/-- VFSINPI (09 R181). -/
def execVfsinpi (o : VUn) (s : State) : Host.Outcome State Fault Refusal :=
  syl .va (.vfsinpi o) s (fun s => s.vfun o 12 exSinPi)

/-- VFCOSPI (09 R181). -/
def execVfcospi (o : VUn) (s : State) : Host.Outcome State Fault Refusal :=
  syl .va (.vfcospi o) s (fun s => s.vfun o 12 exCosPi)

/-- VRSUM (09 R183). -/
def execVrsum (o : VUn) (s : State) : Host.Outcome State Fault Refusal :=
  syl .va (.vrsum o) s (fun s => s.vred o (· + ·) 0)

/-- VRMAX (09 R183). -/
def execVrmax (o : VUn) (s : State) : Host.Outcome State Fault Refusal :=
  syl .va (.vrmax o) s (fun s => s.vred o max (intMin o.ty.isSigned (8 * o.ty.width)))

/-- VRMIN (09 R183). -/
def execVrmin (o : VUn) (s : State) : Host.Outcome State Fault Refusal :=
  syl .va (.vrmin o) s (fun s => s.vred o min (intMax o.ty.isSigned (8 * o.ty.width)))

/-- VFRSUM (09 R182, R183); a lone NaN is quieted (07 R144). -/
def execVfrsum (o : VUn) (s : State) : Host.Outcome State Fault Refusal :=
  syl .va (.vfrsum o) s (fun s => 
    let cx := s.nanCtx s.cur
    let l := (s.actives o).map (fun x => x.map (fun c => (⟨c, false⟩ : FRes)))
    let r := (foldTree (fsumNode (fmtOf o.ty) cx) 9 l).getD ⟨0, false⟩
    (s.postVAll 6 o.vd (BitVec.ofNat 4096 (quietCode (fmtOf o.ty) r.code))).postOvf 6 r.ovf)

/-- VFRMAX (09 R182, R183): the identity is −∞; a lone NaN is quieted (07 R144). -/
def execVfrmax (o : VUn) (s : State) : Host.Outcome State Fault Refusal :=
  syl .va (.vfrmax o) s (fun s => 
    let f := fmtOf o.ty
    s.postVAll 6 o.vd (BitVec.ofNat 4096
      (quietCode f ((foldTree (fMinMax f false) 9 (s.actives o)).getD (f.signed true (f.maxMag + 1))))))

/-- VRNGU (09 R186): va, vb and vc name scalars. -/
def execVrngu (o : VTer) (s : State) : Host.Outcome State Fault Refusal :=
  syl .va (.vrngu o) s (fun s => 
    let k := s.me
    let base := (k.sc o.va).toNat
    let draw := (k.sc o.vb).toNat % 2 ^ 63
    let stream := (k.sc o.vc).toNat % 2 ^ 32
    let seed := s.scb.seed.toNat
    s.postVec 6 4 o.vd o.pg o.z (fun e => f32Frac (buntingWord 0 seed stream (drawIndex base e) draw / 256)))

/-- VRNGN (09 R186). -/
def execVrngn (o : VTer) (s : State) : Host.Outcome State Fault Refusal :=
  syl .va (.vrngn o) s (fun s => 
    let k := s.me
    let base := (k.sc o.va).toNat
    let draw := (k.sc o.vb).toNat % 2 ^ 63
    let stream := (k.sc o.vc).toNat % 2 ^ 32
    let seed := s.scb.seed.toNat
    s.postVec 6 4 o.vd o.pg o.z (fun e =>
      let w := bunting seed stream (drawIndex base e) draw
      normalDraw (w.getD 0 0) (w.getD 1 0)))

/-- VRNGB (09 R187): vd names the predicate. -/
def execVrngb (o : VTer) (s : State) : Host.Outcome State Fault Refusal :=
  syl .va (.vrngb o) s (fun s => 
    let k := s.me
    let base := (k.sc o.va).toNat
    let seed := s.scb.seed.toNat
    s.postVP 6 o.ty.width o.vd o.pg o.z (keeps seed base (k.sc o.vc)))

/-- VDROP (09 R187). -/
def execVdrop (o : VTer) (s : State) : Host.Outcome State Fault Refusal :=
  syl .va (.vdrop o) s (fun s => 
    let k := s.me
    let w := o.ty.width
    let a := s.els w o.va
    let base := (k.sc o.vb).toNat
    let ctl := k.sc o.vc
    let seed := s.scb.seed.toNat
    let cx := s.nanCtx s.cur
    s.postV 6 w o.vd o.pg o.z (fun _ => true) (fun e =>
      if keeps seed base ctl e then fop (fmtOf o.ty) cx .rne [a.getD e 0] (una (dropScale (ctlFields ctl).2.1))
      else ⟨0, false⟩))

end Sys2Proof.Machine
end

