-- ==== Sys2Proof/Machine/Dispatch.lean ====
section
/-! DEFINITION. The dispatch of the steps of the part: one arm per constructor of Instr. -/

namespace Sys2Proof.Machine

/-- The meaning of each row of the opcode table. -/
def exec (i : Instr) (s : State) : Host.Outcome State Fault Refusal :=
  match i with
  | .nop sp le guard => Sys2Proof.Machine.execNop sp le guard s
  | .dataLanding core id unit => Sys2Proof.Machine.execDataLanding core id unit s
  | .storeAcknowledge core id unit => Sys2Proof.Machine.execStoreAcknowledge core id unit s
  | .memTimeout core id => Sys2Proof.Machine.execMemTimeout core id s
  | .softError e => Sys2Proof.Machine.execSoftError e s
  | .add sd sa sb => Sys2Proof.Machine.execAdd sd sa sb s
  | .sub sd sa sb => Sys2Proof.Machine.execSub sd sa sb s
  | .mul sd sa sb => Sys2Proof.Machine.execMul sd sa sb s
  | .mulh sd sa sb => Sys2Proof.Machine.execMulh sd sa sb s
  | .mulhu sd sa sb => Sys2Proof.Machine.execMulhu sd sa sb s
  | .div sd sa sb => Sys2Proof.Machine.execDiv sd sa sb s
  | .divu sd sa sb => Sys2Proof.Machine.execDivu sd sa sb s
  | .rem sd sa sb => Sys2Proof.Machine.execRem sd sa sb s
  | .remu sd sa sb => Sys2Proof.Machine.execRemu sd sa sb s
  | .and sd sa sb => Sys2Proof.Machine.execAnd sd sa sb s
  | .or sd sa sb => Sys2Proof.Machine.execOr sd sa sb s
  | .xor sd sa sb => Sys2Proof.Machine.execXor sd sa sb s
  | .shl sd sa sb => Sys2Proof.Machine.execShl sd sa sb s
  | .shr sd sa sb => Sys2Proof.Machine.execShr sd sa sb s
  | .sar sd sa sb => Sys2Proof.Machine.execSar sd sa sb s
  | .sel sd sa sb pn => Sys2Proof.Machine.execSel sd sa sb pn s
  | .addi sd sa imm => Sys2Proof.Machine.execAddi sd sa imm s
  | .andi sd sa imm => Sys2Proof.Machine.execAndi sd sa imm s
  | .ori sd sa imm => Sys2Proof.Machine.execOri sd sa imm s
  | .xori sd sa imm => Sys2Proof.Machine.execXori sd sa imm s
  | .shli sd sa count => Sys2Proof.Machine.execShli sd sa count s
  | .shri sd sa count => Sys2Proof.Machine.execShri sd sa count s
  | .sari sd sa count => Sys2Proof.Machine.execSari sd sa count s
  | .min sd sa sb => Sys2Proof.Machine.execMin sd sa sb s
  | .max sd sa sb => Sys2Proof.Machine.execMax sd sa sb s
  | .minu sd sa sb => Sys2Proof.Machine.execMinu sd sa sb s
  | .maxu sd sa sb => Sys2Proof.Machine.execMaxu sd sa sb s
  | .clz sd sa => Sys2Proof.Machine.execClz sd sa s
  | .popc sd sa => Sys2Proof.Machine.execPopc sd sa s
  | .movj sd jn => Sys2Proof.Machine.execMovj sd jn s
  | .movp sd pn => Sys2Proof.Machine.execMovp sd pn s
  | .cmpCc cc pd sa sb => Sys2Proof.Machine.execCmpCc cc pd sa sb s
  | .cmpiCc cc pd sa imm => Sys2Proof.Machine.execCmpiCc cc pd sa imm s
  | .li sd imm => Sys2Proof.Machine.execLi sd imm s
  | .lih sd imm => Sys2Proof.Machine.execLih sd imm s
  | .fadd f32 sd sa sb => Sys2Proof.Machine.execFadd f32 sd sa sb s
  | .fsub f32 sd sa sb => Sys2Proof.Machine.execFsub f32 sd sa sb s
  | .fmul f32 sd sa sb => Sys2Proof.Machine.execFmul f32 sd sa sb s
  | .ffma f32 sd sa sb => Sys2Proof.Machine.execFfma f32 sd sa sb s
  | .fdiv f32 sd sa sb => Sys2Proof.Machine.execFdiv f32 sd sa sb s
  | .fsqrt f32 sd sa => Sys2Proof.Machine.execFsqrt f32 sd sa s
  | .fcmpCc cc f32 pd sa sb => Sys2Proof.Machine.execFcmpCc cc f32 pd sa sb s
  | .fcvt dst src sd sa => Sys2Proof.Machine.execFcvt dst src sd sa s
  | .br disp => Sys2Proof.Machine.execBr disp s
  | .brc pt ng disp => Sys2Proof.Machine.execBrc pt ng disp s
  | .jr sa => Sys2Proof.Machine.execJr sa s
  | .call disp => Sys2Proof.Machine.execCall disp s
  | .loop nd sa rot e => Sys2Proof.Machine.execLoop nd sa rot e s
  | .loopx nd sa rot n0 => Sys2Proof.Machine.execLoopx nd sa rot n0 s
  | .vadd o => Sys2Proof.Machine.execVadd o s
  | .vsub o => Sys2Proof.Machine.execVsub o s
  | .vmul o => Sys2Proof.Machine.execVmul o s
  | .vmulh o => Sys2Proof.Machine.execVmulh o s
  | .vmac o => Sys2Proof.Machine.execVmac o s
  | .vabs o => Sys2Proof.Machine.execVabs o s
  | .vneg o => Sys2Proof.Machine.execVneg o s
  | .vmin o => Sys2Proof.Machine.execVmin o s
  | .vmax o => Sys2Proof.Machine.execVmax o s
  | .vand o => Sys2Proof.Machine.execVand o s
  | .vor o => Sys2Proof.Machine.execVor o s
  | .vxor o => Sys2Proof.Machine.execVxor o s
  | .vshl o => Sys2Proof.Machine.execVshl o s
  | .vshr o => Sys2Proof.Machine.execVshr o s
  | .vsar o => Sys2Proof.Machine.execVsar o s
  | .vadds o => Sys2Proof.Machine.execVadds o s
  | .vsubs o => Sys2Proof.Machine.execVsubs o s
  | .vavg o => Sys2Proof.Machine.execVavg o s
  | .vclz o => Sys2Proof.Machine.execVclz o s
  | .vpopc o => Sys2Proof.Machine.execVpopc o s
  | .vcmpCc o => Sys2Proof.Machine.execVcmpCc o s
  | .vsel o => Sys2Proof.Machine.execVsel o s
  | .vfadd o => Sys2Proof.Machine.execVfadd o s
  | .vfsub o => Sys2Proof.Machine.execVfsub o s
  | .vfmul o => Sys2Proof.Machine.execVfmul o s
  | .vfma o => Sys2Proof.Machine.execVfma o s
  | .vfnma o => Sys2Proof.Machine.execVfnma o s
  | .vfmin o => Sys2Proof.Machine.execVfmin o s
  | .vfmax o => Sys2Proof.Machine.execVfmax o s
  | .vfabs o => Sys2Proof.Machine.execVfabs o s
  | .vfneg o => Sys2Proof.Machine.execVfneg o s
  | .vfclass o => Sys2Proof.Machine.execVfclass o s
  | .vfcmpCc o => Sys2Proof.Machine.execVfcmpCc o s
  | .vmov o => Sys2Proof.Machine.execVmov o s
  | .vbcast o => Sys2Proof.Machine.execVbcast o s
  | .vext ty sd va sb imm => Sys2Proof.Machine.execVext ty sd va sb imm s
  | .vins ty vd sa sb imm => Sys2Proof.Machine.execVins ty vd sa sb imm s
  | .vperm o => Sys2Proof.Machine.execVperm o s
  | .vshuf o pat => Sys2Proof.Machine.execVshuf o pat s
  | .vrot o => Sys2Proof.Machine.execVrot o s
  | .vzip o => Sys2Proof.Machine.execVzip o s
  | .vunzip o => Sys2Proof.Machine.execVunzip o s
  | .vslide o => Sys2Proof.Machine.execVslide o s
  | .vcvt o => Sys2Proof.Machine.execVcvt o s
  | .vnanpay o => Sys2Proof.Machine.execVnanpay o s
  | .vnanmk o => Sys2Proof.Machine.execVnanmk o s
  | .vnarrowT o => Sys2Proof.Machine.execVnarrowT o s
  | .vwidenT o => Sys2Proof.Machine.execVwidenT o s
  | .vscaleT o => Sys2Proof.Machine.execVscaleT o s
  | .vfdiv o => Sys2Proof.Machine.execVfdiv o s
  | .vfsqrt o => Sys2Proof.Machine.execVfsqrt o s
  | .vfrcp o => Sys2Proof.Machine.execVfrcp o s
  | .vfrsq o => Sys2Proof.Machine.execVfrsq o s
  | .vfexp2 o => Sys2Proof.Machine.execVfexp2 o s
  | .vflog2 o => Sys2Proof.Machine.execVflog2 o s
  | .vfsinpi o => Sys2Proof.Machine.execVfsinpi o s
  | .vfcospi o => Sys2Proof.Machine.execVfcospi o s
  | .vrsum o => Sys2Proof.Machine.execVrsum o s
  | .vrmax o => Sys2Proof.Machine.execVrmax o s
  | .vrmin o => Sys2Proof.Machine.execVrmin o s
  | .vfrsum o => Sys2Proof.Machine.execVfrsum o s
  | .vfrmax o => Sys2Proof.Machine.execVfrmax o s
  | .vrngu o => Sys2Proof.Machine.execVrngu o s
  | .vrngn o => Sys2Proof.Machine.execVrngn o s
  | .vrngb o => Sys2Proof.Machine.execVrngb o s
  | .vdrop o => Sys2Proof.Machine.execVdrop o s
  | .mzero acc => Sys2Proof.Machine.execMzero acc s
  | .mma o => Sys2Proof.Machine.execMma o s
  | .mmau o u => Sys2Proof.Machine.execMmau o u s
  | .mdrain acc tD soffB sbar stok e => Sys2Proof.Machine.execMdrain acc tD soffB sbar stok e s
  | .mload acc tS soffA sbar stok => Sys2Proof.Machine.execMload acc tS soffA sbar stok s
  | .mcksum acc sd => Sys2Proof.Machine.execMcksum acc sd s
  | .mstat acc sd => Sys2Proof.Machine.execMstat acc sd s
  | .ld o => Sys2Proof.Machine.execLd o s
  | .vld o => Sys2Proof.Machine.execVld o s
  | .vlds o => Sys2Proof.Machine.execVlds o s
  | .vgath o => Sys2Proof.Machine.execVgath o s
  | .lsld o => Sys2Proof.Machine.execLsld o s
  | .lqpop vec reg q => Sys2Proof.Machine.execLqpop vec reg q s
  | .pref o => Sys2Proof.Machine.execPref o s
  | .aadd o => Sys2Proof.Machine.execAadd o s
  | .amin o => Sys2Proof.Machine.execAmin o s
  | .amax o => Sys2Proof.Machine.execAmax o s
  | .aand o => Sys2Proof.Machine.execAand o s
  | .aor o => Sys2Proof.Machine.execAor o s
  | .axor o => Sys2Proof.Machine.execAxor o s
  | .aswap o => Sys2Proof.Machine.execAswap o s
  | .acas o => Sys2Proof.Machine.execAcas o s
  | .afadd o => Sys2Proof.Machine.execAfadd o s
  | .aaddNr o => Sys2Proof.Machine.execAaddNr o s
  | .aminNr o => Sys2Proof.Machine.execAminNr o s
  | .amaxNr o => Sys2Proof.Machine.execAmaxNr o s
  | .aandNr o => Sys2Proof.Machine.execAandNr o s
  | .aorNr o => Sys2Proof.Machine.execAorNr o s
  | .axorNr o => Sys2Proof.Machine.execAxorNr o s
  | .aswapNr o => Sys2Proof.Machine.execAswapNr o s
  | .afaddNr o => Sys2Proof.Machine.execAfaddNr o s
  | .st o => Sys2Proof.Machine.execSt o s
  | .vst o => Sys2Proof.Machine.execVst o s
  | .vsts o => Sys2Proof.Machine.execVsts o s
  | .vscat o => Sys2Proof.Machine.execVscat o s
  | .lsst o => Sys2Proof.Machine.execLsst o s
  | .lqpsh vec reg q => Sys2Proof.Machine.execLqpsh vec reg q s
  | .flush o => Sys2Proof.Machine.execFlush o s
  | .discard o => Sys2Proof.Machine.execDiscard o s
  | .rearm o => Sys2Proof.Machine.execRearm o s
  | .lqTimeout core => Sys2Proof.Machine.execLqTimeout core s
  | .wosWait core id => Sys2Proof.Machine.execWosWait core id s
  | .copy o => Sys2Proof.Machine.execCopy o s
  | .copyt o => Sys2Proof.Machine.execCopyt o s
  | .copy2 o => Sys2Proof.Machine.execCopy2 o s
  | .copyr o => Sys2Proof.Machine.execCopyr o s
  | .gathc o => Sys2Proof.Machine.execGathc o s
  | .copyx o => Sys2Proof.Machine.execCopyx o s
  | .copyRetire core eng => Sys2Proof.Machine.execCopyRetire core eng s
  | .copyFailure core eng code => Sys2Proof.Machine.execCopyFailure core eng code s
  | .writePacket p => Sys2Proof.Machine.execWritePacket p s
  | .writePacketAck ack code core eng => Sys2Proof.Machine.execWritePacketAck ack code core eng s
  | .layer id => Sys2Proof.Machine.execLayer id s
  | .sysrd sd sel => Sys2Proof.Machine.execSysrd sd sel s
  | .pand pd pa pb => Sys2Proof.Machine.execPand pd pa pb s
  | .por pd pa pb => Sys2Proof.Machine.execPor pd pa pb s
  | .pxor pd pa pb => Sys2Proof.Machine.execPxor pd pa pb s
  | .pnot pd pa => Sys2Proof.Machine.execPnot pd pa s
  | .pset pd sa w => Sys2Proof.Machine.execPset pd sa w s
  | .shw eng n sa mask => Sys2Proof.Machine.execShw eng n sa mask s
  | .kShr sd eng n k => Sys2Proof.Machine.execKShr sd eng n k s
  | .ttw t sa mask => Sys2Proof.Machine.execTtw t sa mask s
  | .ttr sd t k => Sys2Proof.Machine.execTtr sd t k s
  | .binit sb n => Sys2Proof.Machine.execBinit sb n s
  | .bexpect sb n => Sys2Proof.Machine.execBexpect sb n s
  | .barrive sb n => Sys2Proof.Machine.execBarrive sb n s
  | .bwait sd sb st => Sys2Proof.Machine.execBwait sd sb st s
  | .btoken sd sb => Sys2Proof.Machine.execBtoken sd sb s
  | .barrierUpdate core id => Sys2Proof.Machine.execBarrierUpdate core id s
  | .barTimeout core => Sys2Proof.Machine.execBarTimeout core s
  | .fence before after => Sys2Proof.Machine.execFence before after s
  | .fencex p1 p2 => Sys2Proof.Machine.execFencex p1 p2 s
  | .clock sd => Sys2Proof.Machine.execClock sd s
  | .nmrun sp sb prog => Sys2Proof.Machine.execNmrun sp sb prog s
  | .nmRunStart run => Sys2Proof.Machine.execNmRunStart run s
  | .nmRunRetire run => Sys2Proof.Machine.execNmRunRetire run s
  | .coll sd sb comm => Sys2Proof.Machine.execColl sd sb comm s
  | .collStart core id peers => Sys2Proof.Machine.execCollStart core id peers s
  | .collRetire core id => Sys2Proof.Machine.execCollRetire core id s
  | .collTimeout core id => Sys2Proof.Machine.execCollTimeout core id s
  | .steprd sd sel => Sys2Proof.Machine.execSteprd sd sel s
  | .stepwr sel sa => Sys2Proof.Machine.execStepwr sel sa s
  | .curadv sd k sa => Sys2Proof.Machine.execCuradv sd k sa s
  | .seqnext sd c => Sys2Proof.Machine.execSeqnext sd c s
  | .losschk pd sa => Sys2Proof.Machine.execLosschk pd sa s
  | .pennon n veto => Sys2Proof.Machine.execPennon n veto s
  | .hrd hd sel => Sys2Proof.Machine.execHrd hd sel s
  | .hwr sel ha => Sys2Proof.Machine.execHwr sel ha s
  | .hpage hd ha op => Sys2Proof.Machine.execHpage hd ha op s
  | .hpageTimeout core => Sys2Proof.Machine.execHpageTimeout core s
  | .hfreeze ha => Sys2Proof.Machine.execHfreeze ha s
  | .trap n => Sys2Proof.Machine.execTrap n s
  | .nld qd stream => Sys2Proof.Machine.execNld qd stream s
  | .nst stream qa => Sys2Proof.Machine.execNst stream qa s
  | .nparam qd k => Sys2Proof.Machine.execNparam qd k s
  | .nadd o => Sys2Proof.Machine.execNadd o s
  | .nsub o => Sys2Proof.Machine.execNsub o s
  | .nmul o => Sys2Proof.Machine.execNmul o s
  | .nfma o => Sys2Proof.Machine.execNfma o s
  | .ndiv o => Sys2Proof.Machine.execNdiv o s
  | .nsqrt o => Sys2Proof.Machine.execNsqrt o s
  | .nrsq o => Sys2Proof.Machine.execNrsq o s
  | .nmax o => Sys2Proof.Machine.execNmax o s
  | .nmin o => Sys2Proof.Machine.execNmin o s
  | .nabs o => Sys2Proof.Machine.execNabs o s
  | .ncmp o cc => Sys2Proof.Machine.execNcmp o cc s
  | .nsel o => Sys2Proof.Machine.execNsel o s
  | .nclamp o => Sys2Proof.Machine.execNclamp o s
  | .ncvt kind qd qa => Sys2Proof.Machine.execNcvt kind qd qa s
  | .nloop target => Sys2Proof.Machine.execNloop target s
  | .illBundle target parcel => Sys2Proof.Machine.execIllBundle target parcel s
  | .illInstr slot word => Sys2Proof.Machine.execIllInstr slot word s
  | .taskStart launch node => Sys2Proof.Machine.execTaskStart launch node s
  | .taskRestore launch node => Sys2Proof.Machine.execTaskRestore launch node s
  | .safePoint launch node => Sys2Proof.Machine.execSafePoint launch node s
  | .taskSave launch node => Sys2Proof.Machine.execTaskSave launch node s
  | .taskRetire launch node => Sys2Proof.Machine.execTaskRetire launch node s
  | .killComplete launch node => Sys2Proof.Machine.execKillComplete launch node s
  | .pageMoveEnd ipa => Sys2Proof.Machine.execPageMoveEnd ipa s
  | .shootdownComplete index => Sys2Proof.Machine.execShootdownComplete index s
  | .hello f payload => Sys2Proof.Machine.execHello f payload s
  | .attest f challenge => Sys2Proof.Machine.execAttest f challenge s
  | .loadContainer f handle total offset data ipas => Sys2Proof.Machine.execLoadContainer f handle total offset data ipas s
  | .unloadContainer f handle => Sys2Proof.Machine.execUnloadContainer f handle s
  | .patch f handle index value => Sys2Proof.Machine.execPatch f handle index value s
  | .launch f handle graph => Sys2Proof.Machine.execLaunch f handle graph s
  | .stepOpen f o => Sys2Proof.Machine.execStepOpen f o s
  | .stepClose f attempt => Sys2Proof.Machine.execStepClose f attempt s
  | .stepStatus f attempt supplied verdict word => Sys2Proof.Machine.execStepStatus f attempt supplied verdict word s
  | .veto f attempt soft => Sys2Proof.Machine.execVeto f attempt soft s
  | .read f ipaSpace handle len addr => Sys2Proof.Machine.execRead f ipaSpace handle len addr s
  | .write f ipaSpace handle len addr data => Sys2Proof.Machine.execWrite f ipaSpace handle len addr data s
  | .pageMap f r => Sys2Proof.Machine.execPageMap f r s
  | .pageUnmap f r => Sys2Proof.Machine.execPageUnmap f r s
  | .pageSetType f r => Sys2Proof.Machine.execPageSetType f r s
  | .pageShootDown f r => Sys2Proof.Machine.execPageShootDown f r s
  | .pageDemote f r => Sys2Proof.Machine.execPageDemote f r s
  | .pagePromote f r => Sys2Proof.Machine.execPagePromote f r s
  | .kill f launch node => Sys2Proof.Machine.execKill f launch node s
  | .firmware f total offset data => Sys2Proof.Machine.execFirmware f total offset data s
  | .resetWork f force => Sys2Proof.Machine.execResetWork f force s
  | .resetModule f force => Sys2Proof.Machine.execResetModule f force s
  | .telemetry f mask period => Sys2Proof.Machine.execTelemetry f mask period s
  | .xfer f id offset len last data => Sys2Proof.Machine.execXfer f id offset len last data s
  | .schedSet f word => Sys2Proof.Machine.execSchedSet f word s
  | .carveSet f die ways => Sys2Proof.Machine.execCarveSet f die ways s
  | .tierSet f tier word => Sys2Proof.Machine.execTierSet f tier word s
  | .linkSet f link word => Sys2Proof.Machine.execLinkSet f link word s
  | .fabricSet f word pre => Sys2Proof.Machine.execFabricSet f word pre s
  | .commSet f c word => Sys2Proof.Machine.execCommSet f c word s
  | .halyardSet f word => Sys2Proof.Machine.execHalyardSet f word s
  | .powerSet f word => Sys2Proof.Machine.execPowerSet f word s
  | .margin f => Sys2Proof.Machine.execMargin f s
  | .remoteSetBind f handle rec dev ipa => Sys2Proof.Machine.execRemoteSetBind f handle rec dev ipa s
  | .remoteSetClear f handle t => Sys2Proof.Machine.execRemoteSetClear f handle t s
  | .boardSet f word => Sys2Proof.Machine.execBoardSet f word s
  | .icmpv6Echo data => Sys2Proof.Machine.execIcmpv6Echo data s
  | .neighbourDiscovery data => Sys2Proof.Machine.execNeighbourDiscovery data s
  | .moduleReset b => Sys2Proof.Machine.execModuleReset b s
  | .queuePromotion launch node => Sys2Proof.Machine.execQueuePromotion launch node s
  | .gangReservation launch node => Sys2Proof.Machine.execGangReservation launch node s
  | .escalationTimeout launch node => Sys2Proof.Machine.execEscalationTimeout launch node s
  | .halyardVote src m => Sys2Proof.Machine.execHalyardVote src m s
  | .halyardDecide src m => Sys2Proof.Machine.execHalyardDecide src m s
  | .inDoubt routeLost => Sys2Proof.Machine.execInDoubt routeLost s
  | .halyardQuery src m => Sys2Proof.Machine.execHalyardQuery src m s
  | .halyardAnswer src m => Sys2Proof.Machine.execHalyardAnswer src m s
  | .dataFlit link fl => Sys2Proof.Machine.execDataFlit link fl s
  | .idleFlit link fl => Sys2Proof.Machine.execIdleFlit link fl s
  | .nakFlit link fl => Sys2Proof.Machine.execNakFlit link fl s
  | .tagFlit link fl => Sys2Proof.Machine.execTagFlit link fl s
  | .trainingFlit link speed fl => Sys2Proof.Machine.execTrainingFlit link speed fl s
  | .replayTimeout link => Sys2Proof.Machine.execReplayTimeout link s
  | .tagGroupClose link vc => Sys2Proof.Machine.execTagGroupClose link vc s
  | .tagFailureLimit link vc => Sys2Proof.Machine.execTagFailureLimit link vc s
  | .laneFailure link lane => Sys2Proof.Machine.execLaneFailure link lane s
  | .linkPartnerAppears link => Sys2Proof.Machine.execLinkPartnerAppears link s
  | .trainingDisagreementLimit link => Sys2Proof.Machine.execTrainingDisagreementLimit link s
  | .linkPartnerTimeout link => Sys2Proof.Machine.execLinkPartnerTimeout link s
  | .scaleOutDatagram port dst src flits => Sys2Proof.Machine.execScaleOutDatagram port dst src flits s
  | .flowSilenceTimeout port dev => Sys2Proof.Machine.execFlowSilenceTimeout port dev s
  | .scrubberVisit block => Sys2Proof.Machine.execScrubberVisit block s
  | .tierDemotion tier die => Sys2Proof.Machine.execTierDemotion tier die s
  | .warmPromotion ipa => Sys2Proof.Machine.execWarmPromotion ipa s
  | .pageLost ipa => Sys2Proof.Machine.execPageLost ipa s
  | .demotionAbandoned transfer => Sys2Proof.Machine.execDemotionAbandoned transfer s
  | .powerManagerTick mw dieMw => Sys2Proof.Machine.execPowerManagerTick mw dieMw s
  | .thermalHold die milliC => Sys2Proof.Machine.execThermalHold die milliC s
  | .thermalRelease die milliC => Sys2Proof.Machine.execThermalRelease die milliC s
  | .thermalShutdown die milliC b => Sys2Proof.Machine.execThermalShutdown die milliC b s
  | .boardLimit cause reading => Sys2Proof.Machine.execBoardLimit cause reading s
  | .remoteReadRequest src ipa len step => Sys2Proof.Machine.execRemoteReadRequest src ipa len step s
  | .ret => Sys2Proof.Machine.execRet s
  | .endTask => Sys2Proof.Machine.execEndTask s
  | .stepend => Sys2Proof.Machine.execStepend s
  | .eret => Sys2Proof.Machine.execEret s
  | .nend => Sys2Proof.Machine.execNend s
  | .stepOpenCompletion => Sys2Proof.Machine.execStepOpenCompletion s
  | .packetDropped => Sys2Proof.Machine.execPacketDropped s
  | .eventRepeat => Sys2Proof.Machine.execEventRepeat s
  | .telemetryPush => Sys2Proof.Machine.execTelemetryPush s
  | .schedulerRound => Sys2Proof.Machine.execSchedulerRound s
  | .stepVote => Sys2Proof.Machine.execStepVote s
  | .rootSilenceTimeout => Sys2Proof.Machine.execRootSilenceTimeout s
  | .inDoubtQuery => Sys2Proof.Machine.execInDoubtQuery s
  | .warmDecay => Sys2Proof.Machine.execWarmDecay s
  | .boardLimitClear => Sys2Proof.Machine.execBoardLimitClear s
  | .marginReplan => Sys2Proof.Machine.execMarginReplan s
  | .attemptTableCommit => Sys2Proof.Machine.execAttemptTableCommit s

end Sys2Proof.Machine
end

