-- ==== Sys2Proof/Machine/Bundle.lean ====
section
/-! DEFINITION. One clock period of a core: issue (06 R105, R108), the loop's advance (05 R102), and the order in which
faults, late data, landings, checks and waits come (18 R351, 01 R21, 05 R88). -/

namespace Sys2Proof.Machine

/-- A syllable executes on each member of a list. -/
def issueOn (i : Instr) : List Nat → State → Host.Outcome State Fault Refusal
  | [], s => .next s
  | m :: r, s => match exec i { s with cur := m } with
    | .next t => issueOn i r t
    | .fault f => .fault f
    | .refused f => .refused f

/-- The syllables of a bundle execute in slot order, each on the members whose guard holds; those of control flow on
member 0 alone (05 R89, 06 R105, R108). -/
def issueAll (first : Nat) (on : List Nat) : List (Slot × Instr) → State → Host.Outcome State Fault Refusal
  | [], s => .next s
  | e :: r, s => match issueOn e.2 (if isFlow e.2 then on.filter (· == first) else on) s with
    | .next t => issueAll first on r t
    | .fault f => .fault f
    | .refused f => .refused f

/-- A bundle's steps: an empty bundle is NOP. -/
def issueBundle (first : Nat) (ms on : List Nat) (h : Header) (l : List (Slot × Instr)) (s : State) :
    Host.Outcome State Fault Refusal :=
  if l.isEmpty then issueOn (.nop h.sp h.le h.guard) (ms.take 1) s else issueAll first on l s

/-! The end of the cycle. -/

/-- The nest's advance (05 R102): pairs of index and count, innermost first; the carry that leaves it. -/
def nestBump : List (Nat × Nat) → List Nat × Bool
  | [] => ([], true)
  | (j, n) :: r =>
    if j + 1 = n then (let (l, c) := nestBump r; (0 :: l, c)) else ((j + 1) :: r.map (·.1), false)

/-- What LE does to one core (05 R102, 06 R126): indices, rotation, the stage predicate, and the next bundle. -/
def Core.loopAdvance (k : Core) (ord : Nat) : Core :=
  let d := k.loop.depth
  let (js, carry) := nestBump ((List.range d).map (fun n => ((Tab.get 0 k.j n).toNat, k.loop.count.getD n 1)))
  let j := ((List.range d).zip js).foldl (fun (t : Tab (BitVec 32)) e => Tab.set t e.1 (BitVec.ofNat 32 e.2)) k.j
  let vb := if k.loop.rot then (k.vrot + 511) % 512 else k.vrot
  let pb := if k.loop.rot then (k.prot + 15) % 16 else k.prot
  let k := { k with j := j, vrot := vb, prot := pb }
  if carry then { k with loop := LoopSt.none }
  else
    let stage : PReg := if js.headD 0 < k.loop.real0 then BitVec.allOnes 512 else 0
    let k := if k.loop.rot then k.post 1 ord (.pred (physP pb 16) (BitVec.allOnes 512) stage) else k
    { k with pc := k.loop.start, loop := { k.loop with whole := true } }

/-- The cycle of an issued bundle ends on one core: the next bundle (06 R124, 05 R86), the loop buffer (05 R101), the
loop's advance, and the counts: core cycles count up to the issue of END (06 R128). `d` says whether the bundle was a delay
bundle. -/
def Core.endCycle (k : Core) (d : Option (Option Word)) (was : Bool) (h : Header) (ps : List Nat) (ord : Nat) : Core :=
  let here := k.pc
  let (pc, target) : Word × Bool := match d with
    | some (some t) => (t, true)
    | _ => (here + BitVec.ofNat 64 h.bytes, false)
  let lp := k.loop
  let lp : LoopSt :=
    if was && lp.active then
      { lp with
        len := if lp.whole then lp.len else lp.len + 1,
        body := if (bufFind lp.body here).isSome then lp.body else lp.body ++ [⟨here, ps⟩] }
    else if d.isSome && !lp.active then LoopSt.none else lp
  let k := { k with pc := pc, isTarget := target, loop := lp }
  let k := if h.le && was && lp.active then k.loopAdvance ord else k
  { k with now := k.now + 1, ccCount := if k.ended then k.ccCount else k.ccCount + 1, waits := [] }

/-- The bundle's cycle ends on every member. -/
def State.endBundle (s : State) (ms : List Nat) (d : Option (Option Word)) (was : Bool) (h : Header) (ps : List Nat) : State :=
  { s.modCores (fun k => if k.killed then k else k.endCycle d was h ps s.seq) ms with seq := s.seq + 1 }

/-- A task whose first bundle has issued is running (04 R70). -/
def State.firstIssue (s : State) (c : Nat) : State :=
  match (s.core c).occ with
  | none => s
  | some o => match s.nodeSt o.launch o.node with
    | some n => if n.state == .placed then s.setNode o.launch o.node { n with state := .running, restored := false } else s
    | none => s

/-- The checks, waits and issue of the bundle due, for a gang out of the shadow context. `s` is the state before this
cycle's landings, `t` the state after them; a fault before issue leaves them undone (18 R351). -/
def bundleTurn (s t : State) (c : Nat) (ms : List Nat) : Host.Outcome State Fault Refusal :=
  let k := t.core c
  match t.ready c ms (t.safeReady c ms) with
  | .held cause ipa =>
    .next ((s.await (s.fetchIssuer c) .fetch ipa 4 cause).freezeGang c cause ms (fun m => if m = c then [cause] else []))
  | .fault m f => .next ((s.leave (.fetch c)).takeFault m f)
  | .run i => exec i { s with cur := c }
  | .safe =>
    (match k.occ with
     | some o => exec (.safePoint o.launch o.node) t
     | none => .next t)
  | .waits ws => .next ((s.leave (.fetch c)).freezeGang c ((firstCause (causesOf ws)).getD 0) ms (causesAt ws))
  | .issue h ps l on =>
    match issueBundle c ms on h l (((t.leave (.fetch c)).fetchMark c k.pc h.parcels).modCores (fun k => { k with delay := none }) ms) with
    | .next u => .next ((u.endBundle ms k.delay k.loop.active h ps).firstIssue c)
    | .fault f => .fault f
    | .refused f => .refused f

/-! The shadow context (18 R352 to R359). -/

/-- A change of a core's shadow context. -/
def Core.modShadow (k : Core) (f : Shadow → Shadow) : Core := { k with shadow := k.shadow.map f }

/-- The handler's cycle ends: its next bundle and its own cycle index. -/
def Core.endShadow (d : Option (Option Word)) (h : Header) (k : Core) : Core :=
  k.modShadow (fun x =>
    let (pc, target) : Word × Bool := match d with
      | some (some t) => (t, true)
      | _ => (x.pc + BitVec.ofNat 64 h.bytes, false)
    { x with pc := pc, isTarget := target, now := x.now + 1 })

/-- The bundle of the handler that is due. Any fault is SHADOW_DOUBLE (18 R354). -/
def shadowBundle (s : State) (m : Nat) (x : Shadow) : Host.Outcome State Fault Refusal :=
  match s.dueHeader m x.pc x.isTarget with
  | .held _ _ => .next s
  | .fault f => .next (s.takeFault m f)
  | .run i => exec i { s with cur := m }
  | .ok h ps0 => match s.dueRest m x.pc h h.parcels 1 ps0 with
    | .held _ _ => .next s
    | .fault f => .next (s.takeFault m f)
    | .run i => exec i { s with cur := m }
    | .ok h ps =>
      let k := s.core m
      let l := bundleSyls h ps
      if h.guard ≥ 4 then .next (s.takeFault m { code := fcIllInstr })
      else match firstIll k l with
      | some i => exec i { s with cur := m }
      | none => match placeFault { k with loop := LoopSt.none } x.delay.isSome l with
        | some f => .next (s.takeFault m f)
        | none =>
          let on := if k.cond h.guard then [m] else []
          match issueBundle m [m] on h l (s.modCore m (Core.modShadow · (fun x => { x with delay := none }))) with
          | .next u => .next (u.modCore m (Core.endShadow x.delay h))
          | .fault f => .fault f
          | .refused f => .refused f

/-- One clock period of a gang whose member is in the shadow context: a frozen cycle of the task (18 R352). An HPAGE
that waits ends when its page is present (18 R357). -/
def shadowTurn (s : State) (c m : Nat) (ms : List Nat) : Host.Outcome State Fault Refusal :=
  let cause := (firstCause (10 :: ms.flatMap s.lateNow)).getD 10
  let s := s.freezeGang c cause ms s.lateNow
  match (s.core m).shadow with
  | none => .next s
  | some x =>
    match x.wait with
    | some w =>
      if (s.walk w.ipa).isSome then
        .next (s.modCore m (Core.modShadow · (fun x => x.pageDone w 0)))
      else .next s
    | none =>
      let x := x.landDue
      shadowBundle (s.modCore m (Core.modShadow · (fun _ => x))) m x

/-! One clock period. -/

/-- The gang of a core advances by one clock period. A core without a running task, or one that has stopped, does
nothing. -/
def coreTurn (s : State) (c : Nat) : Host.Outcome State Fault Refusal :=
  if c > 255 then .fault (.noSuchCore c)
  else match (s.core c).occ with
    | none => .next s
    | some o =>
      let c := o.first
      let ms := s.gang c
      let s := ms.foldl (fun s m => s.sendHeld m) s
      let k := s.core c
      if !k.begun || k.stopped then .next (if k.fatal then s.freezeGang c 10 ms (fun _ => []) else s)
      else match ms.find? (fun m => (s.core m).shadow.isSome) with
        | some m => shadowTurn s c m ms
        | none =>
          let s := s.raiseMx ms
          match s.gangFault ms with
          | some (m, f) => .next ((s.modCore m (Core.dropFault · f)).takeFault m f)
          | none => match firstCause (ms.flatMap s.lateNow) with
            | some cause => .next (s.freezeGang c cause ms s.lateNow)
            | none =>
              let t := s.landAll ms
              if k.ended then .next (t.modCores (fun k => { k with now := k.now + 1, waits := [] }) ms)
              else bundleTurn s t c ms

/-- A parcel of the bundle due has not come (05 R85): one frozen period under translation miss while a walk for one of its pages is
under way (13 R254), which then ends, else under late data. A walk that finds no page is one too. How many such periods a fetch
takes is not architectural (01 R409). -/
def State.lateFetch (s : State) (c : Nat) : State :=
  match s.beforeIssue c with
  | none => s
  | some (first, t) =>
    let l := t.fetchIpas first
    let frozen (s : State) (cause : Nat) : State := s.freezeGang first cause (s.gang first) (fun _ => [])
    match l.find? (fun ipa => !s.cachedLeaf ipa), l with
    | some ipa, _ => (match t.pageChk (t.fetchIssuer first) .fetch ipa with
      | .ok _ => frozen (s.atHome ipa false true) 1
      | .fail _ => frozen s 1
      | .held _ => s)
    | none, ipa :: _ => (match t.pageChk (t.fetchIssuer first) .fetch ipa with
      | .held _ => s
      | .ok _ => frozen (s.atHome ipa false true) 0
      | .fail _ => frozen s 0)
    | none, [] => s

end Sys2Proof.Machine
end

