-- ==== Sys2Proof/Machine/Auto.lean ====
section
/-! DEFINITION. What moves when nothing is named (log 1), and how a turn runs. -/

namespace Sys2Proof.Machine

/-! The machine's own choice: the first enabled work of this list, else the next core. -/

/-- The outcome's state, when a meaning has changed what a test looks at. -/
def changed {α : Type} [DecidableEq α] (f : State → α) (s t : State) : Option State := if f t = f s then none else some t

/-- What accesses have asked of the memory side: moves between tiers (13 R266), and their places among those that wait. -/
def State.asked (s : State) : Nat × List Nat × List Nat × List MemWait := (s.nextTransfer, Tab.keys s.moves, Tab.keys s.wants, s.waiting)

/-- The first element that may perform, or that asks for its page, of the oldest access of a core. -/
def State.autoAccess (s : State) (c : Nat) : Option State :=
  ((s.core c).land.filter (fun a => a.open && a.fault.isNone)).findSome? (fun a =>
    a.elems.findSome? (fun e =>
      if e.done then none
      else match s.tryUnit c a e with
        | (.wait _, _, _) => changed State.asked s (s.performElem c a.id e.idx)
        | _ => some ((s.performElem c a.id e.idx).releaseDone c a.id)))

/-- A queued update of a barrier that may apply. -/
def State.autoBar (s : State) (c : Nat) : Option State :=
  ((s.core c).barq.find? (fun o => s.barReady c o)).map (fun o => s.barStep c o.id)

/-- A copy engine's pieces and retirements. -/
def State.autoEngine (s : State) (c : Nat) (e : Eng) : Option State :=
  if ((s.core c).engine e).queue.isEmpty then none
  else changed (fun t => ((t.core c).engine e, t.asked)) s ((s.runCopy c e).retireCopies c e)

/-- Whether a core's collectives, or what they ask of memory, have changed. -/
def State.collMoved (s t : State) (c : Nat) : Bool :=
  (t.core c).colls != (s.core c).colls || t.gathers != s.gathers || t.asked != s.asked

/-- The start and the end of a core's runs and collectives. -/
def State.autoRuns (s : State) (c : Nat) : Option State :=
  let k := s.core c
  match k.nmRuns.findSome? (fun n =>
      match changed (fun t => (t.run n, t.asked)) s (nextOr s (execNmRunStart n s)) with
      | some t => some t
      | none => changed (fun t => (t.run n, t.asked)) s (nextOr s (execNmRunRetire n s))) with
  | some t => some t
  | none => k.colls.findSome? (fun x =>
      let t := nextOr s (execCollStart c x.id [] s)
      let u := nextOr s (execCollRetire c x.id s)
      if s.collMoved t c then some t else if s.collMoved u c then some u else none)

/-- What a core has to do before its next bundle. -/
def State.autoCore (s : State) (c : Nat) : Option State :=
  match s.autoAccess c with
  | some t => some t
  | none => match s.autoBar c with
    | some t => some t
    | none => match s.autoEngine c .a with
      | some t => some t
      | none => match s.autoEngine c .b with
        | some t => some t
        | none => s.autoRuns c

/-- A near-memory unit takes the runs that reach it (16 R322) and executes its next microinstruction. -/
def State.unitTurn (s : State) (u : Nat) : Host.Outcome State Fault Refusal :=
  let s := s.reachAll u
  match s.nextMicro u with
  | some i => exec i { s with curUnit := u }
  | none => .next s

/-- Units that hold a run or that a run has still to reach. -/
def State.busyUnits (s : State) : List Nat := (Tab.keys s.units ++ s.runs.flatMap (fun e => e.2.reach)).eraseDups

/-- A unit that can go on. -/
def State.autoUnit (s : State) : Option State :=
  s.busyUnits.findSome? (fun u => changed (fun t => (t.unit u, t.asked)) s (nextOr s (s.unitTurn u)))

/-- What the device itself has to do: a module reset or a work reset that waits, its vote, its verdict, the requests of the
host that wait, and those of other devices. -/
def State.autoDevice (s : State) : Option State :=
  match s.ctl with
  | some (.resetModule _) => some (s.boot s.sameBoot)
  | some (.resetWork _) => if s.launches.isEmpty then some s.finishReset else none
  | some (.shootHeld _ _) => changed (fun t => t.ctl) s s.finishShoot
  | none => if s.ctlQueue.isEmpty then none else some s.nextCmd
  | _ => none

/-- The core after another one, among those that have state. -/
def State.nextCore (s : State) (c : Nat) : Nat :=
  let l := Tab.keys s.cores
  match l.find? (fun x => x > c) with
  | some x => x
  | none => l.headD 0

/-- A task that has been placed starts or resumes. -/
def State.autoTasks (s : State) : State :=
  (s.nodesIn (fun n => n.state == .placed)).foldl (fun s x =>
    nextOr s (if x.st.restored then execTaskRestore x.launch x.node s else execTaskStart x.launch x.node s)) s

/-- What the memory side has in hand: moves between tiers 0 and 1, shootdowns, and the scrubber's pass for a STEP-OPEN. -/
def State.autoMemory (s : State) : State :=
  let s := (Tab.keys s.moves).foldl (fun s p => nextOr s (execPageMoveEnd (p * 65536) s)) s
  let s := nextOr s (execShootdownComplete 0 s)
  match s.openWait with
  | some w => nextOr s (execStepOpenCompletion (w.todo.foldl (fun s b => nextOr s (execScrubberVisit b s)) s))
  | none => s

/-- One round of the schedulers each time that every core has moved, with the waits that it may end. -/
def State.autoRound (s : State) : State :=
  let s := s.autoMemory
  let s := (nextOr s (execSchedulerRound s)).autoTasks
  let s := s.launches.foldl (fun s l => (Tab.keys l.2.nodes).foldl (fun s n => nextOr s (execKillComplete l.1 n s)) s) s
  let s := (List.range s.remote.length).reverse.foldl (fun s n => s.retryRemote n false) s.retryCmds
  nextOr s (execAttemptTableCommit s.vote)

/-- The machine's own choice. -/
def autoTurn (s : State) : Host.Outcome State Fault Refusal :=
  match s.autoDevice with
  | some t => .next t
  | none => match s.autoCore s.cur with
    | some t => .next t
    | none => match s.autoUnit with
      | some t => .next t
      | none =>
        match coreTurn s s.cur with
        | .next t =>
          let c := t.nextCore s.cur
          .next (if c ≤ s.cur then { t.autoRound with cur := c } else { t with cur := c })
        | .fault f => .fault f
        | .refused r => .refused r

/-! Turns. -/

/-- A sensor is read (21 R401): the path-delay margin of die 0 to 3, or the supply current. -/
def State.sensor (s : State) (n value : Nat) : State :=
  { s with readings := if n < 4 then { s.readings with margin := Tab.set s.readings.margin n value } else { s.readings with current := value } }


/-- A partner stops or frees a virtual channel of a link (17 R334). -/
def State.signal (s : State) (key vc : Nat) (stop : Bool) : State :=
  let l := s.link key
  let rest := l.stopped.filter (· != vc)
  (s.setLink key { l with stopped := if stop then vc :: rest else rest }).pump key

/-- Link-queue credits come back to a core (11 R226): never above 512. -/
def State.addCredit (s : State) (core q n : Nat) : State :=
  if (s.link q).state == .active then
    s.modCore core (fun k => { k with credits := Tab.set k.credits q (min 512 (Tab.get 512 k.credits q + n)) })
  else s

/-- This end stops or frees a virtual channel of a link (17 R332; log 45). -/
def State.stopGo (s : State) (key vc : Nat) (stop : Bool) : State :=
  let l := s.link key
  if vc > 6 || l.state != .active || l.holding.contains vc == stop then s
  else
    { s.setLink key { l with holding := if stop then vc :: l.holding else l.holding.filter (· != vc) } with
      out := s.out ++ [.signal key vc stop] }

/-- Wall time passes, and every acknowledgement that is still to be sent leaves (17 R328). -/
def State.pass (s : State) (ns : Nat) : State := { s with time := s.time + ns }.idleAcks

/-- A cache or a line buffer gives up a sector; an L2 none that holds bytes not written back (13 R245). -/
def State.loseSector (s : State) (holder sector : Nat) : State :=
  let dirty (c : Cached) : Bool := (Tab.get ([] : Tab Byte) s.l2 c.holder).any (fun e => e.1 / 32 = s.cachedPa c / 32)
  { s with cached := s.cached.filter (fun c => !(c.holder == holder && c.sector == sector) || dirty c) }

/-- One turn. -/
def runTurn (s : State) : Turn → Host.Outcome State Fault Refusal
  | .event i => exec i s
  | .core c => coreTurn { s with cur := c } c
  | .unit u => s.unitTurn u
  | .wait ns => .next (s.pass ns)
  | .evict die line => .next (s.writeBack die (line * 128) 128)
  | .signal link vc stop => .next (s.signal link vc stop)
  | .credit core q n => .next (s.addCredit core q n)
  | .request core eng n u => .next (s.reqTurn core eng n u none)
  | .part core eng n u side off => .next (s.reqTurn core eng n u (some (side, off)))
  | .remoteData core eng n k code data => .next (s.copyData core eng n k code data)
  | .reduce r => .next (s.takeRemote (.reduce r))
  | .reduceReply src ipa code core eng ovf origin => .next (s.takeReduceReply src ipa code core eng ovf origin)
  | .remote n one => .next (s.retryRemote n one)
  | .late core => .next (s.lateFetch core)
  | .keep core ipa buffer =>
    .next (s.keepSector ((s.core core).issuer core (s.core core).isStep .core (.fetch core)) (if buffer then core + 4 else dieOf core) ipa)
  | .lose holder sector => .next (s.loseSector holder sector)
  | .spill die line => .next { s with llc := Tab.set s.llc die ((Tab.get [] s.llc die).filter (fun e => e.1 != line)) }
  | .half core id unit => .next (s.halfElem core id unit)
  | .row u off => .next (s.rowTurn u off)
  | .reach run u => .next (s.reachUnit run u)
  | .gather core id => .next (s.collTurn core id)
  | .command n => .next (s.cmdTurn n true)
  | .idle link => .next (s.sendIdle link)
  | .train link speed => .next (s.sendTraining link speed)
  | .stopGo link vc stop => .next (s.stopGo link vc stop)
  | .packet bytes => s.readPacket bytes
  | .sensor n v => .next (s.sensor n v)

/-- The bundle word of withFetchWord at the first address of core 0's code: its code page is IPA page 1, mapped at
virtual page 1 (log 21). -/
def State.placeCode (s : State) (nbits w : Nat) : State :=
  let leaf : Leaf := { e := BitVec.ofNat 128 (2 ^ 0 + 2 ^ 7 + 2 ^ 9), va := 65536 }
  let rg : BitVec 256 := BitVec.ofNat 256 (2 ^ 16 + 2 * 2 ^ 80 + 2 ^ 144 + 2 ^ 192 + 2 ^ 193 + 2 ^ 195)
  let occ : Occ := { launch := 0, node := 0, member := 0, gang := 1, first := 0, step := false, terminal := false, handle := 0 }
  let s := s.dropDirty (frameAddr 0 0 0) 64
  let s := { s with bigLeaves := s.bigLeaves.filter (fun e => e.1 % 2 ^ 31 != 0) }.putLeaf false 1 leaf
  let s := { s with
    frames := Tab.set s.frames 0 ⟨0, 1⟩, shoots := [], cached := [], waiting := [],
    mem0 := s.mem0.writes (frameAddr 0 0 0) (leBytes 64 (w % 2 ^ nbits)) }
  s.modCore 0 (fun k => { k with
    rg := [(0, rg)], occ := some occ, begun := true, ended := false, stopped := false, killed := false, fatal := false, shadow := none,
    trap := none, faults := [], land := [], lqHeld := [], mx := [], nmRuns := [], colls := [], loop := LoopSt.none, delay := none,
    pc := 65536, isTarget := false })

end Sys2Proof.Machine
end

