-- ==== Sys2Proof/Machine/Step.lean ====
section
/-! DEFINITION. One step of the machine, and the placing of a word where the next step fetches. -/

namespace Sys2Proof.Machine

/-- The turn that State names moves; when it names none, the machine chooses (log 1). -/
def step (s : State) : Host.Outcome State Fault Refusal :=
  match s.turns with
  | [] => autoTurn s
  | t :: r => runTurn { s with turns := r } t

/-- The state with an instruction's word where core 0 fetches next, in a running task of core 0, and core 0 next to
move (log 21). -/
def State.withFetchWord (s : State) (nbits w : Nat) : State :=
  { s.placeCode nbits w with turns := [.core 0] }

end Sys2Proof.Machine
end

