-- ==== Sys2Proof/Safety.lean ====
section
/-! DEFINITION. What a sound state is, and the terms in which statements say that a syllable issues and what its results
are. -/

namespace Sys2Proof.Machine

/-! Sound states. -/

/-- Every byte memory of a core, and of its save slots, is in canonical form. -/
def Core.memOk (k : Core) : Bool :=
  k.sp.wf && k.ls.wf && k.ds.wf && k.slots.all (fun e => e.2.sp.wf && e.2.ls.wf && e.2.ds.wf)

/-- Every byte memory of the device is in canonical form (log 4). -/
def State.memOk (s : State) : Bool := s.mem0.wf && s.mem1.wf && s.cores.all (fun e => e.2.memOk)

/-- The scalar register s0 of a core is never written (06 R112). -/
def Core.zeroOk (k : Core) : Bool := (Tab.find k.s 0).isNone

/-! Issue. -/

/-- A syllable issues on the core that executes: the core exists (00 R3), the syllable is legal in the core's context
(05 R99, 18 R354, 20 R379), its operand checks pass (05 R88, step 9), and it waits for nothing (01 R23). -/
def State.issues (s : State) (sl : Slot) (i : Instr) : Prop :=
  s.cur ≤ 255 ∧ ctxBad s.me i = false ∧ s.operandFault s.cur sl i = none ∧ s.waitCause s.cur (entriesOf s.me i) i = none

/-- The state after a syllable: its effect, and the next issue number. -/
def State.issued (s : State) : State := { s with seq := s.seq + 1 }

/-- A syllable that issues answers the next state whose effect is `t`. -/
def State.gives (s : State) (sl : Slot) (i : Instr) (t : State) : Prop := s.issues sl i → exec i s = .next t.issued

/-- A syllable that issues answers a next state of which `P` holds. -/
def State.yields (s : State) (sl : Slot) (i : Instr) (P : State → Prop) : Prop :=
  s.issues sl i → ∃ t, exec i s = .next t ∧ P t

/-- t is s but for its cores and the issue number, which has advanced: core c has become `f c`. -/
def State.onlyCores (s t : State) (f : Nat → Core) : Prop :=
  t = { s with cores := t.cores, seq := s.seq + 1 } ∧ ∀ c, t.core c = f c

/-- The same, where only the core that executes has changed, into `k`. -/
def State.onlyMe (s t : State) (k : Core) : Prop := s.onlyCores t (fun c => if c = s.cur then k else s.core c)

/-- The same, where the members of the gang have changed, each by `f`. -/
def State.onlyGang (s t : State) (f : Core → Core) : Prop :=
  s.onlyCores t (fun c => if c ∈ s.gang s.cur then f (s.core c) else s.core c)

/-! Results. -/

/-- The register that a vector result leaves over an old value (08 R156). -/
def landedV (mask : PReg) (v old : VReg) : VReg := mergeBits old (byteMask mask) v

/-- What a vector result does to its register when it lands (08 R154, R156): over any old value, element e becomes
`val e` modulo 2^W where the instruction writes it and the governing predicate admits it; any other becomes 0 under
zeroing and else keeps its value. -/
def VecEffect (k : Core) (w vd pg : Nat) (z : Bool) (only : Nat → Bool) (val : Nat → Nat) (e : Eff) : Prop :=
  ∃ mask v, e = .vector (physV k.vrot vd) mask v ∧
    ∀ (old : VReg) (n : Nat), n < 512 / w →
      lane w (landedV mask v old) n =
        if only n && activeAt (k.pr pg) w n then val n % 2 ^ (8 * w) else if z then 0 else lane w old n

/-- What a predicate result of a vector compare does to its register (08 R165): the bits of an active element take the
outcome, those of any other become 0 under zeroing and else keep their values. -/
def PredEffect (k : Core) (w pd pg : Nat) (z : Bool) (val : Nat → Bool) (e : Eff) : Prop :=
  ∃ mask v, e = .pred (physP k.prot pd) mask v ∧
    ∀ (old : PReg) (i : Nat), i < 512 →
      (mergeBits old mask v).getLsbD i =
        if activeAt (k.pr pg) w (i / w) then val (i / w) else if z then false else old.getLsbD i

/-- Element n of a vector register as its element type reads it (08 R160). -/
def Core.elInt (k : Core) (ty : ETy) (r n : Nat) : Int := intVal ty.isSigned (8 * ty.width) (lane ty.width (k.vr r) n)

/-- The second source of an integer instruction, read the same way: an immediate is cut to the element (08 R159). -/
def Core.srcInt (k : Core) (ty : ETy) (b : VSrc) (n : Nat) : Int :=
  match b with
  | .reg r => k.elInt ty r n
  | .imm x => intVal ty.isSigned (8 * ty.width) (intPat (8 * ty.width) x)

/-- The syllable puts in flight, for issue + lat, a vector result whose element n is `val n` (08 R156). -/
def State.givesV (s : State) (lat : Nat) (ty : ETy) (vd pg : Nat) (z : Bool) (val : Nat → Nat) (i : Instr) : Prop :=
  ∃ e, VecEffect s.me ty.width vd pg z (fun _ => true) val e ∧ s.gives .va i (s.post lat e)

/-- The same for floating results, with OVF in flight when an active element overflows (07 R146). -/
def State.givesF (s : State) (lat : Nat) (ty : ETy) (vd pg : Nat) (z : Bool) (val : Nat → FRes) (i : Instr) : Prop :=
  ∃ e, VecEffect s.me ty.width vd pg z (fun _ => true) (fun n => (val n).code) e ∧
    s.gives .va i ((s.post lat e).postOvf lat
      ((List.range (512 / ty.width)).any (fun n => activeAt (s.me.pr pg) ty.width n && (val n).ovf)))

/-- The syllable puts in flight, for issue + lat, a predicate whose element n is `val n` (08 R165). -/
def State.givesP (s : State) (lat : Nat) (ty : ETy) (pd pg : Nat) (z : Bool) (val : Nat → Bool) (i : Instr) : Prop :=
  ∃ e, PredEffect s.me ty.width pd pg z val e ∧ s.gives .va i (s.post lat e)

/-- Node i of level l of the reduction tree (09 R182). -/
def treeNode {α : Type} (op : α → α → α) (leaf : Nat → Option α) : Nat → Nat → Option α
  | 0, i => leaf i
  | l + 1, i =>
    match treeNode op leaf l (2 * i), treeNode op leaf l (2 * i + 1) with
    | none, y => y
    | x, none => x
    | some x, some y => some (op x y)

/-! Accesses. -/

/-- A near access counts its words for its slot (11 R213). -/
def State.counted (s : State) (slot lv : Nat) (ws : List Nat) : State :=
  if lv = 0 then s.modMe (fun k => k.countWords slot ws) else s

/-- The latency of an access at level 0 or 1 that touches some distinct words (11 R212, R214): at level 0, 12 cycles and
16 more for each word after the first in the bank that holds most of them. -/
def nearLatency (lv : Nat) (ws : List Nat) : Nat :=
  if lv = 0 then 12 + 16 * (((List.range 127).map (fun b => ws.countP (fun x => x % 127 == b))).foldl max 1 - 1) else 6

/-- The syllable takes an entry of the landing buffer (11 R221, R222, R225) for the elements `act`, of w bytes at
`addr`; none has performed. A global element has the IPA that translation gives. -/
def State.givesEntry (s : State) (sl : Slot) (i : Instr) (kind : AccKind) (kd : AKind) (lv w : Nat) (act : List Nat)
    (addr : Nat → Word) (data : Nat → List Byte) (dest : Dest) (dist : Option Nat) : Prop :=
  ∃ x : Access, s.gives sl i (s.modMe (fun k => { k with land := k.land ++ [x] })) ∧
    (x.id, x.kind, x.slot, x.level, x.step) = (s.seq, kind, slotNo sl, lv, s.me.isStep) ∧
    (x.dest, x.landAt, x.since, x.fault) = (dest, dist.map (fun d => s.me.now + d), s.time, none) ∧
    x.walk = (lv == 4 && x.elems.any (fun e => !(s.cachedLeaf e.loc))) ∧
    x.elems.map (fun e => (e.idx, e.va, e.n, e.data, e.got, e.done)) = act.map (fun n => (n, addr n, w, data n, [], false)) ∧
    ∀ e ∈ x.elems, if lv = 4 then ∃ g, translate s.deviceId s.me.rg e.va kd false = .ok (g, e.loc)
      else e.loc = e.va.toNat % 2 ^ 56

/-- A load of the elements `act`, w bytes each at `addr` (11 R212, R214, R217, R221, R223). Near ones land what the core
sees at issue, and their bytes are kept until they land; `lands` says what an element's value does to the register. -/
def State.givesLoad (s : State) (i : Instr) (w dist : Nat) (lanes : Bool) (act : List Nat) (addr : Nat → Word) (dest : Dest)
    (lands : (Nat → Nat) → Eff → Prop) : Prop :=
  let place (n : Nat) : Nat := if lanes then n * 4096 + (addr n).toNat else (addr n).toNat % 2 ^ 56
  let ws := wordsOf (act.map (fun n => (place n, w)))
  (act = [] → s.gives .ld i s) ∧
  ∀ n lv, n ∈ act → (if lanes then some 1 else levelOf (addr n)) = some lv →
    if lv ≤ 1 then
      ∃ e, lands (fun n => ofLe (((s.me.view lv s.seq)).reads (place n) w)) e ∧
        s.gives .ld i (((s.post (nearLatency lv ws) e).modMe (fun k => { k with
          peeks := k.peeks ++ [⟨k.now + nearLatency lv ws, s.seq, lv, dest,
            act.map (fun n => (n, place n, (s.me.view lv s.seq).reads (place n) w))⟩] })).counted 4 lv ws)
    else
      s.givesEntry .ld i .load .read lv w act addr (fun _ => []) dest
        (some (if dist = 0 then (if lv = 2 then 40 else if lv = 3 then 80 else 160) else dist))

/-- A store of the elements `act`, whose byte b of element n is `byte n b` (11 R212, R214, R222, R223). -/
def State.givesStore (s : State) (i : Instr) (w : Nat) (lanes : Bool) (act : List Nat) (addr : Nat → Word)
    (byte : Nat → Nat → Byte) : Prop :=
  let place (n : Nat) : Nat := if lanes then n * 4096 + (addr n).toNat else (addr n).toNat % 2 ^ 56
  let ws := wordsOf (act.map (fun n => (place n, w)))
  (act = [] → s.gives .st i s) ∧
  ∀ n lv, n ∈ act → (if lanes then some 1 else levelOf (addr n)) = some lv →
    if lv ≤ 1 then
      s.gives .st i ((s.post (nearLatency lv ws)
        (.bytes lv (act.flatMap (fun n => (List.range w).map (fun b => (place n + b, byte n b)))))).counted 5 lv ws)
    else
      s.givesEntry .st i .store .write lv w act addr (fun n => (List.range w).map (byte n)) .none none

/-! Frames of the host. -/

/-- The open session z takes the frame: it is authentic and well formed, its number is new and in the window, the session
is attested, and no reply to its request is kept (03 R54 to R58). -/
def State.admits (s : State) (h : FrameHead) (z : Session) : Prop :=
  s.session = some z ∧ (h.tagOk = true ∧ h.headOk = true ∧ h.payloadOk = true) ∧ z.id = h.session ∧
    h.seq ∉ z.seen ∧ z.highest < h.seq + 64 ∧ z.attested = true ∧ ∀ e ∈ z.replies, e.1 ≠ h.reqId

/-- The state with the session after it has taken the frame (03 R54, R62). -/
def State.took (s : State) (h : FrameHead) (z : Session) : State :=
  let hi := max z.highest h.seq
  { s with
    session := some { z with
      highest := hi, seen := (h.seq :: z.seen).filter (fun n => n + 64 > hi), lastAt := s.time,
      unacked := z.unacked.filter (fun e => e.num > h.ack) } }

/-- The state after the session has taken a frame whose reply is kept: that reply leaves under the session's next sequence number
(03 R54, R55). -/
def State.sentAgain (s : State) (h : FrameHead) (z : Session) (o : Out) : State :=
  { s.took h z with
    out := s.out ++ [o.renumber (z.txSeq + 1)],
    session := (s.took h z).session.map (fun y => { y with txSeq := z.txSeq + 1 }) }

end Sys2Proof.Machine
end

