-- ==== Sys2Proof/Certificates/Slice0/Obligations.lean ====
section
/-! DEFINITION. The statements about the machine. -/

open Sys2Proof Sys2Proof.Machine

/-! The S slot. -/

/-- 06 R115, R110: the register-form integer instructions. Where one issues, its only effect is the result that it puts
in flight for sd, at its latency; division by zero gives all ones and the dividend, and −2^63 by −1 gives −2^63 and 0.
06 R116, R117, R110: the immediate forms give the results of the register forms with the immediate in place of the
second operand; LI writes its immediate, and LIH the old value times 2^18 plus its immediate, cut to 64 bits. -/
def Obligations.ScalarIntegerResults : Prop :=
  (∀ (s : State) (sd sa sb : Nat),
     let a := s.me.sc sa
     let b := s.me.sc sb
     let res (lat : Nat) (v : Word) (i : Instr) : Prop := s.gives .s i (s.post lat (.scalar sd v))
     res 1 (a + b) (.add sd sa sb) ∧
     res 1 (a - b) (.sub sd sa sb) ∧
     res 3 (a * b) (.mul sd sa sb) ∧
     res 3 ((a.signExtend 128 * b.signExtend 128).extractLsb' 64 64) (.mulh sd sa sb) ∧
     res 3 ((a.setWidth 128 * b.setWidth 128).extractLsb' 64 64) (.mulhu sd sa sb) ∧
     res 34 (if b = 0 then BitVec.allOnes 64 else a.sdiv b) (.div sd sa sb) ∧
     res 34 (if b = 0 then BitVec.allOnes 64 else a / b) (.divu sd sa sb) ∧
     res 34 (if b = 0 then a else a.srem b) (.rem sd sa sb) ∧
     res 34 (if b = 0 then a else a % b) (.remu sd sa sb) ∧
     res 1 (a &&& b) (.and sd sa sb) ∧
     res 1 (a ||| b) (.or sd sa sb) ∧
     res 1 (a ^^^ b) (.xor sd sa sb) ∧
     res 1 (a <<< (b.setWidth 6)) (.shl sd sa sb) ∧
     res 1 (a >>> (b.setWidth 6)) (.shr sd sa sb) ∧
     res 1 (a.sshiftRight' (b.setWidth 6)) (.sar sd sa sb) ∧
     res 1 (if a.slt b then a else b) (.min sd sa sb) ∧
     res 1 (if a.slt b then b else a) (.max sd sa sb) ∧
     res 1 (if a < b then a else b) (.minu sd sa sb) ∧
     res 1 (if a < b then b else a) (.maxu sd sa sb) ∧
     res 1 (BitVec.ofNat 64 (64 - (if a = 0 then 0 else Nat.log2 a.toNat + 1))) (.clz sd sa) ∧
     res 1 (BitVec.ofNat 64 ((List.range 64).filter a.getLsbD).length) (.popc sd sa)) ∧
  (∀ (s : State) (sd sa : Nat) (imm : Int) (count : Nat), count < 64 →
     let a := s.me.sc sa
     let k := BitVec.ofInt 64 imm
     let res (v : Word) (i : Instr) : Prop := s.gives .s i (s.post 1 (.scalar sd v))
     res (a + k) (.addi sd sa imm) ∧
     res (a &&& k) (.andi sd sa imm) ∧
     res (a ||| k) (.ori sd sa imm) ∧
     res (a ^^^ k) (.xori sd sa imm) ∧
     res (BitVec.ofNat 64 (a.toNat * 2 ^ count)) (.shli sd sa count) ∧
     res (BitVec.ofNat 64 (a.toNat / 2 ^ count)) (.shri sd sa count) ∧
     res (BitVec.ofInt 64 (a.toInt / 2 ^ count)) (.sari sd sa count) ∧
     res k (.li sd imm) ∧
     ∀ n : Nat, res (BitVec.ofNat 64 ((s.me.sc sd).toNat * 2 ^ 18 + n)) (.lih sd n))

/-- 06 R118, R119: a compare puts all ones or all zeros in flight for the whole of pd; SEL chooses by bit 0 of pn; MOVJ
and MOVP read a loop index and the low 64 bits of a predicate. -/
def Obligations.ScalarComparesAndMoves : Prop :=
  ∀ (s : State) (cc : Cond) (pd sd sa sb n : Nat) (imm : Int),
    let holds (a b : Word) : Bool := match cc with
      | .eq => a == b
      | .ne => a != b
      | .lt => a.slt b
      | .ge => !a.slt b
      | .ltu => a.ult b
      | .geu => !a.ult b
      | .le => a.sle b
      | .gt => !a.sle b
      | .leu => a.ule b
      | .gtu => !a.ule b
      | .un | .ord => false
    let all (b : Bool) : PReg := if b then BitVec.allOnes 512 else 0
    s.gives .s (.cmpCc cc pd sa sb) (s.postPred 1 pd (all (holds (s.me.sc sa) (s.me.sc sb)))) ∧
    s.gives .s (.cmpiCc cc pd sa imm) (s.postPred 1 pd (all (holds (s.me.sc sa) (BitVec.ofInt 64 imm)))) ∧
    s.gives .s (.sel sd sa sb n) (s.post 1 (.scalar sd (if (s.me.pr n).getLsbD 0 then s.me.sc sa else s.me.sc sb))) ∧
    s.gives .s (.movj sd n) (s.post 1 (.scalar sd (BitVec.ofNat 64 (Tab.get 0 s.me.j n).toNat))) ∧
    s.gives .s (.movp sd n) (s.post 1 (.scalar sd ((s.me.pr n).extractLsb' 0 64)))

/-! The VA and VB slots. -/

/-- 08 R160, R157: the integer instructions with two sources, element by element as the element type reads them, modulo
2^W. A count at or above W shifts everything out; VAVG rounds up; VADDS and VSUBS clamp to the type's range.
08 R160, R163, R164, R168; 09 R180: the unary instructions on one vector register. VABS leaves the most negative
value; VFABS and VFNEG touch the sign alone and quiet a NaN; VFCLASS sets the bit of the class; VNANPAY and VNANMK read
and build the fields of a NaN; VMOV copies. -/
def Obligations.VectorIntegerResults : Prop :=
  (∀ (s : State) (o : VBin),
     let w := 8 * o.ty.width
     let a := s.me.elInt o.ty o.va
     let b := s.me.srcInt o.ty o.b
     let c := s.me.elInt o.ty o.vd
     let pat (x : Int) : BitVec w := BitVec.ofInt w x
     let lo : Int := if o.ty.isSigned then -2 ^ (w - 1) else 0
     let hi : Int := if o.ty.isSigned then 2 ^ (w - 1) - 1 else 2 ^ w - 1
     let res (val : Nat → Int) (i : Instr) : Prop := s.givesV 2 o.ty o.vd o.pg o.z (fun n => (pat (val n)).toNat) i
     res (fun n => a n + b n) (.vadd o) ∧
     res (fun n => a n - b n) (.vsub o) ∧
     res (fun n => a n * b n) (.vmul o) ∧
     res (fun n => a n * b n / 2 ^ w) (.vmulh o) ∧
     res (fun n => c n + a n * b n) (.vmac o) ∧
     res (fun n => min (a n) (b n)) (.vmin o) ∧
     res (fun n => max (a n) (b n)) (.vmax o) ∧
     res (fun n => (pat (a n) &&& pat (b n)).toInt) (.vand o) ∧
     res (fun n => (pat (a n) ||| pat (b n)).toInt) (.vor o) ∧
     res (fun n => (pat (a n) ^^^ pat (b n)).toInt) (.vxor o) ∧
     res (fun n => (pat (a n) <<< pat (b n)).toInt) (.vshl o) ∧
     res (fun n => (pat (a n) >>> pat (b n)).toInt) (.vshr o) ∧
     res (fun n => a n / 2 ^ (pat (b n)).toNat) (.vsar o) ∧
     res (fun n => max lo (min hi (a n + b n))) (.vadds o) ∧
     res (fun n => max lo (min hi (a n - b n))) (.vsubs o) ∧
     res (fun n => (a n + b n + 1) / 2) (.vavg o)) ∧
  (∀ (s : State) (o : VUn),
     let w := 8 * o.ty.width
     let f := fmtOf o.ty
     let x (n : Nat) : Nat := lane o.ty.width (s.me.vr o.va) n
     let a := s.me.elInt o.ty o.va
     let nan (n : Nat) : Bool := (fvOf f (x n)).isNan
     let res (lat : Nat) (val : Nat → Nat) (i : Instr) : Prop := s.givesV lat o.ty o.vd o.pg o.z val i
     res 2 (fun n => (a n).natAbs) (.vabs o) ∧
     res 2 (fun n => (BitVec.ofInt w (-a n)).toNat) (.vneg o) ∧
     res 2 (fun n => if x n = 0 then w else w - 1 - Nat.log2 (x n)) (.vclz o) ∧
     res 2 (fun n => ((List.range w).filter (x n).testBit).length) (.vpopc o) ∧
     (o.ty.isFloat → res 2 (fun n => if nan n then quietNan f (x n) else x n % 2 ^ (w - 1)) (.vfabs o)) ∧
     (o.ty.isFloat → res 2 (fun n => if nan n then quietNan f (x n) else x n ^^^ 2 ^ (w - 1)) (.vfneg o)) ∧
     res 2 (fun n => match fvOf f (x n) with
       | .inf neg => if neg then 1 else 128
       | .nan c => if c.testBit (f.m - 1) then 512 else 256
       | .num neg m _ => match decide (m = 0), decide (m < 2 ^ f.m) with
         | true, _ => if neg then 8 else 16
         | _, true => if neg then 4 else 32
         | _, _ => if neg then 2 else 64) (.vfclass o) ∧
     res 3 x (.vmov o) ∧
     res 4 (fun n => if nan n then 2 ^ (w - 1) + (nanFields f (x n)).2 * 2 ^ 10 + (nanFields f (x n)).1 else 0) (.vnanpay o) ∧
     res 4 (fun n => nanMake f false (x n % 2 ^ 10) (x n / 2 ^ 10 % 2 ^ 12)) (.vnanmk o))

/-- 08 R165, R166, 06 R121: VCMP.cc compares as the etype reads, or unsigned for the codes that say so; VFCMP.cc finds a
pair with a NaN unordered, where only ne and un hold, and else follows the numerical order, in which −0 equals +0; VSEL
takes the bits of one source or the other by the predicate that vc names. -/
def Obligations.VectorCompareSelectResults : Prop :=
  ∀ (s : State) (o : VCmp) (p : VTer),
    let a := s.me.elInt o.ty o.va
    let b := s.me.elInt o.ty o.vb
    let x (r n : Nat) : Nat := lane o.ty.width (s.me.vr r) n
    let v (r n : Nat) : FV := fvOf (fmtOf o.ty) (x r n)
    s.givesP 2 o.ty o.pd o.pg o.z (fun n => match o.cc with
      | .eq => x o.va n == x o.vb n
      | .ne => x o.va n != x o.vb n
      | .lt => a n < b n
      | .ge => b n ≤ a n
      | .le => a n ≤ b n
      | .gt => b n < a n
      | .ltu => x o.va n < x o.vb n
      | .geu => x o.vb n ≤ x o.va n
      | .leu => x o.va n ≤ x o.vb n
      | .gtu => x o.vb n < x o.va n
      | .un | .ord => false) (.vcmpCc o) ∧
    (o.cc ∈ [Cond.eq, .ne, .lt, .ge, .le, .gt, .un, .ord] →
      s.givesP 2 o.ty o.pd o.pg o.z (fun n =>
        if (v o.va n).isNan || (v o.vb n).isNan then o.cc == .ne || o.cc == .un
        else match o.cc with
          | .eq => (v o.va n).order (v o.vb n) == 0
          | .ne => (v o.va n).order (v o.vb n) != 0
          | .lt => (v o.va n).order (v o.vb n) < 0
          | .ge => (v o.va n).order (v o.vb n) ≥ 0
          | .le => (v o.va n).order (v o.vb n) ≤ 0
          | .gt => (v o.va n).order (v o.vb n) > 0
          | .ord => true
          | _ => false) (.vfcmpCc o)) ∧
    s.givesV 2 p.ty p.vd p.pg p.z (fun n =>
      if (s.me.pr p.vc).getLsbD (n * p.ty.width) then lane p.ty.width (s.me.vr p.va) n
      else lane p.ty.width (s.me.vr p.vb) n) (.vsel p)

/-- 08 R161, 09 R181: the floating instructions round the exact result of each element once, to nearest even, in the
element's format; a NaN operand or an invalid operation gives a NaN (07 R143, R144), and OVF follows 07 R146. The model's choices:
the sign of a zero product (log 42), and the last bit of the transcendental results, whose series log 12 names. -/
def Obligations.VectorFloatResults : Prop :=
  ∀ (s : State) (o : VTer) (u : VUn),
    let x (r n : Nat) : Nat := lane o.ty.width (s.me.vr r) n
    let y (n : Nat) : Nat := lane u.ty.width (s.me.vr u.va) n
    let op (l : List Nat) (g : List FV → Ex) : FRes := fop (fmtOf o.ty) (s.nanCtx s.cur) .rne l g
    let res2 (lat : Nat) (g : FV → FV → Ex) (i : Instr) : Prop :=
      s.givesF lat o.ty o.vd o.pg o.z (fun n => op [x o.va n, x o.vb n] (bin g)) i
    let res3 (g : FV → FV → FV → Ex) (i : Instr) : Prop :=
      s.givesF 4 o.ty o.vd o.pg o.z (fun n => op [x o.va n, x o.vb n, x o.vc n] (tri g)) i
    let res1 (lat : Nat) (g : FV → Ex) (i : Instr) : Prop :=
      s.givesF lat u.ty u.vd u.pg u.z (fun n => fop (fmtOf u.ty) (s.nanCtx s.cur) .rne [y n] (una g)) i
    res2 4 exAdd (.vfadd o) ∧
    res2 4 (fun a b => exAdd a b.neg) (.vfsub o) ∧
    res2 4 exMul (.vfmul o) ∧
    res3 exFma (.vfma o) ∧
    res3 (fun a b c => exFma a.neg b c) (.vfnma o) ∧
    res2 16 exDiv (.vfdiv o) ∧
    res1 16 exSqrt (.vfsqrt u) ∧
    res1 16 (exDiv (.num false 1 0)) (.vfrcp u) ∧
    res1 16 exRsq (.vfrsq u) ∧
    res1 12 exExp2 (.vfexp2 u) ∧
    res1 12 exLog2 (.vflog2 u) ∧
    res1 12 exSinPi (.vfsinpi u) ∧
    res1 12 exCosPi (.vfcospi u) ∧
    s.givesV 2 o.ty o.vd o.pg o.z (fun n => fMinMax (fmtOf o.ty) true (x o.va n) (x o.vb n)) (.vfmin o) ∧
    s.givesV 2 o.ty o.vd o.pg o.z (fun n => fMinMax (fmtOf o.ty) false (x o.va n) (x o.vb n)) (.vfmax o)

/-- 08 R167 to R172: the permutes. Each writes element n of vd from the element that its rule names, as it stood at
issue; an index past the register gives 0.
08 R168: VEXT reads one element, extended by its type, or 0 past the register; VINS writes one element and no other
byte, and nothing past the register. -/
def Obligations.VectorPermuteResults : Prop :=
  (∀ (s : State) (o : VTer) (u : VUn) (pat : BitVec 8),
     let w := o.ty.width
     let n := 512 / w
     let a (e : Nat) : Nat := lane w (s.me.vr o.va) e
     let b (e : Nat) : Nat := lane w (s.me.vr o.vb) e
     let k := (s.me.sc o.vb).toNat
     let join (r e : Nat) : Nat := if e < n then a e else if e < 2 * n then lane w (s.me.vr r) (e - n) else 0
     let res (val : Nat → Nat) (i : Instr) : Prop := s.givesV 3 o.ty o.vd o.pg o.z val i
     res (fun e => if w = 1 then a (e / 256 * 256 + b e) else if b e < n then a (b e) else 0) (.vperm o) ∧
     res (fun e => a ((e + k) % n)) (.vrot o) ∧
     res (fun e => join o.vc (e + k)) (.vslide o) ∧
     (o.vc ≤ 1 → res (fun e => if e % 2 = 0 then a (e / 2 + o.vc * (n / 2)) else b (e / 2 + o.vc * (n / 2))) (.vzip o)) ∧
     (o.vc ≤ 1 → res (fun e => join o.vb (2 * e + o.vc)) (.vunzip o)) ∧
     s.givesV 3 u.ty u.vd u.pg u.z (fun _ => (s.me.sc u.va).toNat) (.vbcast u) ∧
     s.givesV 3 u.ty u.vd u.pg u.z
       (fun e => lane u.ty.width (s.me.vr u.va) (e / 4 * 4 + (pat.extractLsb' (2 * (e % 4)) 2).toNat)) (.vshuf u pat)) ∧
  (∀ (s : State) (ty : ETy) (vd sd va sa sb imm : Nat),
     let w := ty.width
     let i := (s.me.sc sb).toNat + imm
     s.gives .va (.vext ty sd va sb imm) (s.post 3 (.scalar sd
       (if 512 / w ≤ i then 0 else BitVec.ofInt 64 (s.me.elInt ty va i)))) ∧
     (512 / w ≤ i → s.gives .va (.vins ty vd sa sb imm) s) ∧
     (i < 512 / w → ∃ mask v,
       s.gives .va (.vins ty vd sa sb imm) (s.post 3 (.vector (physV s.me.vrot vd) mask v)) ∧
       ∀ old e, e < 512 / w →
         lane w (landedV mask v old) e = if e = i then (s.me.sc sa).toNat % 2 ^ (8 * w) else lane w old e))

/-- 09 R174, 06 R122: VCVT picks part q of a narrower source and fills part q of its destination from a wider one; FCVT
converts one scalar, and extends a 32-bit result by its type. -/
def Obligations.ConversionResults : Prop :=
  ∀ (s : State) (o : VCvtOp) (dst src : ETy) (sd sa : Nat),
    let nd := 512 / o.dst.width
    let ns := 512 / o.src.width
    let md : Mode := if o.rtz then .rtz else .rne
    let only (n : Nat) : Bool := decide (nd ≤ ns) || (decide (o.q * ns ≤ n) && decide (n < (o.q + 1) * ns))
    let x (n : Nat) : Nat := lane o.src.width (s.me.vr o.va) (if nd ≤ ns then o.q * nd + n else n - o.q * ns)
    let r (n : Nat) : FRes := cvt md o.dst o.src (x n)
    let c := cvt .rne dst src (s.me.sc sa).toNat
    (∃ e, VecEffect s.me o.dst.width o.vd o.pg o.z only (fun n => (r n).code) e ∧
      s.gives .va (.vcvt o) ((s.post 4 e).postOvf 4
        ((List.range nd).any (fun n => only n && activeAt (s.me.pr o.pg) o.dst.width n && (r n).ovf)))) ∧
    s.gives .s (.fcvt dst src sd sa) ((s.post 4 (.scalar sd
      (if dst = .i32 then (BitVec.ofNat 32 c.code).signExtend 64 else BitVec.ofNat 64 c.code))).postOvf 4 c.ovf)

/-- 06 R122, 09 R174: the table of conversions. An integer saturates into an integer type, and rounds into a float; a
float rounds into a float, and rounds and then saturates into an integer, where an infinity saturates, a NaN gives 0, and
both count as a narrowing that meets a non-finite; a type to itself keeps its bits.
06 R122, 07 R133: rounding to an integer takes the nearest one, the even one of two, or under RTZ the one towards
zero. -/
def Obligations.ConversionValues : Prop :=
  (∀ (md : Mode) (dst src : ETy) (c : Nat), c < 2 ^ (8 * src.width) →
     let r := cvt md dst src c
     let k := intVal src.isSigned (8 * src.width) c
     let clamp (x : Int) : Int := max (intMin dst.isSigned (8 * dst.width)) (min (intMax dst.isSigned (8 * dst.width)) x)
     let out := intVal dst.isSigned (8 * dst.width) r.code
     (dst = src → r = ⟨c, false⟩) ∧
     (dst ≠ src → src.isInt → dst.isInt → out = clamp k ∧ r.ovf = false) ∧
     (src.isInt → dst.isFloat → r.code = (roundArith (fmtOf dst) md ⟨k, 1, 0, false⟩).1) ∧
     (src.isFloat → dst.isInt → match fvOf (fmtOf src) c with
       | .nan _ => r = ⟨0, true⟩
       | .inf neg => out = (if neg then intMin dst.isSigned (8 * dst.width) else intMax dst.isSigned (8 * dst.width)) ∧ r.ovf = true
       | .num neg m x => r.ovf = false ∧ out = clamp (roundInt md (FV.num neg m x).exact)) ∧
     (src.isFloat → dst.isFloat → dst ≠ src → match fvOf (fmtOf src) c with
       | .nan n => r = ⟨convNan (fmtOf src) (fmtOf dst) n, false⟩
       | .inf neg => r = ⟨(fmtOf dst).signed neg ((2 ^ (fmtOf dst).e - 1) * 2 ^ (fmtOf dst).m), false⟩
       | .num neg m x => r.code = (roundArith (fmtOf dst) md (FV.num neg m x).exact).1)) ∧
  (∀ (n : Int) (d : Nat) (x : Int), 0 < d →
     let v : Rat := n / d * (2 : Rat) ^ x
     let a : Exact := ⟨n, d, x, false⟩
     |(roundInt .rne a : Rat) - v| ≤ 1 / 2 ∧
     (|(roundInt .rne a : Rat) - v| = 1 / 2 → Even (roundInt .rne a)) ∧
     |(roundInt .rtz a : Rat)| ≤ |v| ∧ |(roundInt .rtz a : Rat) - v| < 1)

/-- 09 R175, R177, R178: VNARROW.t and VSCALE.t write vd whole with a register image: the codes of the n elements from
byte 0, the scale of block b at byte 480 + b. Each block is narrowed together, its inactive elements as +0, VSCALE.t with
the scales of the old vd; the origin of the first non-finite element goes with it (07 R140).
09 R179, R175: VWIDEN.t gives each element the value of its code in the image times its block's scale, as a code of
the destination type; an element of a block with scale 0xFF gives a NaN created here. -/
def Obligations.NarrowingAndWidening : Prop :=
  (∀ (s : State) (o : VTer),
     let e := Tab.get 0 s.me.tt o.vc
     let w := o.ty.width
     let n := 512 / w
     let x (i : Nat) : Nat × FV :=
       ((s.me.sc o.vb).toNat + i,
         if activeAt (s.me.pr o.pg) w i then fvOf (fmtOf o.ty) (lane w (s.me.vr o.va) i) else .num false 0 0)
     let size := if tBlock e = 0 then n else tBlock e
     let res (given : Bool) (i : Instr) : Prop := s.issues .va i → ∃ img,
       let blk (b : Nat) : Narrowed := tNarrowBlock e s.scb.seed.toNat (fmtOf o.ty)
         (if given then some (lane 1 (s.me.vr o.vd) (480 + b)) else none) ((List.range size).map (fun j => x (b * size + j)))
       exec i s = .next (((s.post 4 (.vector (physV s.me.vrot o.vd) (BitVec.allOnes 512) img)).postOrigin 4 o.vc
         ((List.range (n / size)).findSome? (fun b => (blk b).origin))).issued) ∧
       ∀ j, j < n → imgCode e img j = (blk (j / size)).codes.getD (j % size) 0 ∧
         (tBlock e ≠ 0 → imgScale e img j = (blk (j / size)).scale)
     o.ty.isFloat → res false (.vnarrowT o) ∧ res true (.vscaleT o)) ∧
  (∀ (s : State) (o : VTer),
     let e := Tab.get 0 s.me.tt o.vc
     let image := (s.me.vr o.va).toNat
     let code (n : Nat) : Nat := image / 16 ^ (tHalf e * n) % 2 ^ tCodeBits e
     let scale (n : Nat) : Nat := image / 256 ^ (480 + n / tBlock e) % 256
     s.givesV 4 o.ty o.vd o.pg o.z (fun n => exactCode (tNanFmt e) o.ty
       (if tBlock e ≠ 0 ∧ scale n = 255 then .nan (newNan (tNanFmt e) (s.nanCtx s.cur))
         else match tCodeVal e (code n) with
           | .num neg m x => .num neg m (if tBlock e = 0 then x else x + (scale n - 127))
           | v => v)) (.vwidenT o))

/-- 09 R182, R183: the integer reductions: the exact sum of the active elements modulo 2^64, the largest and the smallest
of them, or the type's identity when none is active; the floating ones along the tree of 09 R182. Each writes vd whole. That
VFRMAX of no element sets no OVF is the model's reading (log 49). -/
def Obligations.ReductionResults : Prop :=
  ∀ (s : State) (o : VUn),
    let w := o.ty.width
    let n := 512 / w
    let act (i : Nat) : Bool := activeAt (s.me.pr o.pg) w i
    let els : List Int := ((List.range n).filter act).map (s.me.elInt o.ty o.va)
    let lo := intMin o.ty.isSigned (8 * w)
    let hi := intMax o.ty.isSigned (8 * w)
    let code (i : Nat) : Option Nat := if act i then some (lane w (s.me.vr o.va) i) else none
    let whole (v : VReg) : Eff := .vector (physV s.me.vrot o.vd) (BitVec.allOnes 512) v
    let int (x : Int) (i : Instr) : Prop := s.gives .va i (s.post 6 (whole ((BitVec.ofInt 64 x).setWidth 4096)))
    let sum := (treeNode (fsumNode (fmtOf o.ty) (s.nanCtx s.cur)) (fun i => (code i).map (⟨·, false⟩)) (Nat.log2 n) 0).getD ⟨0, false⟩
    int els.sum (.vrsum o) ∧
    int (els.foldl max lo) (.vrmax o) ∧
    int (els.foldl min hi) (.vrmin o) ∧
    s.gives .va (.vfrsum o) ((s.post 6 (whole (BitVec.ofNat 4096 (quietCode (fmtOf o.ty) sum.code)))).postOvf 6 sum.ovf) ∧
    s.gives .va (.vfrmax o) (s.post 6 (whole (BitVec.ofNat 4096
      (quietCode (fmtOf o.ty) ((treeNode (fMinMax (fmtOf o.ty) false) code (Nat.log2 n) 0).getD
        ((fmtOf o.ty).signed true ((2 ^ (fmtOf o.ty).e - 1) * 2 ^ (fmtOf o.ty).m)))))))

/-- 09 R185 to R187: the random draws. Element e draws at (base + e) mod 2^64 from the seed of the step, the stream and
the draw number; VRNGN is √(−2 ln u1) × cos(2π u2), each step rounded once (the functions by log 12's series); VRNGB and
VDROP keep it when bits [31:8] of word 0 lie below the threshold of the control scalar, and a
kept element of VDROP is va × 2^24 / q rounded once. -/
def Obligations.RandomResults : Prop :=
  ∀ (s : State) (o : VTer),
    let seed := s.scb.seed.toNat
    let ctl := (s.me.sc o.vc).toNat
    let draw (stream base n e : Nat) : List Nat := bunting seed stream ((base + e) % 2 ^ 64) n
    let words (e : Nat) : List Nat :=
      draw (ctl % 2 ^ 32) (s.me.sc o.va).toNat ((s.me.sc o.vb).toNat % 2 ^ 63) e
    let q := min (ctl / 2 ^ 32 % 2 ^ 25) (2 ^ 24)
    let keep (base e : Nat) : Bool := (draw (ctl % 2 ^ 32) base (ctl / 2 ^ 57) e).getD 0 0 / 256 < q
    let x (e : Nat) : Nat := lane o.ty.width (s.me.vr o.va) e
    let frac (k : Nat) : Nat := (roundArith fmt32 .rne ⟨k, 1, -24, false⟩).1
    let op (l : List Nat) (g : List FV → Ex) : Nat := (fop fmt32 ⟨0, 0⟩ .rne l g).code
    (o.ty = .f32 → s.givesV 6 o.ty o.vd o.pg o.z
      (fun e => frac ((words e).getD 0 0 / 256)) (.vrngu o)) ∧
    (o.ty = .f32 → s.givesV 6 o.ty o.vd o.pg o.z
      (fun e =>
        let m := op [op [frac ((words e).getD 0 0 / 256 + 1)] (una exLog2), 0xBFB17218] (bin exMul)
        let angle := match exCosPi (.num false (2 * ((words e).getD 1 0 / 256)) (-24)) with | .val x => x | _ => ⟨0, 1, 0, false⟩
        op [op [m] (una exSqrt), (roundArith fmt32 .rne angle).1] (bin exMul)) (.vrngn o)) ∧
    s.givesP 6 o.ty o.vd o.pg o.z (keep (s.me.sc o.va).toNat) (.vrngb o) ∧
    s.givesF 6 o.ty o.vd o.pg o.z (fun e =>
      if keep (s.me.sc o.vb).toNat e then
        fop (fmtOf o.ty) (s.nanCtx s.cur) .rne [x e] (una (fun a => match a with
          | .inf neg => .inf neg
          | .num neg m k => .val ((FV.num neg m k).exact.mul ⟨2 ^ 24, q, 0, false⟩)
          | .nan _ => .invalid))
      else ⟨0, false⟩) (.vdrop o)

/-- 06 R120, R121, R110: the scalar floating instructions round the exact result once, to nearest even, in the precision
chosen, and OVF lands with it (07 R146); FCMP finds a pair with a NaN unordered. -/
def Obligations.ScalarFloatResults : Prop :=
  ∀ (s : State) (cc : Cond) (f32 : Bool) (pd sd sa sb : Nat),
    let f := if f32 then fmt32 else fmt64
    let x (r : Nat) : Nat := (s.me.sc r).toNat % (if f32 then 2 ^ 32 else 2 ^ 64)
    let res (lat : Nat) (l : List Nat) (g : List FV → Ex) (i : Instr) : Prop :=
      let r := fop f (s.nanCtx s.cur) .rne l g
      s.gives .s i ((s.post lat (.scalar sd (BitVec.ofNat 64 r.code))).postOvf lat r.ovf)
    let a := fvOf f (x sa)
    let b := fvOf f (x sb)
    res 4 [x sa, x sb] (bin exAdd) (.fadd f32 sd sa sb) ∧
    res 4 [x sa, x sb] (bin (fun a b => exAdd a b.neg)) (.fsub f32 sd sa sb) ∧
    res 4 [x sa, x sb] (bin exMul) (.fmul f32 sd sa sb) ∧
    res 4 [x sa, x sb, x sd] (tri exFma) (.ffma f32 sd sa sb) ∧
    res 16 [x sa, x sb] (bin exDiv) (.fdiv f32 sd sa sb) ∧
    res 16 [x sa] (una exSqrt) (.fsqrt f32 sd sa) ∧
    (cc ∈ [Cond.eq, .ne, .lt, .ge, .le, .gt, .un, .ord] →
      s.gives .s (.fcmpCc cc f32 pd sa sb) (s.postPred 4 pd
        (if (if a.isNan || b.isNan then cc == .ne || cc == .un
          else match cc with
            | .eq => a.order b == 0
            | .ne => a.order b != 0
            | .lt => a.order b < 0
            | .ge => a.order b ≥ 0
            | .le => a.order b ≤ 0
            | .gt => a.order b > 0
            | .ord => true
            | _ => false) then BitVec.allOnes 512 else 0)))

/-- 07 R133, R134: arithmetic rounding to nearest in the four floating types. Unless it overflows, no finite code is
nearer the exact value than the code it gives, and of two codes equally near it gives the even one; it overflows, to the
infinity of the value's sign, exactly when the value lies at or beyond the middle between the largest finite value and the
next power of two. -/
def Obligations.RoundingToNearest : Prop :=
  ∀ (t : ETy) (n : Int) (d : Nat) (x : Int), t.isFloat → 0 < d →
    let f := fmtOf t
    let v : Rat := n / d * (2 : Rat) ^ x
    let val (c : Nat) : Rat := match fvOf f c with
      | .num neg m k => (if neg then -1 else 1) * m * (2 : Rat) ^ k
      | _ => 0
    let r := roundArith f .rne ⟨n, d, x, false⟩
    let top : Rat := (2 ^ (f.m + 2) - 1) * (2 : Rat) ^ ((2 : Int) ^ f.e - 3 - f.bias - f.m)
    (r.2 = true ↔ top ≤ |v|) ∧
    (r.2 = true → fvOf f r.1 = .inf (decide (n < 0))) ∧
    (r.2 = false → (fvOf f r.1).isFinite ∧ ∀ c, (fvOf f c).isFinite → c < 2 ^ (8 * t.width) →
      |val r.1 - v| ≤ |val c - v| ∧ (|val r.1 - v| = |val c - v| → val c ≠ val r.1 → r.1 % 2 = 0))

/-- 06 R120, 08 R161, 09 R181: special operands. Divisions by zero, invalid operations, roots of negative values and the
limits of the functions, on codes of the four floating types; a created NaN carries the layer and the step (07 R143).
07 R142 to R145: the payload of a NaN. A created NaN is quiet, positive, and holds the layer and the step as far as
the format has room; among NaN operands the result is the quieted one with the smallest payload; a conversion keeps the
fields and the sign. -/
def Obligations.FloatSpecialsAndNans : Prop :=
  (∀ (t : ETy) (cx : NanCtx), t.isFloat →
     let f := fmtOf t
     let sgn := 2 ^ (8 * t.width - 1)
     let inf := (2 ^ f.e - 1) * 2 ^ f.m
     let un (g : FV → Ex) (c : Nat) : FRes := fop f cx .rne [c] (una g)
     let bi (g : FV → FV → Ex) (c d : Nat) : FRes := fop f cx .rne [c, d] (bin g)
     let nan : FRes := ⟨newNan f cx, true⟩
     let nanInf : FRes := ⟨newNan f cx, false⟩
     (∀ c, (fvOf f c).isFinite → (fvOf f c).isZero = false → c < 2 * sgn → bi exDiv c 0 = ⟨c / sgn * sgn + inf, true⟩) ∧
     bi exDiv 0 0 = nan ∧ bi exAdd inf (sgn + inf) = nanInf ∧ bi exMul 0 inf = nanInf ∧
     bi exAdd 0 sgn = ⟨0, false⟩ ∧ bi exAdd sgn sgn = ⟨sgn, false⟩ ∧
     un exSqrt sgn = ⟨sgn, false⟩ ∧ un exSqrt inf = ⟨inf, false⟩ ∧
     (∀ c, (fvOf f c).isFinite → sgn < c → c < 2 * sgn →
       un exSqrt c = nan ∧ un exRsq c = nan ∧ un exLog2 c = nan) ∧
     un exRcp 0 = ⟨inf, true⟩ ∧ un exRcp sgn = ⟨sgn + inf, true⟩ ∧ un exRcp inf = ⟨0, false⟩ ∧ un exRcp (sgn + inf) = ⟨sgn, false⟩ ∧
     un exRsq 0 = ⟨inf, true⟩ ∧ un exRsq sgn = ⟨sgn + inf, true⟩ ∧ un exRsq inf = ⟨0, false⟩ ∧
     un exExp2 (sgn + inf) = ⟨0, false⟩ ∧ un exExp2 inf = ⟨inf, false⟩ ∧
     un exExp2 0 = ⟨(2 ^ (f.e - 1) - 1) * 2 ^ f.m, false⟩ ∧ un exExp2 sgn = ⟨(2 ^ (f.e - 1) - 1) * 2 ^ f.m, false⟩ ∧
     un exLog2 0 = ⟨sgn + inf, true⟩ ∧ un exLog2 sgn = ⟨sgn + inf, true⟩ ∧ un exLog2 inf = ⟨inf, false⟩ ∧
     un exSinPi 0 = ⟨0, false⟩ ∧ un exSinPi sgn = ⟨sgn, false⟩ ∧ un exSinPi inf = nanInf ∧
     un exCosPi 0 = ⟨(2 ^ (f.e - 1) - 1) * 2 ^ f.m, false⟩ ∧ un exCosPi inf = nanInf) ∧
  (∀ (t u : ETy) (cx : NanCtx) (l : List Nat), t.isFloat → u.isFloat → cx.layer < 2 ^ 10 →
     let f := fmtOf t
     let c := newNan f cx
     let wide (x : ETy) : Bool := x == .f32 || x == .f64
     (fvOf f c = .nan c ∧ c < 2 ^ (8 * t.width - 1) ∧ c.testBit (f.m - 1)) ∧
     (nanFields f c = ((if wide t then cx.layer else cx.layer % (if t = .f16 then 512 else 64)),
       if wide t then cx.step % 2 ^ 12 else 0)) ∧
     (l ≠ [] → (∀ x ∈ l, (fvOf f x).isNan) → pickNan f l ∈ l.map (quietNan f) ∧
       ∀ x ∈ l, pickNan f l % 2 ^ (f.m - 1) ≤ x % 2 ^ (f.m - 1)) ∧
     (∀ x, x < 2 ^ (8 * t.width) → fvOf f x = .nan x → t ≠ u →
       let y := convNan f (fmtOf u) x
       fvOf (fmtOf u) y = .nan y ∧ y.testBit ((fmtOf u).m - 1) ∧ y.testBit (8 * u.width - 1) = x.testBit (8 * t.width - 1) ∧
       (wide t → wide u → nanFields (fmtOf u) y = nanFields f x)))

/-! Control flow. -/

/-- 06 R123, R124; 05 R89, R103: where a branch of a task issues, every member of its gang has a delay bundle next, with
the target after it if the branch is taken; a taken branch ends a loop, whose buffered body still serves the delay bundle.
CALL also puts its write of s63 in flight on every member; nothing else changes. That write lands in the next cycle, where
the delay bundle is due, and gives s63 the address of the bundle after it.
06 R123, R124, 18 R354: inside the handler a branch acts on the shadow context alone, from the handler's pc. -/
def Obligations.BranchResults : Prop :=
  (∀ (s : State) (disp : Int) (pt sa : Nat) (ng : Bool),
     (∀ c, c = s.cur ∨ c ∈ s.gang s.cur → (s.core c).shadow = none) →
     let near := s.me.pc + BitVec.ofInt 64 (4 * disp)
     let taken (t : Word) (k : Core) : Core :=
       { k with delay := some (some t), loop := { LoopSt.none with body := k.loop.body } }
     let link (k : Core) : Core := { k with pend := pendIns ⟨k.now + 1, s.seq, .link⟩ k.pend }
     let res (i : Instr) (f : Core → Core) : Prop := s.yields .s i (fun t => s.onlyGang t f)
     res (.br disp) (taken near) ∧
     res (.brc pt ng disp) (if (s.me.pr pt).getLsbD 0 = ng then fun k => { k with delay := some none } else taken near) ∧
     res (.jr sa) (taken (s.me.sc sa)) ∧
     res (.call disp) (fun k => taken near (link k)) ∧
     res .ret (taken (s.me.sc 63)) ∧
     ∀ (p : Pend) (w : Nat) (h : Header), p.eff = .link → s.parcelAt s.cur s.me.pc 0 = .ok w → decodeHeader w = .ok h →
       (s.applyEff s.cur p).me = { s.me with
         s := Tab.set s.me.s 63 (s.me.pc + BitVec.ofNat 64 (4 + 4 * (h.slots.map slotParcels).sum)) }) ∧
  (∀ (s : State) (h : Shadow) (disp : Int) (pt sa : Nat) (ng : Bool), s.me.shadow = some h →
     let near := h.pc + BitVec.ofInt 64 (4 * disp)
     let res (i : Instr) (d : Option Word) : Prop :=
       s.yields .s i (fun t => s.onlyMe t { s.me with shadow := some { h with delay := some d } })
     res (.br disp) (some near) ∧
     res (.brc pt ng disp) (if (s.me.pr pt).getLsbD 0 = ng then none else some near) ∧
     res (.jr sa) (some (s.me.sc sa)))

/-- 06 R125, 05 R89, R101: where LOOP or LOOPX issues, every member of the gang has an active loop at the bundle after,
with the counts read from member 0; the six indices, and with .rot the stage predicate, are due in the next cycle.
05 R102, 06 R126: LE adds one to the nest, read as a mixed-radix number with j0 its lowest digit. Past the last
iteration the loop ends with every index 0; otherwise the body starts again, and with .rot the stage predicate for the
new base is due in the next cycle. With .rot both rotation bases step back by one, whether the loop ends or not.
06 R125, 05 R88: the faults of LOOP and LOOPX before they issue: LOOP_PLACE inside a loop or a delay bundle (of a
branch that is not taken too: the model's reading, log 25), and else LOOP_COUNT for a count of zero or an innermost count past
2^32 - 1. -/
def Obligations.LoopResults : Prop :=
  (∀ (s : State) (nd sa e n0 : Nat) (rot : Bool),
     (∀ c, c = s.cur ∨ c ∈ s.gang s.cur → (s.core c).shadow = none) → 0 < nd →
     let count (i : Nat) : Nat := (s.me.sc i).toNat % 2 ^ 32
     let starts (counts : List Nat) (t : State) : Prop :=
       t = { s with cores := t.cores, seq := s.seq + 1 } ∧
       (∀ c, c ∉ s.gang s.cur → t.core c = s.core c) ∧
       ∀ c, c ∈ s.gang s.cur →
         t.core c = { s.core c with pend := (t.core c).pend, loop := (t.core c).loop } ∧
         (t.core c).loop.active = true ∧ (t.core c).loop.depth = nd ∧ (t.core c).loop.rot = rot ∧
         (t.core c).loop.count = counts ∧
         (t.core c).loop.start = (s.core c).pc + BitVec.ofNat 64 ((s.bundleLen s.cur s.me.pc).getD 0) ∧
         (t.core c).loop.len = 0 ∧ (t.core c).loop.whole = false ∧ (t.core c).loop.body = [] ∧
         ∀ p, p ∈ (t.core c).pend ↔ p ∈ (s.core c).pend ∨ (p.due = (s.core c).now + 1 ∧ p.ord = s.seq ∧
           ((∃ n, n < 6 ∧ p.eff = .index n 0) ∨
             (rot = true ∧ p.eff = .pred (physP (s.core c).prot 16) (BitVec.allOnes 512) (BitVec.allOnes 512))))
     s.yields .s (.loop nd sa rot e) (fun t =>
       starts ((count sa + e) :: (List.range (nd - 1)).map (fun i => count (sa + 1 + i))) t ∧
       ∀ c, c ∈ s.gang s.cur → (t.core c).loop.real0 = count sa) ∧
     s.yields .s (.loopx nd sa rot n0) (fun t =>
       starts (n0 :: (List.range (nd - 1)).map (fun i => count (sa + i))) t ∧
       ∀ c, c ∈ s.gang s.cur → (t.core c).loop.real0 = n0)) ∧
  (∀ (k : Core) (ord : Nat), k.shadow = none →
     let d := k.loop.depth
     let n (i : Nat) : Nat := k.loop.count.getD i 1
     let j (k : Core) (i : Nat) : Nat := (Tab.get 0 k.j i).toNat
     let unit (i : Nat) : Nat := ((List.range i).map n).prod
     let value (k : Core) : Nat := ((List.range d).map (fun i => j k i * unit i)).sum
     let t := k.loopAdvance ord
     (∀ i, i < d → j k i < n i ∧ n i < 2 ^ 32) → 0 < d →
     (∀ i, i < d → j t i < n i) ∧
     value t = (value k + 1) % unit d ∧
     t.vrot = (if k.loop.rot then (k.vrot + 511) % 512 else k.vrot) ∧
     t.prot = (if k.loop.rot then (k.prot + 15) % 16 else k.prot) ∧
     (value k + 1 = unit d → t.loop.active = false ∧ t.pc = k.pc ∧ t.pend = k.pend) ∧
     (value k + 1 ≠ unit d → t.loop = { k.loop with whole := true } ∧ t.pc = k.loop.start ∧
       t.pend = if k.loop.rot then pendIns ⟨k.now + 1, ord, .pred (physP t.prot 16) (BitVec.allOnes 512)
         (if j t 0 < k.loop.real0 then BitVec.allOnes 512 else 0)⟩ k.pend else k.pend)) ∧
  (∀ (s : State) (nd sa e n0 : Nat) (rot : Bool), s.cur ≤ 255 → s.me.shadow = none →
     let count (i : Nat) : Nat := (s.me.sc i).toNat % 2 ^ 32
     let raises (code : Nat) (i : Instr) : Prop := exec i s = .next (s.takeFault s.cur { code := code, slot := 0 })
     (s.me.loop.active = true ∨ s.me.delay ≠ none →
       raises fcLoopPlace (.loop nd sa rot e) ∧ raises fcLoopPlace (.loopx nd sa rot n0)) ∧
     (s.me.loop.active = false → s.me.delay = none → 0 < nd →
       ((∃ i, i < nd ∧ count (sa + i) = 0) ∨ 2 ^ 32 ≤ count sa + e → raises fcLoopCount (.loop nd sa rot e)) ∧
       (n0 = 0 ∨ (∃ i, i + 1 < nd ∧ count (sa + i) = 0) → raises fcLoopCount (.loopx nd sa rot n0))))

/-! The K slot. -/

/-- 06 R127, R128, 15 R304: the predicate instructions, the selectors of SYSRD, and CLOCK, which counts the
nanoseconds since the module reset, all landing at issue + 1. -/
def Obligations.PredicateAndSystemReads : Prop :=
  ∀ (s : State) (pd pa pb sd sa w : Nat), w < 4 →
    let put (v : PReg) (i : Instr) : Prop := s.gives .k i (s.postPred 1 pd v)
    let read (sel : Nat) (v : Nat) : Prop := s.gives .k (.sysrd sd sel) (s.post 1 (.scalar sd (BitVec.ofNat 64 v)))
    let task (f : Occ → Nat) : Nat := match s.me.occ with | some o => f o | none => 0
    put (s.me.pr pa &&& s.me.pr pb) (.pand pd pa pb) ∧
    put (s.me.pr pa ||| s.me.pr pb) (.por pd pa pb) ∧
    put (s.me.pr pa ^^^ s.me.pr pb) (.pxor pd pa pb) ∧
    put (~~~ (s.me.pr pa)) (.pnot pd pa) ∧
    (∃ v, put v (.pset pd sa w) ∧ ∀ b, b < 512 → v.getLsbD b = decide (b / 2 ^ w < (s.me.sc sa).toNat)) ∧
    s.gives .k (.clock sd) (s.post 1 (.scalar sd (BitVec.ofNat 64 (s.time - s.bootAt)))) ∧
    read 0 s.cur ∧ read 1 (task (·.member)) ∧ read 2 (task (·.gang)) ∧ read 3 s.deviceId ∧ read 4 (task (·.node)) ∧
    read 5 (task (·.launch)) ∧ read 6 s.me.vrot ∧ read 7 s.me.prot ∧ read 8 s.me.layer.toNat ∧
    read 0x10 s.me.ccCount.toNat ∧ read 0x11 s.me.fzTotal.toNat ∧
    ∀ x, x < 11 → read (0x12 + x) (Tab.get 0 s.me.fzBy x).toNat

/-- 05 R84; 06 R129, R130; 18 R360: the empty bundle does nothing; LAYER replaces the layer identifier; END stops every
member from issuing and ends an active loop; TRAP of a task leaves the trap to be taken at the next boundary. -/
def Obligations.ControlResults : Prop :=
  ∀ (s : State) (sp le : Bool) (guard id n : Nat), s.me.shadow = none →
    s.gives .k (.nop sp le guard) s ∧
    s.yields .k (.layer id) (fun t => s.onlyMe t { s.me with layer := BitVec.ofNat 10 id }) ∧
    s.yields .k .endTask (fun t => s.onlyGang t (fun k => { k with ended := true, loop := LoopSt.none })) ∧
    s.yields .k (.trap n) (fun t => s.onlyMe t { s.me with trap := some n })

/-- 20 R380, R381: the step instructions that read and write the step context block.
20 R382 to R384: LOSSCHK sets its predicate, and LOSS, unless the loss lies below the threshold; PENNON sets note and
VETO bits; STEPEND ends the launched state when it lands. -/
def Obligations.StepInstructionResults : Prop :=
  (∀ (s : State) (sd sa k : Nat),
     let v := s.me.sc sa
     let read (sel : Nat) (x : Nat) : Prop := s.gives .k (.steprd sd sel) (s.post 1 (.scalar sd (BitVec.ofNat 64 x)))
     let cursor (n : Nat) : Word := Tab.get 0 s.scb.cursor n
     let seqc (n : Nat) : BitVec 32 := Tab.get 0 s.scb.seq n
     let withCursor (s : State) (n : Nat) (x : Word) : State :=
       { s with scb := { s.scb with cursor := Tab.set s.scb.cursor n x } }
     let withSeq (s : State) (n : Nat) (x : BitVec 32) : State :=
       { s with scb := { s.scb with seq := Tab.set s.scb.seq n x } }
     read 0 s.scb.seed.toNat ∧ (k < 8 → read (1 + k) (cursor k).toNat) ∧ (k < 16 → read (9 + k) (seqc k).toNat) ∧
     read 25 s.scb.step.toNat ∧ read 26 s.scb.attempt ∧ read 27 s.scb.threshold.toNat ∧ read 28 s.stepState ∧
     read 29 s.ownWord.toNat ∧
     (k < 8 → s.gives .k (.stepwr (1 + k) sa) (withCursor s k v)) ∧
     (k < 16 → s.gives .k (.stepwr (9 + k) sa) (withSeq s k (BitVec.ofNat 32 v.toNat))) ∧
     s.gives .k (.curadv sd k sa) (withCursor (s.post 1 (.scalar sd (cursor k))) k (cursor k + v)) ∧
     s.gives .k (.seqnext sd k) (withSeq (s.post 1 (.scalar sd (BitVec.ofNat 64 (seqc k).toNat))) k (seqc k + 1))) ∧
  (∀ (s : State) (pd sa n : Nat) (veto : Bool) (o : Occ) (l : Launch),
     let x := (s.me.sc sa).toNat % 2 ^ 32
     let a := fvOf fmt32 x
     let b := fvOf fmt32 s.scb.threshold.toNat
     let below : Bool := !a.isNan && !b.isNan && decide (a.order b < 0)
     (below = true → s.gives .k (.losschk pd sa) (s.postPred 1 pd 0)) ∧
     (below = false →
       s.gives .k (.losschk pd sa) ((s.postPred 1 pd (BitVec.allOnes 512)).post 1 (.pennon 2))) ∧
     (n < 256 → s.gives .k (.pennon n veto) (s.post 1 (.pennon (BitVec.ofNat 16 (n * 256 + if veto then 1 else 0))))) ∧
     (s.me.occ = some o → Tab.find s.launches o.launch = some l →
       s.gives .k .stepend
         { s.post 1 .stepend with launches := Tab.set s.launches o.launch { l with stepend := true } }) ∧
     (∀ c p, p.eff = .stepend → (s.applyEff c p).stepState = if s.stepState = 2 then 3 else s.stepState) ∧
     (∀ c p bits, p.eff = .pennon bits → (s.applyEff c p).ownWord = s.ownWord ||| bits))

/-! Exceptions and the shadow context. -/

/-- 18 R352, R350, R351: a fault that enters the handler, of a task that is not pre-empting. The results in flight move to
the snapshot, h0 to h3 take the record, every other h and the shadow predicates are zero, and the handler's first bundle
is due; a step task sets FAULT, except for TRAP. Nothing else changes.
18 R353, R354, R351, R356: a violation, a fault of a pre-empting task, and any fault inside the handler kill the task
and send the fault event with disposition 1, the members staying frozen until the kill completes; inside the handler the
event names the entry's code first and then, by the model's reading (log 32), the second fault's own code. FAULT is set
first, where the task is a step task.
18 R356: the fault event is event 0x81 with a 64-byte payload, little-endian; the page's own address is named only for an
address of this device. -/
def Obligations.TakingAnException : Prop :=
  (∀ (s : State) (c : Nat) (f : FaultRec),
     (s.core c).shadow = none → faultClass f.code ≠ 4 → s.isPreempting c = false →
     f.code < 2 ^ 16 → f.slot < 2 ^ 4 → f.trapno < 2 ^ 16 → f.ipa < 2 ^ 52 →
     (∀ o, (s.core c).occ = some o → o.member < 8) →
     let k := s.core c
     let t := s.takeFault c f
     ∃ h, (t.core c) = { k with pend := [], waits := [], shadow := some h } ∧
       (∀ d, d ≠ c → t.core d = s.core d) ∧
       t = { s with cores := t.cores,
                    ownWord := if k.isStep && f.code ≠ fcTrap then s.ownWord ||| 16 else s.ownWord } ∧
       h.snap = k.pend ∧ h.pend = [] ∧ h.pc = 0 ∧ h.isTarget = false ∧ h.delay = none ∧ h.now = 0 ∧ h.wait = none ∧
       (let h0 := Tab.get 0 h.h 0
        h0.extractLsb' 0 16 = BitVec.ofNat 16 f.code ∧
        h0.extractLsb' 16 4 = BitVec.ofNat 4 f.slot ∧
        h0.extractLsb' 20 3 = BitVec.ofNat 3 (match k.occ with | some o => o.member | none => 0) ∧
        h0.getLsbD 23 = f.data ∧ h0.getLsbD 24 = f.write ∧
        h0.getLsbD 25 = (f.remote || (f.slot != 15 && k.namesRemote s.deviceId f.addr)) ∧
        h0.extractLsb' 26 22 = 0 ∧ h0.extractLsb' 48 16 = BitVec.ofNat 16 f.trapno) ∧
       Tab.get 0 h.h 1 = k.pc ∧ Tab.get 0 h.h 2 = f.addr ∧ (Tab.get 0 h.h 3).toNat = f.ipa ∧
       (∀ n, 4 ≤ n → Tab.get 0 h.h n = 0) ∧ ∀ n, Tab.get 0 h.p n = 0) ∧
  (∀ (s : State) (c : Nat) (f : FaultRec) (o : Occ), (s.core c).occ = some o →
     let marked (code : Nat) : State := if o.step && code ≠ fcTrap then { s with ownWord := s.ownWord ||| 16 } else s
     let killed (s : State) (first : Nat) : State :=
       let t := (s.faultEvent c f first 1 (s.core c).pc 0).killTask o.launch o.node 16
       if (s.core c).stopped then t else t.modCores (fun k => if k.killed then { k with fatal := true } else k) (s.gang c)
     ((s.core c).shadow = none → faultClass f.code = 4 ∨ s.isPreempting c = true →
       s.takeFault c f = killed (marked f.code) 0) ∧
     ∀ h, (s.core c).shadow = some h → s.takeFault c f = killed (marked fcShadowDouble) h.taken.code) ∧
  (∀ (s : State) (c : Nat) (f : FaultRec) (first disp : Nat) (pc word : Word) (z : Session) (o : Occ),
     s.session = some z → (s.core c).occ = some o →
     o.launch < 2 ^ 32 → o.node < 2 ^ 32 → c < 2 ^ 16 → f.code < 2 ^ 16 → first < 2 ^ 16 → disp < 2 ^ 8 → f.ipa < 2 ^ 64 →
     ∃ pl, (s.faultEvent c f first disp pc word).out = s.out ++ [.event z.id (z.txSeq + 1) (z.evNum + 1) 0x81 pl] ∧ pl.length = 64 ∧
       (let field (lo n : Nat) : Nat := ofLe ((pl.drop lo).take n)
        field 0 4 = o.launch ∧ field 4 4 = o.node ∧ field 8 2 = c ∧ field 10 2 = f.code ∧ field 12 2 = first ∧
        field 14 1 = disp ∧ field 15 1 = 0 ∧ field 16 8 = pc.toNat ∧ field 24 8 = f.addr.toNat ∧ field 32 8 = f.ipa ∧
        field 40 8 = (if f.ipa = 0 ∨ f.remote = true ∨ (s.core c).namesRemote s.deviceId f.addr = true then 0
          else match s.walk f.ipa with | some r => r.leaf.va.toNat | none => 0) ∧
        field 48 8 = word.toNat ∧ field 56 8 = 0))

/-- 06 R105, R106, R112, 01 R22, 11 R221, R225, 10 R203: how results land. A posted result changes no register: it joins
those in flight, which stand in issue order. Those due land one after another in that order, so that of two in one register
the later stands. A result changes its own register and nothing else, a vector one by bytes and a predicate by bits; s0 and
p0 are never written; an origin lands only where OV is clear, and sets it; a drain writes its bytes into the scratchpad under
their masks; CALL's result is the address after the delay bundle. A landing-buffer entry that is due leaves the buffer, and
its data join the results due. -/
def Obligations.ResultsLand : Prop :=
  ∀ (s : State) (c lat ord : Nat) (p : Pend) (e : Eff),
    let k := s.core c
    let t := s.applyEff c p
    let only (x : Core) : Prop := t = { s with cores := t.cores } ∧ ∀ d, t.core d = if d = c then x else s.core d
    let mixed (n : Nat) (old mask v x : BitVec n) : Prop :=
      ∀ i, i < n → x.getLsbD i = if mask.getLsbD i then v.getLsbD i else old.getLsbD i
    let inOrder (l : List Pend) : Prop := l.Pairwise (fun x y => x.ord ≤ y.ord)
    (k.shadow = none → ∃ l, k.post lat ord e = { k with pend := l } ∧
      (∀ q, q ∈ l ↔ q ∈ k.pend ∨ q = ⟨k.now + lat, ord, e⟩) ∧ (inOrder k.pend → inOrder l)) ∧
    (k.pend.filter (fun q => q.due ≤ k.now) = [] → s.landDue c = s) ∧
    (∀ q rest, k.pend.filter (fun q => q.due ≤ k.now) = q :: rest →
      s.landDue c = ((s.setCore c { k with pend := k.pend.erase q }).applyEff c q).landDue c) ∧
    (∀ r v, p.eff = .scalar r v → only (if r = 0 then k else { k with s := Tab.set k.s r v })) ∧
    (∀ r mask v, p.eff = .vector r mask v → ∃ x, only { k with v := Tab.set k.v r x } ∧
      ∀ b, b < 512 → x.extractLsb' (8 * b) 8 =
        if mask.getLsbD b then v.extractLsb' (8 * b) 8 else (Tab.get 0 k.v r).extractLsb' (8 * b) 8) ∧
    (∀ r mask v, p.eff = .pred r mask v →
      if r = 0 then only k else ∃ x, only { k with p := Tab.set k.p r x } ∧ mixed 512 (Tab.get 0 k.p r) mask v x) ∧
    (∀ n v, p.eff = .index n v → only { k with j := Tab.set k.j n v }) ∧
    (∀ a v, p.eff = .acc a v → only { k with acc := Tab.set k.acc a v, accBad := k.accBad.filter (fun n => n != a) }) ∧
    (∀ n mask v, p.eff = .table n mask v → ∃ x, only { k with tt := Tab.set k.tt n x } ∧ mixed 512 (Tab.get 0 k.tt n) mask v x) ∧
    (∀ n mask v, p.eff = .shape .a n mask v →
      ∃ x, only { k with shA := Tab.set k.shA n x } ∧ mixed 512 (Tab.get 0 k.shA n) mask v x) ∧
    (∀ n mask v, p.eff = .shape .b n mask v →
      ∃ x, only { k with shB := Tab.set k.shB n x } ∧ mixed 512 (Tab.get 0 k.shB n) mask v x) ∧
    (∀ n v, p.eff = .origin n v → let old := Tab.get 0 k.tt n
      if old.getLsbD 480 then only k
      else ∃ x, only { k with tt := Tab.set k.tt n x } ∧ x.extractLsb' 448 32 = v ∧ x.getLsbD 480 = true ∧
        ∀ i, i < 448 ∨ (480 < i ∧ i < 512) → x.getLsbD i = old.getLsbD i) ∧
    (∀ cells, p.eff = .drain cells → k.mxReads = [] → (∀ x ∈ cells, s.barBusy c x.1 = false) → ∃ m, only { k with sp := m } ∧
      ∀ a, m.read a = (cells.filter (fun x => x.1 == a)).foldl (fun b x => (b &&& ~~~x.2.1) ||| (x.2.2 &&& x.2.1)) (k.sp.read a)) ∧
    (∀ w h, p.eff = .link → s.parcelAt c k.pc 0 = .ok w → decodeHeader w = .ok h →
      only { k with s := Tab.set k.s 63 (k.pc + BitVec.ofNat 64 (4 + 4 * (h.slots.map slotParcels).sum)) }) ∧
    (let u := s.landAcc c
     let due (a : Access) : Prop := ∃ n, a.landAt = some n ∧ n ≤ k.now
     u = { s with cores := u.cores } ∧ (∀ d, d ≠ c → u.core d = s.core d) ∧
     u.core c = { k with land := (u.core c).land, pend := (u.core c).pend } ∧
     (∀ a, a ∈ (u.core c).land ↔ a ∈ k.land ∧ ¬due a) ∧ (inOrder k.pend → inOrder (u.core c).pend) ∧
     ∀ q, q ∈ (u.core c).pend ↔ q ∈ k.pend ∨ ∃ a ∈ k.land, due a ∧ ∃ x, s.accEff c a = some x ∧ q = ⟨k.now, a.id, x⟩) ∧
    ∀ (a : Access), (a.kind = .load ∨ ∃ op sc v cmp nan, a.kind = .atomic op sc v cmp nan false) → (∀ x ∈ a.elems, x.done = true) →
      (∀ r x, a.dest = .scalar r → a.elems = [x] → s.accEff c a = some (.scalar r (BitVec.ofNat 64 (ofLe x.got)))) ∧
      ∀ r w, a.dest = .vector r w → w ∈ [1, 2, 4, 8] → (a.elems.map (·.idx)).Nodup →
        (∀ x ∈ a.elems, x.idx < 512 / w ∧ x.got.length = w) →
        ∃ mask v, s.accEff c a = some (.vector r mask v) ∧ ∀ (old : VReg) n, n < 512 / w →
          lane w (landedV mask v old) n = match a.elems.find? (fun x => x.idx == n) with
            | some x => ofLe x.got
            | none => lane w old n

/-- 18 R359, R361, R356: ERET ends the shadow context and gives the snapshot's results their old cycles. A fault that no
access raised leaves nothing else; one of an access that waits in the landing buffer has it sent again, holding the later
ones; a TRAP's event goes to the host first.
18 R355, R357, R358: the privileged instructions inside the handler. HRD reads task state and HWR replaces a task
scalar at once, except s0; HPAGE op 1 gives the leaf entry, op 0 gives 0 for a page that is present and 2 for one outside
the task's plan, in that order (the model's reading, log 26), and otherwise asks the host and waits; HFREEZE gives the task
up with its word. -/
def Obligations.HandlerResults : Prop :=
  (∀ (s : State) (h : Shadow), s.me.shadow = some h →
     let back : Core := { s.me with shadow := none, pend := h.snap ++ s.me.pend, waits := [] }
     (h.taken.access = none → h.taken.code ≠ fcTrap → s.yields .k .eret (fun t => s.onlyMe t back)) ∧
     (h.taken.access = none → h.taken.code = fcTrap →
       s.yields .k .eret (fun t => (s.faultEvent s.cur h.taken 0 0 s.me.pc 0).onlyMe t back)) ∧
     (∀ id a, h.taken.access = some id → h.taken.data = true → h.taken.code ≠ fcTrap → a ∈ s.me.land → a.id = id →
       s.yields .k .eret (fun t => t.me.shadow = none ∧ t.me.pend = h.snap ++ s.me.pend ∧ t.me.resend = s.me.resend.filter (fun n => s.me.land.any (fun b => b.id = n && b.open)) ++ [id] ∧
         t.me.land = s.me.land.map (fun b => if b.id = id then { b with
             fault := none, since := s.time
             elems := if b.kind = .load then b.elems.map (fun e => { e with done := false, got := [] }) else b.elems } else b) ∧
         ∀ d, d ≠ s.cur → t.core d = s.core d))) ∧
  (∀ (s : State) (h : Shadow) (o : Occ) (hd ha sel : Nat), s.me.shadow = some h → s.me.occ = some o →
     let v := s.me.sc ha
     let ipa := v.toNat % 2 ^ 52
     let put (x : Word) (i : Instr) : Prop := s.gives .k i (s.post 1 (.scalar hd x))
     put 0 (.hrd hd 0) ∧
     (0 < sel → sel < 64 → put (Tab.get 0 s.me.s sel) (.hrd hd sel)) ∧
     put s.me.ccCount (.hrd hd 0x40) ∧ put s.me.fzTotal (.hrd hd 0x41) ∧ put (BitVec.ofNat 64 s.stepState) (.hrd hd 0x42) ∧
     put (BitVec.ofNat 64 o.launch) (.hrd hd 0x43) ∧ put (BitVec.ofNat 64 o.node) (.hrd hd 0x44) ∧
     s.yields .k (.hwr 0 ha) (fun t => s.onlyMe t s.me) ∧
     (0 < sel → s.yields .k (.hwr sel ha) (fun t => s.onlyMe t { s.me with s := Tab.set s.me.s sel v })) ∧
     put (s.leafWord ipa) (.hpage hd ha 1) ∧
     (∀ r, s.walk ipa = some r → put 0 (.hpage hd ha 0)) ∧
     (s.walk ipa = none → s.me.inPlan ipa = false → put 2 (.hpage hd ha 0)) ∧
     (s.walk ipa = none → s.me.inPlan ipa = true →
       s.yields .k (.hpage hd ha 0) (fun t =>
         (s.faultEvent s.cur { h.taken with ipa := ipa } 0 3 s.me.pc 0).onlyMe t
           { s.me with shadow := some { h with wait := some ⟨hd, s.seq, ipa, s.time⟩ } })) ∧
     let dead := (s.faultEvent s.cur h.taken 0 1 s.me.pc v).killTask o.launch o.node 16
     s.gives .k (.hfreeze ha) (if s.me.stopped then dead
       else dead.modCores (fun k => if k.killed then { k with fatal := true } else k) (s.gang s.cur)))

/-- 05 R99: outside the shadow context HRD, HWR, HPAGE, HFREEZE and ERET take ILL_INSTR; TRAP is legal in every context:
the handler's TRAP issues, and is its second fault. -/
def Obligations.PrivilegedOutsideHandler : Prop :=
  ∀ (s : State) (hd ha sel op n : Nat), s.cur ≤ 255 →
    (s.me.shadow = none →
      ∀ i, i ∈ [Instr.hrd hd sel, .hwr sel ha, .hpage hd ha op, .hfreeze ha, .eret] →
        exec i s = .next (s.takeFault s.cur { code := fcIllInstr, slot := 8 })) ∧
    ctxBad s.me (.trap n) = false ∧
    (∀ h, s.me.shadow = some h → s.issues .k (.trap n) →
      exec (.trap n) s = .next (s.takeFault s.cur { code := fcTrap, slot := 8, trapno := n }).issued)

/-- 20 R379, 05 R84, R86, R88: what raises ILL_INSTR, ILL_BUNDLE and BAD_TARGET. A step instruction but STEPRD in a task of
no step graph, STEPEND in a task that is not its terminal node, a word that its slot's map rejects, and a parcel that is no
bundle header, whose record holds address 0 (the model's reading, log 33); a branch target without the marker bits is
BAD_TARGET, whose record holds the target's address. -/
def Obligations.IllegalInstructions : Prop :=
  ∀ (s : State) (sd sa n : Nat) (veto target : Bool) (slot : Slot) (word : Word) (parcel : Parcel),
    s.cur ≤ 255 → s.me.shadow = none →
    let raises (code slot : Nat) (i : Instr) : Prop := exec i s = .next (s.takeFault s.cur { code := code, slot := slot })
    (s.me.isStep = false → ∀ i, i ∈ [Instr.stepwr n sa, .curadv sd n sa, .seqnext sd n, .losschk sd sa, .pennon n veto] →
      raises fcIllInstr 8 i) ∧
    ((∀ o, s.me.occ = some o → o.step = false ∨ o.terminal = false) → raises fcIllInstr 8 .stepend) ∧
    (∀ e, decodeSyl slot word.toNat = .error e → raises fcIllInstr (slotNo slot) (.illInstr slot word)) ∧
    (∀ e, decodeHeader parcel.toNat = .error e → ¬(target = true ∧ hasMarker parcel.toNat = false) →
      raises fcIllBundle 15 (.illBundle target parcel)) ∧
    (∀ e, decodeHeader parcel.toNat = .error e → target = true → hasMarker parcel.toNat = false →
      exec (.illBundle target parcel) s = .next (s.takeFault s.cur
        { code := fcBadTarget, addr := s.me.pc,
          ipa := match translate s.deviceId s.me.rg s.me.pc .fetch false with | .ok (_, ipa) => ipa | .error _ => 0 }))

/-! The MX slot. -/

/-- 10 R192, R199, R204, R205: MZERO, MCKSUM and MSTAT. MZERO writes zeros at issue + 14, tags ZERO at issue and holds the
compute port for a cycle; MCKSUM gives the weighted sum of the visible containers modulo 2^64; MSTAT packs the tag, the
result in flight, the two counts and the cycles that the ports stay busy. -/
def Obligations.MatrixStatusResults : Prop :=
  ∀ (s : State) (a sd : Nat), s.me.tag a < 4 → s.me.reex < 2 ^ 8 → s.me.second < 2 ^ 8 →
    let k := s.me
    s.yields .mx (.mzero a) (fun t => s.onlyMe t
      { k.post 14 s.seq (.acc a (List.replicate 4096 0)) with
        atag := Tab.set k.atag a 3, busyC := k.now + 1, mx := k.mx ++ [⟨s.seq, k.now + 14, a, false, false, false, false, k.tag a⟩] }) ∧
    s.gives .mx (.mcksum a sd) (s.post 8 (.scalar sd (BitVec.ofNat 64
      ((List.range 4096).map (fun n => (n + 1) * ((k.accVal a).getD n 0).toNat)).sum))) ∧
    ∃ v : Word, s.gives .mx (.mstat a sd) (s.post 1 (.scalar sd v)) ∧
      (v.extractLsb' 0 2).toNat = k.tag a ∧
      v.getLsbD 2 = k.pend.any (fun p => match p.eff with | .acc b _ => b == a | _ => false) ∧
      (v.extractLsb' 8 8).toNat = k.reex ∧ (v.extractLsb' 16 8).toNat = k.second ∧
      (v.extractLsb' 24 16).toNat = min 65535 (k.busyC - k.now) ∧
      (v.extractLsb' 40 16).toNat = min 65535 (k.busyD - k.now)

/-- 10 R190 to R193, R200, R201, 07 R147, R148: MMA and MMAU. Element (i, j) starts from the base, which is 0 with Z, else
the latest result in flight, else the landed accumulator; an integer pair adds its products modulo 2^32, and any other
rounds once per group of G products in increasing k, the exact sum of the running value and the group's exact products;
a NaN operand is kept, 0 × ∞ and opposed infinities create one, and one infinity stands. A's elements come from the window of its origin, or from the unfolded
tensor; an element outside the tensor is 0. The result lands at 12 + occupancy.
10 R190: the operand pairs: the accumulator's tag, the group G and the occupancy for a depth K; every other pair is
MX_FORMAT. -/
def Obligations.MatrixMultiplyResults : Prop :=
  (∀ (s : State) (o : MmaOp) (u tag g occ : Nat),
     let k := s.me
     let eA := Tab.get 0 k.tt o.tA
     let eB := Tab.get 0 k.tt o.tB
     let depth := 32 * (o.kn + 1)
     let cx := s.nanCtx s.cur
     let inside (e : Wide) (x : Nat × Nat × Nat × Nat) : Bool :=
       decide (x.1 < tExt e 0 ∧ x.2.1 < tExt e 1 ∧ x.2.2.1 < tExt e 2 ∧ x.2.2.2 < tExt e 3)
     let at' (e : Wide) (x : Nat × Nat × Nat × Nat) : FV :=
       if inside e x then tElem e s.mxByte (newNan (tNanFmt e) cx) x.1 x.2.1 x.2.2.1 x.2.2.2 else .num false 0 0
     let org (w : Word) (n : Nat) : Nat := (w.extractLsb' (16 * n) 16).toNat
     let wA := k.sc o.soffA
     let wB := k.sc o.soffB
     let wF := k.sc (o.soffA + 1)
     let a (i x : Nat) : FV := at' eA (org wA 0 + x, org wA 1 + i, org wA 2, org wA 3)
     let b (x j : Nat) : FV := at' eB (org wB 0 + j, org wB 1 + x, org wB 2, org wB 3)
     let virt (i x : Nat) : FV :=
       let n := (wA.extractLsb' 0 24).toNat + x
       let tap := n / tExt eA 0
       let fw := (wF.extractLsb' 0 4).toNat + 1
       let fh := (wF.extractLsb' 4 4).toNat + 1
       let stride : Int := if u = 2 ∨ u = 4 then 2 else 1
       let dil : Int := if u = 3 ∨ u = 4 then 2 else 1
       let px : Int := ((wA.extractLsb' 24 16).toNat + i) * stride + (tap % fw : Nat) * dil - (wF.extractLsb' 8 4).toNat
       let py : Int := (wA.extractLsb' 40 12).toNat * stride + (tap / fw : Nat) * dil - (wF.extractLsb' 12 4).toNat
       if tap < fw * fh ∧ 0 ≤ px ∧ px < tExt eA 1 ∧ 0 ≤ py ∧ py < tExt eA 2 then
         tElem eA s.mxByte (newNan (tNanFmt eA) cx) (n % tExt eA 0) px.toNat py.toNat (wA.extractLsb' 52 12).toNat
       else .num false 0 0
     let latest := (k.pend.filterMap (fun p => match p.eff with
       | .acc n v => if n = o.acc then some v else none
       | _ => none)).getLast?
     let base (n : Nat) : Nat := if o.z then 0 else ((latest.getD (k.accVal o.acc)).getD n 0).toNat
     let f := if tag = 0 then fmt64 else fmt32
     let group (v : Nat) (ts : List (FV × FV)) : Nat :=
       let ps := ts.map (fun t => exMul t.1 t.2)
       let nans := nanOf f f (fvOf f v) ++ ts.flatMap (fun t => nanOf (tNanFmt eA) f t.1 ++ nanOf (tNanFmt eB) f t.2)
       let endless (n : Bool) : Bool := fvOf f v == .inf n || ps.contains (.inf n)
       if nans ≠ [] then pickNan f nans
       else if ps.contains .invalid || (endless true && endless false) then newNan f cx
       else if endless true || endless false then f.signed (endless true) (f.maxMag + 1)
       else (roundArith f .rne (ps.foldl (fun e p => match p with | .val x => e.add x | _ => e) (fvOf f v).exact)).1
     let elem (a b : Nat → FV) (c : Nat) : Nat :=
       if tag = 2 then
         (BitVec.ofInt 32 ((BitVec.ofNat 32 c).toInt + ((List.range depth).map (fun x => (a x).int * (b x).int)).sum)).toNat
       else (List.range (depth / g)).foldl (fun v n => group v
         ((List.range g).map (fun x => (a (n * g + x), b (n * g + x))))) (c % (if tag = 0 then 2 ^ 64 else 2 ^ 32))
     let full := occ + (if o.c then 4 else 0)
     let res (i : Instr) (a : Nat → Nat → FV) : Prop := s.yields .mx i (fun t =>
       ∃ v : List Word, v.length = 4096 ∧
         (∀ r c, r < 64 → c < 64 →
           (v.getD (64 * r + c) 0).toNat = elem (a r) (fun x => b x c) (base (64 * r + c)) % 2 ^ 64) ∧
         (∀ p, p ∈ t.me.pend → p ∈ k.pend ∨ p = ⟨k.now + 12 + full, s.seq, .acc o.acc v⟩ ∨
           (k.isStep = true ∧ p = ⟨k.now + 12 + full, s.seq, .pennon 4⟩)) ∧
         (∀ p, p ∈ k.pend ∨ p = ⟨k.now + 12 + full, s.seq, .acc o.acc v⟩ → p ∈ t.me.pend) ∧
         t.me = { k with pend := t.me.pend, atag := Tab.set k.atag o.acc tag, busyC := k.now + full,
                         second := t.me.second, mx := t.me.mx, mxReads := t.me.mxReads } ∧
         t = { s with cores := t.cores, seq := s.seq + 1, fresh := t.fresh } ∧ ∀ d, d ≠ s.cur → t.core d = s.core d)
     pairing (tKind eA) (tKind eB) depth = some (tag, g, occ) → (∀ n, ((k.accVal n).length = 4096)) →
     (∀ v, latest = some v → v.length = 4096) → k.shadow = none →
     res (.mma o) a ∧ res (.mmau o u) virt) ∧
  (∀ (kA kB depth : Nat),
     let half (x : Nat) : Bool := x == 3 || x == 4
     let byte (x : Nat) : Bool := x == 5 || x == 6
     pairing kA kB depth =
       if kA = 1 ∧ kB = 1 then some (0, 1, 2 * depth)
       else if kA = 2 ∧ kB = 2 then some (1, 4, depth / 2)
       else if half kA ∧ half kB then some (1, 16, depth / 8)
       else if kA = 0 ∧ kB = 0 then some (1, 32, depth / 16)
       else if byte kA ∧ byte kB then some (2, 0, depth / 16)
       else none)

/-- 10 R191, R202: MLOAD copies the codes of the clipped window into the containers, 0 outside it, landing at issue + 20,
and sets the tag of the source's format. -/
def Obligations.MatrixLoadResults : Prop :=
  ∀ (s : State) (a t soff sbar stok : Nat), s.me.shadow = none →
    let k := s.me
    let e := Tab.get 0 k.tt t
    let o := k.sc soff
    let x (n : Nat) : Nat := (o.extractLsb' (16 * n) 16).toNat
    s.yields .mx (.mload a t soff sbar stok) (fun u => ∃ v : List Word, v.length = 4096 ∧
      (∀ i j, i < 64 → j < 64 → v.getD (64 * i + j) 0 =
        if x 0 + j < tExt e 0 ∧ x 1 + i < tExt e 1 ∧ x 2 < tExt e 2 ∧ x 3 < tExt e 3 then
          BitVec.ofNat 64 (tReadCode e s.mxByte (tHalfAddr e (x 0 + j) (x 1 + i) (x 2) (x 3)))
        else 0) ∧
      u.me = { k.post 20 s.seq (.acc a v) with
        atag := Tab.set k.atag a (if tKind e = 1 then 0 else if tKind e = 2 then 1 else 2), busyC := k.now + 8,
        mx := u.me.mx, mxReads := u.me.mxReads } ∧
      u = { s with cores := u.cores, seq := s.seq + 1, fresh := u.fresh } ∧ ∀ d, d ≠ s.cur → u.core d = s.core d)

/-- 10 R191, R203: MDRAIN puts in flight, for issue + 24 + 8 × groups, the bytes of the clipped window and no other: the
code of each element after its epilogue, narrowed by rows (or by blocks), and the blocks' scales; the drain port is busy
for 8 × groups. The value drained is the landed one, with its own format while a later result is in flight. That .add reads its destination at issue is the model's choice (log 29). -/
def Obligations.MatrixDrainResults : Prop :=
  ∀ (s : State) (a d soff sbar stok ep : Nat), s.me.shadow = none →
    let k := s.me
    let e := Tab.get 0 k.tt d
    let x (n : Nat) : Nat := ((k.sc soff).extractLsb' (16 * n) 16).toNat
    let nr := min 64 (tExt e 1 - x 1)
    let nc := min 64 (tExt e 0 - x 0)
    let dur := 8 * ((nr + 7) / 8)
    let tag := ((k.mx.filter (fun x => x.acc = a)).head?.map (·.was)).getD (k.tag a)
    let nf := tNanFmt e
    let f := if tag = 0 then fmt64 else if tag = 1 then fmt32 else nf
    let cx := s.nanCtx s.cur
    let y (i j : Nat) : FV := tElem e s.mxByte (newNan nf cx) (x 0 + j) (x 1 + i) (x 2) (x 3)
    let val (i j : Nat) : FV := epilogue ep f nf (newNan f cx) (accFV tag ((k.accVal a).getD (64 * i + j) 0)) (y i j)
    let size := if tBlock e = 0 then 64 else tBlock e
    let blk (i b : Nat) : Narrowed := tNarrowBlock e s.scb.seed.toNat f none
      (((List.range nc).filter (fun j => j / size = b)).map (fun j => (tIndex e (x 0 + j) (x 1 + i) (x 2) (x 3), val i j)))
    let codes (i j : Nat) : List (Nat × Byte × Byte) :=
      codeCells e (tHalfAddr e (x 0 + j) (x 1 + i) (x 2) (x 3)) ((blk i (j / size)).codes.getD (j % size) 0)
    let scale (i j : Nat) : Nat × Byte × Byte :=
      (tScaleAddr e (x 0 + j) (x 1 + i) (x 2) (x 3), 0xFF, BitVec.ofNat 8 (blk i (j / size)).scale)
    s.yields .mx (.mdrain a d soff sbar stok ep) (fun t => ∃ cells,
      (∀ c, c ∈ cells ↔ c.1 < spBytes ∧ ∃ i j, i < nr ∧ j < nc ∧
        (c ∈ codes i j ∨ (tBlock e ≠ 0 ∧ j % size = 0 ∧ c = scale i j))) ∧
      ⟨k.now + 24 + dur, s.seq, .drain cells⟩ ∈ t.me.pend ∧
      (∀ p, p ∈ k.pend → p ∈ t.me.pend) ∧
      (∀ p, p ∈ t.me.pend → p ∈ k.pend ∨ p.eff = .drain cells ∨ p.eff = .pennon 4 ∨ ∃ v, p.eff = .origin d v) ∧
      t.me = { k with pend := t.me.pend, busyD := k.now + dur, drains := k.drains ++ [⟨s.seq, k.now + 24 + dur⟩] } ∧
      t = { s with cores := t.cores, seq := s.seq + 1, fresh := t.fresh } ∧ ∀ c, c ≠ s.cur → t.core c = s.core c)

/-! Loads, stores and atomics. -/

/-- 11 R208, R221, R223: the loads. Each element's address comes from the registers at issue; inactive elements are not
read, and their bytes of the register keep their values. LD zero-extends. That a near load lands the bytes that it sees at issue is
the model's reading (log 9). -/
def Obligations.LoadResults : Prop :=
  ∀ (s : State) (o : LsOp),
    let k := s.me
    let base := k.sc o.sbase + BitVec.ofInt 64 o.imm
    let idx := k.sc o.sidx
    let w := 2 ^ o.size
    let act (w : Nat) : List Nat := (List.range (512 / w)).filter (fun e => (k.pr o.pg).getLsbD (e * w))
    let vec (w : Nat) (addr : Nat → Word) (lanes : Bool) (d : Nat) (i : Instr) : Prop :=
      s.givesLoad i w d lanes (act w) addr (.vector (physV k.vrot o.reg) w)
        (fun val => VecEffect k w o.reg o.pg false (fun _ => true) val)
    o.size ≤ 3 →
    s.givesLoad (.ld o) w o.dist false [0] (fun _ => base + idx) (.scalar o.reg)
      (fun val e => e = .scalar o.reg (BitVec.ofNat 64 (val 0))) ∧
    vec w (fun e => base + idx + BitVec.ofNat 64 (e * w)) false o.dist (.vld o) ∧
    vec w (fun e => base + BitVec.ofNat 64 e * idx) false o.dist (.vlds o) ∧
    vec w (fun e => base + idx + BitVec.ofNat 64 (lane w (k.vr o.reg) e)) false o.dist (.vgath o) ∧
    vec 4 (fun e => base + idx + BitVec.ofNat 64 (lane 4 (k.vr o.reg) e)) true 0 (.lsld o)

/-- 11 R208, R222, R223: the stores. Addresses are formed as for the loads, with VSCAT's indices and LSST's offsets in the
register after; the data are read at issue. -/
def Obligations.StoreResults : Prop :=
  ∀ (s : State) (o : LsOp),
    let k := s.me
    let base := k.sc o.sbase + BitVec.ofInt 64 o.imm
    let idx := k.sc o.sidx
    let w := 2 ^ o.size
    let act (w : Nat) : List Nat := (List.range (512 / w)).filter (fun e => (k.pr o.pg).getLsbD (e * w))
    let vec (w : Nat) (addr : Nat → Word) (lanes : Bool) (i : Instr) : Prop :=
      s.givesStore i w lanes (act w) addr (fun e b => (k.vr o.reg).extractLsb' (8 * (e * w + b)) 8)
    o.size ≤ 3 →
    s.givesStore (.st o) w false [0] (fun _ => base + idx) (fun _ b => (k.sc o.reg).extractLsb' (8 * b) 8) ∧
    vec w (fun e => base + idx + BitVec.ofNat 64 (e * w)) false (.vst o) ∧
    vec w (fun e => base + BitVec.ofNat 64 e * idx) false (.vsts o) ∧
    vec w (fun e => base + idx + BitVec.ofNat 64 (lane w (k.vr (o.reg + 1)) e)) false (.vscat o) ∧
    vec 4 (fun e => base + idx + BitVec.ofNat 64 (lane 4 (k.vr (o.reg + 1)) e)) true (.lsst o)

/-- 11 R225, 07 R143: the atomics at issue. The returning forms name the register that takes the old value, the .nr forms
none; at level 0 the atomic is in flight for the latency of its word, and else it takes an entry of the landing buffer. -/
def Obligations.AtomicResults : Prop :=
  ∀ (s : State) (o : AtOp) (x : (AtOp → Instr) × AtomOp × Bool),
    x ∈ [(Instr.aadd, AtomOp.add, false), (.amin, .min, false), (.amax, .max, false), (.aand, .and, false),
      (.aor, .or, false), (.axor, .xor, false), (.aswap, .swap, false), (.acas, .cas, false), (.afadd, .fadd, false),
      (.aaddNr, .add, true), (.aminNr, .min, true), (.amaxNr, .max, true), (.aandNr, .and, true), (.aorNr, .or, true),
      (.axorNr, .xor, true), (.aswapNr, .swap, true), (.afaddNr, .fadd, true)] →
    let k := s.me
    let i := x.1 o
    let addr := k.sc o.sbase + BitVec.ofInt 64 o.imm + (if x.2.1 = .cas then 0 else k.sc o.sidx)
    let nan : Word := BitVec.ofNat 64 (newNan fmt64 (s.nanCtx s.cur))
    let off := addr.toNat % 2 ^ 56
    (levelOf addr = some 0 →
      s.gives .ld i ((s.post 12
        (.atom (if x.2.2 then none else some o.reg) off x.2.1 (k.sc o.reg) (k.sc o.sidx) nan)).counted 4 0 [off / 64])) ∧
    ∀ lv, levelOf addr = some lv → 2 ≤ lv →
      s.givesEntry .ld i (.atomic x.2.1 o.scope (k.sc o.reg) (k.sc o.sidx) nan x.2.2) .atomic lv 8 [0] (fun _ => addr)
        (fun _ => []) (if x.2.2 then .none else .scalar o.reg)
        (if x.2.2 then none
          else some (if o.dist = 0 then (if lv = 2 then 40 else if lv = 3 then 80 else 160) else o.dist))

/-- 11 R225: the value that an atomic writes, by its operation; AFADD rounds the FP64 sum once, with the NaN rules of
07 R143 and R144, and flags an infinity from finite operands.
11 R217: what a core's loads at level 0 or 1 see is memory with every store of the core that issued before and has not
performed: the byte of the last of them (the results in flight stand in issue order) that writes the address, and else memory's own
byte.
11 R217, R222: a store at level 0 or 1 performs: the bytes that it stores hold the last of its values for them, every
other byte of every core's memories is unchanged, older stores lose those bytes, and nothing else changes.
11 R217, R225: an atomic at level 0 performs on what its core's earlier stores leave there; the old value lands in the
register that a returning form names, and OVF is set for a step task that writes an infinity from finite operands. A later
load at level 0 that is still in flight reads the atomic's word again; its other bytes stand: the model's reading (log 9). -/
def Obligations.NearAccessesPerform : Prop :=
  (∀ (op : AtomOp) (old v cmp : Word) (cx : NanCtx),
     let r := atomNew op old v cmp (BitVec.ofNat 64 (newNan fmt64 cx))
     let sum := fop fmt64 cx .rne [old.toNat, v.toNat] (bin exAdd)
     r.1 = (match op with
       | .add => old + v
       | .min => BitVec.ofInt 64 (min old.toInt v.toInt)
       | .max => BitVec.ofInt 64 (max old.toInt v.toInt)
       | .and => old &&& v
       | .or => old ||| v
       | .xor => old ^^^ v
       | .swap => v
       | .cas => if old = cmp then v else old
       | .fadd => BitVec.ofNat 64 sum.code) ∧
     r.2 = (op == .fadd && (fvOf fmt64 old.toNat).isFinite && (fvOf fmt64 v.toNat).isFinite &&
       !(fvOf fmt64 sum.code).isFinite)) ∧
  (∀ (k : Core) (lv ord a : Nat),
     (∀ p ∈ k.inFlight, ∀ d off op v cmp nan, p.eff ≠ .atom d off op v cmp nan) →
     let cells : List Host.Cell := k.inFlight.flatMap (fun p =>
       match p.eff with
       | .bytes l cs => if l = lv ∧ p.ord < ord then cs.filter (fun c => c.1 == a) else []
       | _ => [])
     ((k.view lv ord).read a) = match cells.getLast? with
       | some c => c.2
       | none => (k.lm lv).read a) ∧
  (∀ (s : State) (c lv : Nat) (p : Pend) (cells : List Host.Cell), lv ≤ 1 → p.eff = .bytes lv cells →
     (∀ x ∈ cells, s.barBusy c x.1 = false) → (s.core c).mxReads = [] →
     let t := s.applyEff c p
     t = { s with cores := t.cores } ∧
     (∀ d, d ≠ c → t.core d = s.core d) ∧
     t.core c = { s.core c with pend := (t.core c).pend, sp := (t.core c).sp, ls := (t.core c).ls } ∧
     (∀ l a, l ≤ 1 → ((t.core c).lm l).read a =
       match (cells.filter (fun x => l == lv && x.1 == a)).getLast? with
       | some x => x.2
       | none => ((s.core c).lm l).read a) ∧
     (t.core c).pend = (s.core c).pend.map (fun q =>
       match q.eff with
       | .bytes l cs => if l = lv ∧ q.ord < p.ord then
           { q with eff := .bytes l (cs.filter (fun x => cells.all (fun y => y.1 != x.1))) } else q
       | _ => q)) ∧
  (∀ (s : State) (c : Nat) (p : Pend) (dest : Option Nat) (off : Nat) (op : AtomOp) (v cmp nan : Word),
     p.eff = .atom dest off op v cmp nan → (∀ b, b < 8 → s.barBusy c (off + b) = false) → (s.core c).mxReads = [] →
     let k := s.core c
     let old := (k.view 0 p.ord).word off
     let new := atomNew op old v cmp nan
     let t := s.applyEff c p
     (t.core c).sp.word off = new.1 ∧
     (∀ a, a < off ∨ off + 8 ≤ a → (t.core c).sp.read a = k.sp.read a) ∧
     (t.core c).s = (match dest with | some r => if r = 0 then k.s else Tab.set k.s r old | none => k.s) ∧
     t.core c = { k with pend := (t.core c).pend, peeks := (t.core c).peeks, shadow := (t.core c).shadow, sp := (t.core c).sp,
                         s := (t.core c).s } ∧
     (t.core c).pend.map (fun q => (q.due, q.ord)) = k.pend.map (fun q => (q.due, q.ord)) ∧
     (t.core c).shadow.map (fun h => { h with snap := [] }) = k.shadow.map (fun h => { h with snap := [] }) ∧
     (t.core c).peeks = k.peeks.map (fun q => if q.ord ≤ p.ord ∨ q.level ≠ 0 then q else { q with
       got := q.got.map (fun e => (e.1, e.2.1, (List.range e.2.2.length).zip e.2.2 |>.map (fun b =>
         if off ≤ e.2.1 + b.1 ∧ e.2.1 + b.1 < off + 8 then ((t.core c).view 0 q.ord).read (e.2.1 + b.1) else b.2))) }) ∧
     t.ownWord = (if new.2 && k.isStep then s.ownWord ||| 4 else s.ownWord) ∧
     (∀ d, d ≠ c → t.core d = s.core d) ∧ t = { s with cores := t.cores, ownWord := t.ownWord })

/-- 11 R210, R223, R225, R227: where an access at one level, inside its window, passes the checks before, an address that is
no multiple of the element's size raises MISALIGN on the lowest such element, before anything of the syllable happens: for
loads, stores and atomics, and for LSLD and LSST by the lane's offset, whose record holds the byte's address in the lane
slices (the model's reading, log 33). REARM raises it for a base or length that is no multiple of 32. -/
def Obligations.MisalignedAccess : Prop :=
  ∀ (s : State) (o : LsOp) (a : AtOp) (g : RgOp) (i : Instr) (r : LsReq) (lv : Nat) (e : Nat × Word × Nat),
    s.cur ≤ 255 → s.me.shadow = none →
    let misalign (slot : Nat) (write : Bool) (va : Word) : FaultRec := { code := 0x0208, slot := slot, write := write, addr := va }
    (i ∈ [Instr.ld o, .vld o, .vlds o, .vgath o, .st o, .vst o, .vsts o, .vscat o,
        .aadd a, .amin a, .amax a, .aand a, .aor a, .axor a, .aswap a, .acas a, .afadd a, .aaddNr a, .aminNr a, .amaxNr a,
        .aandNr a, .aorNr a, .axorNr a, .aswapNr a, .afaddNr a] → lsReq s.me i = some r →
      (∀ x ∈ r.els, levelOf x.2.1 = some lv ∧ s.inWindow s.cur x.2.1 x.2.2 = true) →
      r.els.find? (fun x => x.2.1.toNat % x.2.2 != 0) = some e →
      exec i s = .next (s.takeFault s.cur (misalign r.slot r.write e.2.1))) ∧
    (i ∈ [Instr.lsld o, .lsst o] → lsReq s.me i = some r → (∀ x ∈ r.els, x.2.1.toNat < 4096) →
      r.els.find? (fun x => x.2.1.toNat % 4 != 0) = some e →
      exec i s = .next (s.takeFault s.cur (misalign r.slot r.write (BitVec.ofNat 64 (0xF1 * 2 ^ 56 + e.1 * 4096) + e.2.1)))) ∧
    (let base := s.me.sc g.sbase + BitVec.ofInt 64 g.imm
     (levelOf base = some 4 ∨ s.inWindow s.cur base 1 = true) → base.toNat % 32 ≠ 0 ∨ (s.me.sc g.sidx).toNat % 32 ≠ 0 →
       exec (.rearm g) s = .next (s.takeFault s.cur (misalign 5 true base)))

/-! Link queues, maintenance, copies and the K slot's engines. -/

/-- 11 R226, R227, 17 R338: LQPOP takes its slots from the queue at issue, lands them two cycles later and returns their
credits; LQPSH spends credits and hands its slots to the link on channel 4, 8 slots a flit, unless a FENCEX holds them or
earlier slots of the core. FLUSH, DISCARD and REARM take
one entry of the landing buffer for their range, widened to granules and cut at 64 KiB pages; PREF changes no register
and no byte, a dirty one that its fill displaces going to its frame (13 R245), and does nothing at all at levels 0 to 3. -/
def Obligations.QueueAndRangeResults : Prop :=
  ∀ (s : State) (o : RgOp) (vec : Bool) (reg q : Nat),
    let k := s.me
    let n := if vec then 64 else 1
    let slots := (Tab.get [] k.lq q).take n
    let sent (x : Nat × Nat × Nat) : List (Nat × Nat × Nat) := k.lqSent.filter (fun e => e.2.1 < 6 || e.2.2 > k.now) ++ [x]
    let popped := s.modMe (fun k => { k with
      lq := Tab.set k.lq q ((Tab.get [] k.lq q).drop n), lqSent := sent (s.seq, 6, k.now + 2) })
    let pushed (flits : Nat) : State := s.modMe (fun k => { k with
      credits := Tab.set k.credits q (Tab.get 512 k.credits q - n), lqSent := sent (s.seq, q, flits) })
    let part (i : Nat) : List Byte :=
      if vec then (List.range 64).map (fun b => (k.vr reg).extractLsb' (8 * (64 * i + b)) 8)
      else (List.range 8).map (fun b => (k.sc reg).extractLsb' (8 * b) 8)
    let push (parts : List (List Byte)) : State :=
      let t := pushed parts.length
      let held := k.lqHeld ≠ [] ∨ ∃ f ∈ k.fences, f.p2 = 6 ∧ f.ord < s.seq ∧ t.pathBusy s.cur f.p1 f.ord f.before true = true
      if held then t.modMe (fun k => { k with lqHeld := k.lqHeld ++ [⟨s.seq, q, parts⟩] })
      else (packetFlits 4 (s.neighbour q) s.deviceId s.cur parts).foldl (fun s f => s.sendOn q f) t
    let base := k.sc o.sbase + BitVec.ofInt 64 o.imm
    let entry (op : MaintOp) (kd : AKind) (g : Nat) (i : Instr) : Prop :=
      let len := if k.sc o.sidx = 0 then g else (k.sc o.sidx).toNat
      let lo := base.toNat / g * g
      let hi := (base.toNat + len + g - 1) / g * g
      ∃ x : Access, s.gives .st i (s.modMe (fun k => { k with land := k.land ++ [x] })) ∧
        (x.id, x.kind, x.slot, x.level, x.step) = (s.seq, .maint op (hi - lo), 5, 4, k.isStep) ∧
        (x.dest, x.landAt, x.since, x.fault) = (.none, none, s.time, none) ∧
        (s.issues .st i → (x.elems.map (·.n)).sum = hi - lo ∧
          ∀ j e, x.elems[j]? = some e →
            e.va.toNat = lo + ((x.elems.take j).map (·.n)).sum ∧ 0 < e.n ∧
            e.va.toNat / 65536 = (e.va.toNat + e.n - 1) / 65536 ∧
            e.idx = j ∧ e.data = [] ∧ e.got = [] ∧ e.done = false ∧
            ∀ g ipa, translate s.deviceId k.rg e.va kd false = .ok (g, ipa) → e.loc = ipa)
    (∃ e, s.gives .ld (.lqpop vec reg q) ((popped.giveCredit q s.cur n).post 2 e) ∧
      (vec = false → e = .scalar reg (slots.headD 0)) ∧
      (vec = true → ∃ v, e = .vector (physV k.vrot reg) (BitVec.allOnes 512) v ∧
        ∀ i, i < 64 → v.extractLsb' (64 * i) 64 = slots.getD i 0)) ∧
    s.gives .st (.lqpsh vec reg q) (push ((List.range (if vec then 8 else 1)).map part)) ∧
    entry .flush .flush 128 (.flush o) ∧ entry .discard .discard 128 (.discard o) ∧ entry .rearm .rearm 32 (.rearm o) ∧
    (0xF0 * 2 ^ 56 ≤ base.toNat → s.gives .ld (.pref o) s) ∧
    s.yields .ld (.pref o) (fun t => (∀ c, t.core c = s.core c) ∧
      (∀ a, (∀ x ∈ Tab.get ([] : Tab Byte) s.l2 (s.cur / 64), x.1 ≠ a) → t.mem0.read a = s.mem0.read a) ∧
      (∀ d, (Tab.get ([] : Tab Byte) t.l2 d).Sublist (Tab.get [] s.l2 d)) ∧
      (∀ d a b, (Tab.get ([] : Tab Byte) s.l2 d).filter (fun x => x.1 == a) = [(a, b)] →
        (Tab.get ([] : Tab Byte) t.l2 d).filter (fun x => x.1 == a) = [(a, b)] ∨ t.mem0.read a = b) ∧
      t.mem1 = s.mem1 ∧ t.written = s.written ∧ t.slotMeta = s.slotMeta ∧ t.scb = s.scb ∧ t.ownWord = s.ownWord ∧ t.stepState = s.stepState)

/-- 12 R229 to R233, 11 R216: the six copies at issue, and SHW, SHR, TTW and TTR. A copy joins its engine's queue with the
shape register, the entries, the layer, the step and the seed as they stand at issue, and its spans at levels 0 and 1 enter the
range scoreboard; an engine that has failed only counts it. SHW and TTW write the chosen words at issue + 3, reserved
bits apart; SHR and TTR read a word as it stands at issue. -/
def Obligations.CopyIssueResults : Prop :=
  ∀ (s : State) (o : CpOp) (x : (CpOp → Instr) × CopyForm) (e : Eng) (n sa sd mask w : Nat),
    x ∈ [(Instr.copy, CopyForm.copy), (.copyt, .copyt), (.copy2, .copy2), (.copyr, .copyr), (.gathc, .gathc), (.copyx, .copyx)] →
    let k := s.me
    let g := match o.eng with | .a => k.engA | .b => k.engB
    let put (k : Core) (g : Engine) : Core := match o.eng with | .a => { k with engA := g } | .b => { k with engB := g }
    let sl : Slot := match o.eng with | .a => .ca | .b => .cb
    let sh := Tab.get 0 (match o.eng with | .a => k.shA | .b => k.shB) o.sh
    let tS := Tab.get 0 k.tt o.tsrc
    let tD := Tab.get 0 k.tt o.tdst
    let tA := Tab.get 0 k.tt (sh.extractLsb' 492 8).toNat
    let q : Copy := { id := s.seq, num := g.next, form := x.2, sh := sh, tS := tS, tD := tD, tA := tA, step := k.isStep,
                      layer := k.layer, stepNo := s.scb.step, bar := s.optBar s.cur o.sbar, seed := s.scb.seed.toNat, next := 0, early := [],
                      emitted := 0, flight := [], asked := [], idx := [], dstT := o.tdst, outst := [], wrote := [],
                      origin := none, failed := false }
    let near := (copySides x.2 sh tS tD tA).filter (fun y => tLevel y.e ≤ 1)
    let spans := near.map (fun y =>
      ((tLevel y.e * 2 ^ 56 + y.lo.toNat, tLevel y.e * 2 ^ 56 + y.hi.toNat, y.write, [s.seq]) : Nat × Nat × Bool × List Nat))
    let words (bits : Nat → Bool) (m v : Wide) : Prop := ∀ (old : Wide) (i : Nat), i < 512 →
      (mergeBits old m v).getLsbD i =
        if mask.testBit (i / 64) && bits i then (k.sc (sa + i / 64)).getLsbD (i % 64) else old.getLsbD i
    let eng := match e with | .a => k.engA | .b => k.engB
    let reg := Tab.get 0 (match e with | .a => k.shA | .b => k.shB) n
    (g.failed = true → s.gives sl (x.1 o) (s.modMe (fun k => put k { g with next := g.next + 1 }))) ∧
    (g.failed = false → ∃ sc, s.gives sl (x.1 o)
        (s.modMe (fun k => { put k { g with queue := g.queue ++ [q], next := g.next + 1 } with score := sc })) ∧
      sc.length ≤ max 32 k.score.length ∧
      ∀ y ∈ k.score.map (fun y => ((y.lo, y.hi, y.write, y.copies) : Nat × Nat × Bool × List Nat)) ++ spans, ∃ z ∈ sc,
        z.lo ≤ y.1 ∧ y.2.1 ≤ z.hi ∧ (y.2.2.1 = true → z.write = true) ∧ ∀ c ∈ y.2.2.2, c ∈ z.copies) ∧
    (∃ m v, s.gives .k (.shw e n sa mask) (s.post 3 (.shape e n m v)) ∧ words (fun i => decide (i < 500)) m v) ∧
    (∃ m v, s.gives .k (.ttw n sa mask) (s.post 3 (.table n m v)) ∧
      words (fun i => decide (i < 481) && !(60 ≤ i && i ≤ 63) && i != 75 && !(88 ≤ i && i ≤ 95) && !(346 ≤ i && i ≤ 351) &&
        !(409 ≤ i && i ≤ 415)) m v) ∧
    (w < 8 → s.gives .k (.kShr sd e n w) (s.post 1 (.scalar sd (reg.extractLsb' (64 * w) 64)))) ∧
    (eng.queue.length < 2 ^ 9 → ∃ v : Word, s.gives .k (.kShr sd e n 8) (s.post 1 (.scalar sd v)) ∧
      v.extractLsb' 0 48 = eng.record.extractLsb' 0 48 ∧ (v.extractLsb' 48 9).toNat = eng.queue.length ∧
      v.extractLsb' 57 7 = eng.record.extractLsb' 57 7) ∧
    s.gives .k (.kShr sd e n 9) (s.post 1 (.scalar sd eng.failAddr)) ∧
    (w < 8 → s.gives .k (.ttr sd n w) (s.post 1 (.scalar sd ((Tab.get 0 k.tt n).extractLsb' (64 * w) 64))))

/-- 15 R298 to R303, 16 R320, 17 R340: the barrier instructions, the fences, NMRUN and COLL at issue. An update goes behind
the core's waiting ones and applies at once if it may; BWAIT and BTOKEN take an entry that lands at issue + 1; a fence is
in force with its issue number; NMRUN and COLL take an entry with what holds at issue, and COLL the next number of its
communicator.
15 R295, R296, R300, R302: a barrier update applies unless an earlier one of its core on the same barrier waits, or, for
BARRIVE, an earlier access of the core path has not performed. The counts saturate, and while arrived reaches expect and
expect is not 0 a completion takes expect from arrived and advances the phase. No other byte changes. An access that a
FENCE holds does not perform. -/
def Obligations.BarrierResults : Prop :=
  (∀ (s : State) (sb sd st sp p n : Nat) (c : BCount) (b1 b2 : Nat),
     let k := s.me
     let bar := s.barLoc s.cur (k.sc sb)
     let count := match c with | .const n => n | .reg r => (k.sc r).toNat % 2 ^ 48
     let upd (i : Instr) (u : BarUpd) : Prop := s.gives .k i
       ((s.modMe (fun k => { k with barq := k.barq ++ [⟨s.seq, bar, u⟩] })).barStep s.cur s.seq)
     let entry (i : Instr) (kind : AccKind) : Prop := s.gives .k i (s.modMe (fun k => { k with land := k.land ++ [
       { id := s.seq, kind := kind, slot := 8, level := 0, step := k.isStep, elems := [], dest := .scalar sd,
         landAt := some (k.now + 1), since := s.time, walk := false, fault := none }] }))
     let fence (i : Instr) (f : FenceRec) : Prop := ∃ keep, s.gives .k i (s.modMe (fun k => { k with fences := keep ++ [f] })) ∧
       keep.Sublist k.fences ∧ ∀ g ∈ k.fences, g ∈ keep ∨ s.pathBusy s.cur g.p1 g.ord g.before (g.before == 7) = false
     let opt := if sb = 0 then none else some bar
     let num := Tab.get 0 s.scb.seq n
     let run : NmRun :=
       { core := s.cur, id := s.seq, prog := (s.program s.cur p).getD [], block := k.sc sp, bar := opt, layer := k.layer,
         stepNo := s.scb.step, step := k.isStep, started := false, stopped := false, streams := [], rows := 0, params := [], reach := [],
         since := s.time, fault := none }
     upd (.binit sb c) (.init count) ∧ upd (.bexpect sb c) (.expect count) ∧ upd (.barrive sb c) (.arrive count) ∧
     entry (.bwait sd sb st) (.bwait bar ((k.sc st).extractLsb' 0 32)) ∧
     entry (.btoken sd sb) (.btoken bar) ∧
     fence (.fence b1 b2) ⟨s.seq, 0, 0, b1, b2⟩ ∧ fence (.fencex b1 b2) ⟨s.seq, b1, b2, 7, 7⟩ ∧
     s.gives .k (.nmrun sp sb p)
       ({ s with runs := Tab.set s.runs s.seq run }.modMe (fun k => { k with nmRuns := k.nmRuns ++ [s.seq] })) ∧
     s.gives .k (.coll sp sb n)
       { s.modMe (fun k => { k with colls := k.colls ++ [
           { id := s.seq, desc := k.sc sp, bar := opt, comm := n, n := num.toNat, stepNo := s.scb.step,
             step := k.isStep, since := s.time, started := false, block := [], sig := false, done := false, peers := [],
             fault := none }] }) with scb := { s.scb with seq := Tab.set s.scb.seq n (num + 1) } }) ∧
  (∀ (s : State) (c id : Nat) (o : BarOp), (s.core c).barq.find? (fun o => o.id == id) = some o → (s.core o.bar.core).mxReads = [] →
     let k := s.core c
     let x := s.bar o.bar
     let t := s.barStep c id
     let sat (n : Nat) : Nat := min n (2 ^ 48 - 1)
     let before := (∃ q ∈ k.barq, q.id < o.id ∧ q.bar = o.bar) ∨ (∃ n, o.upd = .arrive n) ∧
       ((∃ a ∈ k.land, a.id < o.id ∧ a.open) ∨ ∃ p ∈ k.inFlight, p.ord < o.id ∧ p.eff.isLocal = true ∧ ∀ cells, p.eff ≠ .drain cells)
     let expect := match o.upd with | .init n => n | .expect n => sat (x.expect + n) | .arrive _ => x.expect
     let arrived := match o.upd with | .init _ => 0 | .expect _ => x.arrived | .arrive n => sat (x.arrived + n)
     exec (.barrierUpdate c id) s = .next t ∧
     (before → t = s) ∧
     (¬ before → (∀ n, o.upd = .init n → n < 2 ^ 48) →
       let y := t.bar o.bar
       y.expect = expect ∧
       (expect = 0 → y.arrived = arrived ∧ y.phase = x.phase) ∧
       (expect ≠ 0 → y.arrived < expect ∧ ∃ m, arrived = m * expect + y.arrived ∧ y.phase = (x.phase + m) % 2 ^ 32) ∧
       (∀ d a, d ≠ o.bar.core ∨ a < o.bar.off ∨ o.bar.off + 16 ≤ a → (t.core d).sp.read a = (s.core d).sp.read a) ∧
       (∀ d, t.core d = { s.core d with
         barq := if d = c then k.barq.filter (fun q => q.id != id) else (s.core d).barq, sp := (t.core d).sp }) ∧
       t = { s with cores := t.cores }) ∧
     ∀ a b f idx, a ∈ k.land → b ∈ k.land → f ∈ k.fences → f.p1 = 0 → f.p2 = 0 → b.id < f.ord → f.ord < a.id →
       b.open → Nat.land b.kind.mask f.before ≠ 0 → Nat.land a.kind.mask f.after ≠ 0 →
       k.land.find? (fun y => y.id = a.id) = some a → s.performElem c a.id idx = s)

/-! Near-memory units. -/

/-- 16 R314, R316 to R319: where the current unit has a run that is not stopped, each lane operation writes its lane
register from the operands as they stand, sets OVF for a step run whose floating lane overflows, and goes on to the next
microinstruction; nothing else changes. -/
def Obligations.NearMemoryLanes : Prop :=
  ∀ (s : State) (o : NmOp) (cc : Cond) (qd k n : Nat) (x : NmUnit) (r : NmRun),
    Tab.find s.units s.curUnit = some x → x.run = some n → Tab.find s.runs n = some r → r.stopped = false →
    let cx : NanCtx := ⟨r.layer.toNat, r.stepNo.toNat⟩
    let lanes (i : Instr) (qd : Nat) (f : Nat → FRes) : Prop := ∃ v t, exec i s = .next t ∧
      (∀ l, l < 128 → lane 4 v l = (f l).code % 2 ^ 32) ∧
      t = { s with
        units := Tab.set s.units s.curUnit { x with q := Tab.set x.q qd v, idx := x.idx + 1 },
        ownWord := if r.step && (List.range 128).any (fun l => (f l).ovf) then s.ownWord ||| 4 else s.ownWord }
    let a (l : Nat) : Nat := lane 4 (Tab.get 0 x.q o.na) l
    let b (l : Nat) : Nat := lane 4 (Tab.get 0 x.q o.nb) l
    let c (l : Nat) : Nat := lane 4 (Tab.get 0 x.q o.nc) l
    let int (x : Nat) : Int := (BitVec.ofNat 32 x).toInt
    let wrap (x : Int) : FRes := ⟨(BitVec.ofInt 32 x).toNat, false⟩
    let f32 (l : List Nat) (g : List FV → Ex) : FRes := fop fmt32 cx .rne l g
    let ar (i : Instr) (g : Int → Int → Int) (h : FV → FV → Ex) : Prop :=
      lanes i o.nd (fun l => if o.i32 then wrap (g (int (a l)) (int (b l))) else f32 [a l, b l] (bin h))
    let mx (x y : Nat) : Nat := if o.i32 then (BitVec.ofInt 32 (max (int x) (int y))).toNat else fMinMax fmt32 false x y
    let mn (x y : Nat) : Nat := if o.i32 then (BitVec.ofInt 32 (min (int x) (int y))).toNat else fMinMax fmt32 true x y
    lanes (.nparam qd k) qd (fun _ => ⟨(r.params.getD k 0).toNat, false⟩) ∧
    ar (.nadd o) (· + ·) exAdd ∧ ar (.nsub o) (· - ·) (fun x y => exAdd x y.neg) ∧ ar (.nmul o) (· * ·) exMul ∧
    lanes (.nfma o) o.nd (fun l => f32 [a l, b l, c l] (tri exFma)) ∧
    lanes (.ndiv o) o.nd (fun l => f32 [a l, b l] (bin exDiv)) ∧
    lanes (.nsqrt o) o.nd (fun l => f32 [a l] (una exSqrt)) ∧
    lanes (.nrsq o) o.nd (fun l => f32 [a l] (una exRsq)) ∧
    lanes (.nmax o) o.nd (fun l => ⟨mx (a l) (b l), false⟩) ∧
    lanes (.nmin o) o.nd (fun l => ⟨mn (a l) (b l), false⟩) ∧
    lanes (.nabs o) o.nd (fun l =>
      if o.i32 then wrap |int (a l)|
      else if (fvOf fmt32 (a l)).isNan then ⟨quietNan fmt32 (a l), false⟩
      else ⟨a l % 2 ^ 31, false⟩) ∧
    lanes (.ncmp o cc) o.nd (fun l =>
      ⟨if (if o.i32 then intCond cc (int (a l)) (int (b l)) (a l) (b l) else fCond fmt32 cc (a l) (b l)) then 2 ^ 32 - 1 else 0,
        false⟩) ∧
    lanes (.nsel o) o.nd (fun l => ⟨if (c l).testBit 0 then a l else b l, false⟩) ∧
    lanes (.nclamp o) o.nd (fun l => ⟨mn (mx (a l) (b l)) (c l), false⟩) ∧
    lanes (.ncvt 0 o.nd o.na) o.nd (fun l =>
      let y := cvt .rne .bf16 .f32 (a l)
      ⟨if (fvOf fmt32 (a l)).isNan then (cvt .rne .f32 .bf16 y.code).code else y.code * 2 ^ 16, y.ovf⟩) ∧
    lanes (.ncvt 1 o.nd o.na) o.nd (fun l => cvt .rne .i32 .f32 (a l)) ∧
    lanes (.ncvt 2 o.nd o.na) o.nd (fun l => cvt .rne .f32 .i32 (a l))

/-- 16 R316, R318, R321 to R323, 14 R273: NLD and NST work on the row of a stream by 8-byte units, an NST by sectors in a WOS
page: those that the row access has not done yet, tried in the order of their offsets (the model's reading, log 44, as is the
record of old bytes that a row which fails is undone by). A unit that can perform reads or writes memory, an NST's adding its bytes'
arrivals to the run's barrier; once every unit has, the lane register holds the row and the program goes on. NLOOP goes to its
target on the unit's next row, if it has one; NEND ends the run on the unit, which takes the first run queued on it that has
a row there. -/
def Obligations.NearMemoryControl : Prop :=
  ∀ (s : State) (qd st target n : Nat) (x : NmUnit) (r : NmRun) (m : Stream),
    Tab.find s.units s.curUnit = some x → x.run = some n → Tab.find s.runs n = some r → r.stopped = false →
    r.streams[st]? = some m →
    let u := s.curUnit
    let va := m.va + BitVec.ofNat 64 (512 * x.row)
    let ipa := m.ipa + 512 * x.row
    let size := if s.onType 4 ipa 2 then 32 else 8
    let row := (List.range 512).map (fun i => (Tab.get 0 x.q qd).extractLsb' (8 * i) 8)
    let todo (size : Nat) : List Nat := ((List.range (512 / size)).map (size * ·)).filter (fun o => Tab.find x.part o = none)
    let put (s : State) (y : NmUnit) : State := { s with units := Tab.set s.units u y }
    let goes (i : Instr) (t : State) : Prop := exec i s = .next t
    let mine (row : Nat) : Bool := decide (row < r.rows) && r.unitOf row == u
    (∀ w, State.loadRow u r st m x.row (todo 8) s = w →
      let y := w.unit u
      if y.run = some n ∧ y.part.length = 64 then
        ∃ v, goes (.nld qd st) (put w { y with q := Tab.set y.q qd v, part := [], idx := y.idx + 1 }) ∧
          ∀ i, i < 512 → v.extractLsb' (8 * i) 8 = (y.part.flatMap (·.2)).getD i 0
      else goes (.nld qd st) w) ∧
    (∀ w, State.storeRow u r st m x.row size row (todo size) s = w →
      let y := w.unit u
      goes (.nst st qd) (if y.run = some n ∧ y.part.length * size = 512 then put w { y with part := [], idx := y.idx + 1 } else w)) ∧
    (∀ (z : State) (off : Nat) (rest : List Nat) (p : PageRef),
      let read := z.rowIssuer r u x.row st off
      let at' := ipa + off
      z.waitOf read.key = none → z.turnAt read.key at' = true →
      (z.pageChk read .read at' = .ok p → (p.leaf.type = 2 → ∀ k, k < 8 → z.isWritten (p.pa at' + k) = true) →
        let w := (z.leave read.key).atHome at' false true
        State.loadRow u r st m x.row (off :: rest) z = State.loadRow u r st m x.row rest
          (put w { w.unit u with part := Tab.set (w.unit u).part off (z.rdBytes p.leaf.v r.step (p.pa at') 8) })) ∧
      (z.pageChk read .write at' = .ok p → p.leaf.type ≠ 2 → p.leaf.tier ≤ 1 →
        let l := (row.drop off).take 8
        let w := (((z.wrBytes p.leaf.v r.step none (p.pa at') l).dropCached none at' 8).leave read.key).atHome at' true true
        let w := put w { w.unit u with
          part := Tab.set (w.unit u).part off []
          undo := (w.unit u).undo ++ [⟨at', z.rdBytes p.leaf.v r.step (p.pa at') 8, z.isWritten (p.pa at')⟩] }
        off + 8 ≤ 512 → State.storeRow u r st m x.row 8 row (off :: rest) z = State.storeRow u r st m x.row 8 row rest
          (match r.bar with | some b => w.barApply b (.arrive 8) | none => w)) ∧
      ∀ code, z.pageChk read .read at' = .fail code →
        State.loadRow u r st m x.row (off :: rest) z =
          (z.leave read.key).unitFail u r code (va + BitVec.ofNat 64 off) at' false) ∧
    (∀ row, x.row < row → mine row → (∀ y, x.row < y → y < row → mine y = false) →
      goes (.nloop target) (put s { x with row := row, idx := target, undo := [] })) ∧
    ((∀ row, x.row < row → mine row = false) → goes (.nloop target) (put s { x with idx := x.idx + 1 })) ∧
    (x.queue = [] → goes .nend (put s NmUnit.idle)) ∧
    ∀ y rest w row, x.queue = y :: rest → Tab.find s.runs y = some w → row < w.rows → w.unitOf row = u →
      (∀ z, z < row → w.unitOf z ≠ u) →
      goes .nend (put s ⟨[], some y, row, 0, rest, [], []⟩)

/-! Accesses in flight. -/

/-- 14 R273, R274, R278, R281, 15 R308, R309, 13 R246, R261, R262, 11 R215, R222, R225, R224: a unit that nothing holds back
performs. A read at level 4 answers the bytes that its issuer sees, from a copy above the home where there is one; a write or
atomic puts its bytes in the version slot, in the writer's L2 (whose copy of the sector then holds them, log 7) or in memory.
An atomic in its die's L2 slice acts on the slice's own copy, and one atomic at a time is served in a sector, in the order
in which they came. Levels 2 and 3 reach the member's scratchpad and the die scratchpad. An entry that returns nothing
leaves once all is done. A failure is recorded on the entry, and a step task sets FAULT; an entry that has failed performs no more. -/
def Obligations.AccessesPerform : Prop :=
  ∀ (s : State) (c : Nat) (a : Access) (e : Elem),
    (s.core c).land.find? (fun b => b.id == a.id) = some a → a.elems.find? (fun x => x.idx == e.idx) = some e →
    e.done = false →
    let iss := (s.core c).issuer c a.step .core (.core c a.id e.idx)
    let u := s.unitOf a e
    let put (s : State) (b : Access) : State :=
      s.modCore c (fun k => { k with land := k.land.map (fun y => if y.id = b.id then b else y) })
    let got (l : List Byte) : Access :=
      { a with elems := a.elems.map (fun x => match u.els.find? (fun y => y.1 = x.idx) with
        | some y => { x with done := true, got := (l.drop y.2.1).take y.2.2 }
        | none => x) }
    let flag (s : State) (b : Bool) (bits : BitVec 16) : State := if b && a.step then { s with ownWord := s.ownWord ||| bits } else s
    let answers (t : State) : Prop :=
      exec (if a.landAt.isSome then .dataLanding c a.id (some e.idx) else .storeAcknowledge c a.id (some e.idx)) s = .next
        (if a.landAt.isSome then t else t.modCore c (fun k => { k with land := k.land.filter (fun b =>
          !(b.id == a.id && b.landAt.isNone && b.fault.isNone && !b.open)) }))
    let failure (code : Nat) (write : Bool) : FaultRec :=
      { code := code, slot := a.slot, data := true, write := write, addr := e.va, ipa := e.loc, access := some a.id }
    let die (l : Leaf) (slice : Bool) : Option Nat := if slice && l.dirtyL2 && !s.inSpan u.loc then some (c / 64) else none
    let near (lv : Nat) : Nat × Nat := s.localPlace c lv e.loc
    let mem (lv : Nat) : Mem := (s.core (near lv).1).lm (if lv = 2 then 0 else 2)
    let write (lv : Nat) (l : List Byte) : State :=
      s.localWrite (near lv).1 (if lv = 2 then 0 else 2) (cellsAt (near lv).2 l)
    let home (t : State) (wr keep : Bool) : State := (t.leave iss.key).atHome u.loc wr keep
    let stored (r : PageRef) (l : List Byte) (slice : Bool) : State :=
      let t := (s.wrBytes r.leaf.v a.step (die r.leaf slice) (r.pa u.loc) l).dropCached none u.loc l.length
      match die r.leaf slice with
      | some d => { t with cached := t.cached ++ [
          ⟨d, u.loc / 32, r.leaf, a.step, t.rdBytes false a.step (r.pa u.loc / 32 * 32) 32⟩] }
      | none => t
    let storedNear (x : Cached) (r : PageRef) (l : List Byte) : State :=
      let t := ((s.leave iss.key).wrBytes false a.step (some (c / 64)) (r.pa u.loc) l).dropCached none u.loc l.length
      { t with cached := t.cached ++ [
        { x with data := x.data.take (u.loc % 32) ++ l ++ x.data.drop (u.loc % 32 + l.length) }] }
    let bytes (w : Word) : List Byte := (List.range 8).map (fun b => w.extractLsb' (8 * b) 8)
    let nearBy (x : Cached) (r : PageRef) (kd : AKind) : Prop :=
      s.nearLine iss u.loc = some x ∧ s.walk u.loc = some r ∧ x.check iss kd = none
    (a.fault.isSome = true → answers s) ∧
    (a.fault = none → s.unitWaits c a e u = false →
      (a.level = 4 → s.aliasElse iss a e = false →
        (∀ x, a.kind = .load → s.cachedFor iss u.loc = some x → x.leaf.get 7 7 = 1 → x.leaf.type ≠ 3 →
          answers (put s (got ((x.data.drop (u.loc % 32)).take u.n)))) ∧
        (∀ x r l, a.kind = .store → nearBy x r .write → unitData a u = some l → answers (put (storedNear x r l) (got []))) ∧
        (∀ x r op sc v cmp nan nr, a.kind = .atomic op sc v cmp nan nr → e.got = [] → nearBy x r .atomic →
          s.atomWaits iss .slice e.loc = false →
          let old := (x.data.drop (e.loc % 32)).take 8
          let new := atomNew op (BitVec.ofNat 64 (ofLe old)) v cmp nan
          u.loc = e.loc ∧ answers (flag (put (storedNear x r (bytes new.1)) (got old)) new.2 4)) ∧
        (s.turnAt iss.key u.loc = true →
          (a.kind = .load → s.cachedFor iss u.loc = none → s.waitOf iss.key = none → ∀ r, s.pageChk iss .read u.loc = .ok r →
            (r.leaf.type = 2 → ∀ k, k < u.n → s.isWritten (r.pa u.loc + k) = true) →
            answers (put (home s false true) (got (s.rdBytes r.leaf.v a.step (r.pa u.loc) u.n)))) ∧
          (a.kind = .store → s.nearLine iss u.loc = none → ∀ r l, s.pageChk iss .write u.loc = .ok r → unitData a u = some l →
            (r.leaf.type ≠ 2 → answers (put (home (stored r l true) true true) (got []))) ∧
            (r.leaf.type = 2 → l.length = 32 → r.pa u.loc % 32 = 0 → s.isWritten (r.pa u.loc) = false →
              answers (put (home ((s.wrBytes false a.step none (r.pa u.loc) l).setWritten a.step (r.pa u.loc) true) true true)
                (got [])))) ∧
          ∀ op sc v cmp nan nr, a.kind = .atomic op sc v cmp nan nr → e.got = [] → s.nearLine iss e.loc = none →
            ∀ r, s.pageChk iss .atomic e.loc = .ok r →
            let ip := r.leaf.type = 3
            let slice := (ip ∧ r.leaf.v = false) ∨
              (r.leaf.type = 0 ∧ r.leaf.m = false ∧ r.leaf.v = false ∧ r.leaf.tier = 0 ∧ (sc = .gang ∨ sc = .die))
            let near := r.leaf.type = 0 ∧ r.leaf.m = true
            s.atomWaits iss (if slice then .slice else if near then .near else .home) e.loc = false →
            let old := s.rdBytes r.leaf.v a.step (r.pa e.loc) 8
            let new := atomNew op (BitVec.ofNat 64 (ofLe old)) v cmp nan
            u.loc = e.loc ∧
              answers (flag (put (home (stored r (bytes new.1) (decide slice)) true (decide ¬near)) (got old)) new.2 4)) ∧
        ∀ code,
          ((a.kind = .load ∧ s.cachedFor iss u.loc = none ∧ s.waitOf iss.key = none ∧ s.pageChk iss .read u.loc = .fail code) ∨
            ∃ op sc v cmp nan nr, a.kind = .atomic op sc v cmp nan nr ∧ e.got = [] ∧ s.nearLine iss e.loc = none ∧
              s.pageChk iss .atomic e.loc = .fail code) →
          answers (if (s.core c).killed then put (s.leave iss.key) (a.answered e.idx)
            else flag (put (s.leave iss.key) { a with fault := some (failure code (a.kind != .load)) }) (code != fcTrap) 16)) ∧
      ∀ lv, lv = 2 ∨ lv = 3 → a.level = lv →
        (a.kind = .load → answers (put s (got ((mem lv).reads (near lv).2 e.n)))) ∧
        (a.kind = .store → answers (put (write lv e.data) (got []))) ∧
        (∀ op sc v cmp nan nr, a.kind = .atomic op sc v cmp nan nr →
          let old := (mem lv).reads (near lv).2 8
          let new := atomNew op (BitVec.ofNat 64 (ofLe old)) v cmp nan
          answers (flag (put (write lv (bytes new.1)) (got old)) new.2 4)))

/-- 13 R261 to R263: a write of the open attempt to a versioned block goes to a slot that only the attempt's own
tasks read. They read the new bytes there and the old ones in the rest of the block; every other reader reads as before,
and every other block of both memories is unchanged; no two valid
slots of a block that are not final come to share a tag. Once the attempt's bit is set and it is the last, every reader reads
what the attempt's tasks read. -/
def Obligations.TentativeWrites : Prop :=
  ∀ (s : State) (die : Option Nat) (pa : Nat) (l : List Byte),
    1 ≤ s.stepState → s.stepState ≤ 3 → s.commitBits.getLsbD (s.attempt % 4096) = false → pa % 512 + l.length ≤ 512 →
    let b := pa / 512
    let t := s.wrBytes true true die pa l
    let read (s : State) (step : Bool) (x : Nat) : List Byte := s.rdBytes true step x 1
    let twins (s : State) (y : Nat) : Prop :=
      (∀ k, k < 2 → mdVal (s.slotMd y k) = true ∧ mdFin (s.slotMd y k) = false) ∧ mdTag (s.slotMd y 0) = mdTag (s.slotMd y 1)
    (∀ x, read t false x = read s false x) ∧
    (∀ x, x / 512 = b → read t true x =
      if h : pa ≤ x ∧ x - pa < l.length then [l[x - pa]'h.2] else read s true x) ∧
    (∀ x, x / 512 ≠ b → read t true x = read s true x ∧ t.mem0.read x = s.mem0.read x ∧ t.mem1.read x = s.mem1.read x) ∧
    t = { s with mem0 := t.mem0, mem1 := t.mem1, slotMeta := t.slotMeta, gathers := t.gathers } ∧
    (∀ y, twins t y → twins s y) ∧
    ∀ bits : BitVec 4096, bits.getLsbD (s.attempt % 4096) = true → (∀ n, n ≠ s.attempt % 4096 → bits.getLsbD n = s.commitBits.getLsbD n) →
      ∀ x, x / 512 = b → read { t with commitBits := bits, last := s.attempt, stepState := 0 } false x = read t true x

/-- 18 R349, 14 R282, 11 R226, 15 R301, 10 R194, 18 R357, R362: the waits that time out, and soft errors. A level-4 access
whose waits freeze its core for 200 ms fails with its first unit that has not performed, and a read that has waited 1 ms for
an unwritten sector with that unit; a link queue's 100 μs and a matrix instruction's 100 ms fail before issue, for a bundle
that waits under that cause alone, a BWAIT's 100 ms at its landing cycle; an HPAGE that waits 100 ms has 1 as its result. The
records of waits before issue hold address 0 (the model's reading, log 33); a lost accumulator holds free words (log 3). -/
def Obligations.WaitTimeouts : Prop :=
  ∀ (s : State) (c : Nat),
    let k := s.core c
    let replace (b : Access) (f : FaultRec) : Core :=
      { k with land := k.land.map (fun y => if y.id = b.id then { b with fault := some f } else y) }
    let flag (s : State) (b : Bool) (bits : BitVec 16) : State := if b then { s with ownWord := s.ownWord ||| bits } else s
    let record (a : Access) (e : Elem) (code : Nat) : FaultRec :=
      { code := code, slot := a.slot, data := true, write := a.kind.writes, addr := e.va,
        ipa := if a.level = 4 then e.loc else 0, access := some a.id }
    let failed (s : State) (a : Access) (e : Elem) (code : Nat) : State := flag (s.setCore c (replace a (record a e code))) a.step 16
    let frozen (m cause ns : Nat) : Bool := match Tab.find (s.core m).waits cause with
      | some t => decide (t + ns ≤ s.time)
      | none => false
    let late (a : Access) (x : Elem) : Bool := match s.waiting.find? (fun w => w.iss.key == .core c a.id x.idx) with
      | some w => w.wos && w.got.isNone && decide (w.since + 1000000 ≤ s.time)
      | none => false
    let goes (i : Instr) (t : State) : Prop := exec i s = .next t
    let before (i : Instr) (cause ns code : Nat) : Prop := ∀ first t ws w, s.beforeIssue c = some (first, t) →
      t.ready first (s.gang first) false = .waits ws →
      ws.find? (fun w => w.2.2 == cause && frozen w.1 cause ns) = some w →
      goes i (s.takeFault w.1 { code := code, slot := slotNo w.2.1 })
    (∀ (a : Access) (e : Elem), k.land.find? (fun b => b.id == a.id) = some a → a.fault = none → a.kind.mask ≠ 0 →
      k.killed = false →
      (a.elems.find? (fun x => !x.done) = some e →
        a.level = 4 → (∃ t, a.landAt = some t ∧ t ≤ k.now) → s.lateCause c a ∈ [0, 1, 8] → frozen c 0 200000000 = true →
        goes (.memTimeout c a.id) (failed s a e 0x0505)) ∧
      (a.elems.find? (fun x => !x.done && late a x) = some e →
        goes (.wosWait c a.id)
          (failed { s with waiting := s.waiting.filter (fun w => w.iss.key != .core c a.id e.idx) } a e 0x040D))) ∧
    before (.lqTimeout c) 3 100000 0x0502 ∧
    (k.shadow = none → k.killed = false → (∀ b ∈ k.land, ∀ x tok, b.kind ≠ .bwait x tok) →
      before (.barTimeout c) 2 100000000 0x0503) ∧
    (k.shadow = none → k.killed = false → frozen c 0 100000000 = true → ∀ b x tok t, k.land = [b] → b.kind = .bwait x tok →
      b.landAt = some t → t ≤ k.now → b.fault = none → s.barPassed x tok.toNat = false →
      goes (.barTimeout c) (flag (s.setCore c
        { k with land := [{ b with fault := some { code := 0x0503, slot := 8, data := true, access := some b.id } }] })
        k.isStep 16)) ∧
    (∀ h p, k.shadow = some h → h.wait = some p → p.since + 100000000 ≤ s.time → s.walk p.ipa = none →
      ∃ l, goes (.hpageTimeout c) (s.setCore c { k with shadow := some { h with wait := none, pend := l } }) ∧
        ∀ q, q ∈ l ↔ q ∈ h.pend ∨ q = ⟨h.now, p.ord, .scalar p.dest 1⟩) ∧
    goes (.softError .corrected) (s.count 0x40) ∧
    (∀ a e, k.land.find? (fun b => b.id == a.id) = some a → a.elems.find? (fun x => x.idx == e.idx) = some e → a.kind = .load →
      a.fault = none → k.killed = false →
      goes (.softError (.uncorrectableAccess c a.id e.idx))
        (flag ((s.count 0x41).setCore c (replace a (record a e 0x0602))) a.step 24)) ∧
    (∀ n, c ≤ 255 → n ≤ 7 → ∃ l v, goes (.softError (.accumulator c n))
        { s.setCore c { k with acc := Tab.set k.acc n v, accBad := l } with fresh := s.fresh + 4096 } ∧
      (∀ m, m ∈ l ↔ m = n ∨ m ∈ k.accBad) ∧ ∀ j, j < 4096 → v[j]? = some (Config.freeWord (s.fresh + j)))

/-! Engines. -/

/-- 12 R235, R240, R242, 23 R405, R238: a copy of one piece within the scratchpad moves its bytes and retires; a copy whose
source no range holds fails, leaves its record, takes every copy behind it along, sets FAULT and tells the host. A write packet
of one sector is written at the home, counted where it says and acknowledged with the code; an acknowledged packet leaves what
is outstanding and arrives at the copy's barrier, unless the core has been killed; a read request of one sector is answered with
its bytes. The form of that answer (Out.readReply) and the numbers of other devices' requests (nextRemote) are the model's
choice (log 16). -/
def Obligations.CopyEvents : Prop :=
  ∀ (s : State) (c : Nat) (e : Eng) (q : Copy) (rest : List Copy) (code : Nat) (p : WritePkt) (src ipa len : Nat) (step : Bool),
    let k := s.core c
    let g (k : Core) : Engine := match e with | .a => k.engA | .b => k.engB
    let goes (i : Instr) (P : State → Prop) : Prop := ∃ t, exec i s = .next t ∧ P t
    let n := (q.sh.extractLsb' 480 12).toNat + 1
    let data := (k.view 0 q.id).reads (tBase q.tS) n
    let fresh : Prop := q.next = 0 ∧ q.early = [] ∧ q.emitted = 0 ∧ q.flight = [] ∧ q.asked = [] ∧ q.outst = [] ∧ q.wrote = [] ∧
      q.origin = none ∧ q.failed = false
    let one (ipa n : Nat) : Prop := 0 < n ∧ ipa / 32 = (ipa + n - 1) / 32
    let remote (step : Bool) : Issuer := ⟨step, 0, 0, 0, .remote, .remote s.nextRemote 0⟩
    let ack (code : Nat) : List Byte := leBytes 8 p.ipa ++ leBytes 2 code ++ leBytes 1 p.core ++ leBytes 1 (engCode p.eng) ++ leBytes 4 0
    let acked (s : State) (code : Nat) : State := (s.sendPacket 1 p.src 0 [ack code]).getD s
    let arrive (s : State) : State :=
      if p.arrivals then
        (if (s.core p.core).begun then s.barApply ⟨p.core, p.barrier⟩ (.arrive p.data.length) else s.countN 0x63 p.data.length)
      else s
    let came (r : RemoteReq) : State := { s with remote := s.remote ++ [(s.nextRemote, r)], nextRemote := s.nextRemote + 1 }
    let left (t : State) : State := { t with remote := s.remote }
    let alone (dev : Nat) : Prop := (∀ y ∈ s.remote, y.1 ≠ s.nextRemote ∧ y.2.span.1 ≠ dev) ∧
      ∀ m l, s.turns ≠ .remote m true :: l
    ((g k).queue = [q] → fresh → q.form = .copy → nestTotal q.sh = 1 → n % 32 = 0 → q.bar = none → tLevel q.tS = 0 →
      tLevel q.tD = 0 → (g k).failed = false → k.killed = false → k.fences = [] → k.mxReads = [] →
      (∀ x ∈ k.inFlight, ∀ d o op v cmp nan, x.eff = .atom d o op v cmp nan → x.ord < q.id →
        o + 8 ≤ tBase q.tS ∨ tBase q.tS + n ≤ o) →
      (∀ i, i < n → s.barBusy c (tBase q.tD + i) = false) →
      goes (.copyRetire c e) (fun t =>
        (∀ i, i < n → (t.core c).sp.read (tBase q.tD + i) = data.getD i 0) ∧
        (∀ a, a < tBase q.tD ∨ tBase q.tD + n ≤ a → (t.core c).sp.read a = k.sp.read a) ∧
        g (t.core c) = { g k with queue := [] } ∧ (∀ x ∈ (t.core c).score, q.id ∉ x.copies) ∧
        (∀ d, d ≠ c → t.core d = s.core d) ∧ t = { s with cores := t.cores })) ∧
    ((g k).queue = q :: rest → fresh → q.form = .copy → 0 < nestTotal q.sh → n % 32 = 0 → tLevel q.tS = 4 →
      (g k).failed = false → k.killed = false → k.fences = [] → (g k).requests < 2048 →
      (∀ y ∈ rest, y.outst = [] ∧ y.asked = [] ∧ y.emitted = 0) →
      let bad := tBase q.tS + sOff q.sh 0
      translate s.deviceId k.rg (entAddr q.tS bad) .read true = .error code → (g k).record.getLsbD 16 = false →
      goes (.copyFailure c e code) (fun t =>
        let r := (g (t.core c)).record
        (g (t.core c)).queue = [] ∧ (g (t.core c)).failed = true ∧
        (g (t.core c)).failAddr = entAddr q.tS bad ∧ (r.extractLsb' 0 16).toNat = code ∧ r.getLsbD 16 = true ∧
        r.getLsbD 17 = false ∧ r.extractLsb' 18 14 = (g k).record.extractLsb' 18 14 ∧
        (r.extractLsb' 32 16).toNat = q.num % 2 ^ 16 ∧ (∀ x ∈ (t.core c).score, q.id ∉ x.copies) ∧
        t.ownWord = (if q.step then s.ownWord ||| 16 else s.ownWord) ∧
        ∀ z, s.session = some z → ∃ pl, t.out = s.out ++ [.event z.id (z.txSeq + 1) (z.evNum + 1) 0x81 pl])) ∧
    (let w := came (.write p 0)
     one p.ipa p.data.length → alone p.src → w.turnAt (remote p.step).key p.ipa = true → ∀ r,
      w.pageChk (remote p.step) .write p.ipa = .ok r → r.leaf.type ≠ 2 →
      exec (.writePacket p) s = .next (left (acked (arrive
        ((((w.wrBytes r.leaf.v p.step none (r.pa p.ipa) p.data).dropCached none p.ipa p.data.length).leave
          (remote p.step).key).atHome p.ipa true true)) 0))) ∧
    (let w := came (.write p 0)
     one p.ipa p.data.length → alone p.src → ∀ bad, w.pageChk (remote p.step) .write p.ipa = .fail bad →
      exec (.writePacket p) s = .next (left (acked (w.leave (remote p.step).key) bad))) ∧
    (let w := came (.read src ipa len step [])
     one ipa len → alone src → w.waitOf (remote step).key = none →
      (w.turnAt (remote step).key ipa = true → ∀ r, w.pageChk (remote step) .read ipa = .ok r → r.leaf.type ≠ 2 →
        let t := (w.leave (remote step).key).atHome ipa false true
        exec (.remoteReadRequest src ipa len step) s = .next
          (left { t with out := t.out ++ [.readReply src ipa 0 (w.rdBytes r.leaf.v step (r.pa ipa) len)] })) ∧
      ∀ bad, w.pageChk (remote step) .read ipa = .fail bad →
        let t := w.leave (remote step).key
        exec (.remoteReadRequest src ipa len step) s = .next (left { t with out := t.out ++ [.readReply src ipa bad []] })) ∧
    ∀ addr, (g k).queue = [q] → q.failed = false → q.origin = none → q.outst = [⟨src, ipa, len, addr⟩] → 0 < len →
      let w := s.modCore c (fun k => match e with
        | .a => { k with engA := { k.engA with queue := [{ q with outst := [] }] } }
        | .b => { k with engB := { k.engB with queue := [{ q with outst := [] }] } })
      exec (.writePacketAck ⟨src, ipa⟩ 0 c e) s = .next
        (if k.killed then w else match q.bar with | some b => w.barApply b (.arrive len) | none => w)

/-- 17 R344: what a member's destination takes, in elements of the collective's type. An all-reduce and a reduce-scatter
combine the members' elements in rank order, an all-gather joins their sources, a broadcast copies the root's. -/
def Obligations.CollectiveValues : Prop :=
  ∀ (d : CollDesc) (n rank : Nat) (cx : NanCtx) (src : List (List Byte)),
    src.length = n → 0 < n → rank < n → d.root < n →
    let t := collType d.type
    let w := t.width
    let out := (collResult d n rank cx src).1
    let el (l : List Byte) (i : Nat) : Nat := ofLe ((l.drop (i * w)).take w)
    let comb (a b : Nat) : Nat :=
      if t.isFloat then
        (if d.op = 0 then (fop (fmtOf t) cx .rne [a, b] (bin exAdd)).code else fMinMax (fmtOf t) (d.op == 2) a b)
      else
        let x := intVal t.isSigned (8 * w) a
        let y := intVal t.isSigned (8 * w) b
        (BitVec.ofInt (8 * w) (if d.op = 0 then x + y else if d.op = 1 then max x y else min x y)).toNat
    let red (i : Nat) : Nat := match src.map (fun l => el l i) with | [] => 0 | v :: r => (fun x => if t.isFloat then quietCode (fmtOf t) x else x) (r.foldl comb v)
    (d.kind = 0 → out.length = d.count * w ∧ ∀ i, i < d.count → el out i = red i % 2 ^ (8 * w)) ∧
    (d.kind = 1 → out.length = d.count * w ∧ ∀ i, i < d.count → el out i = red (rank * d.count + i) % 2 ^ (8 * w)) ∧
    ((∀ l ∈ src, l.length = d.count * w) →
      (d.kind = 2 → out.length = n * d.count * w ∧ ∀ j i, j < n → i < d.count → el out (j * d.count + i) = el (src.getD j []) i) ∧
      (d.kind = 3 → out = src.getD d.root []))

/-- 16 R321 to R323: a run whose block, spans and pages pass every check starts: it takes its streams, rows and parameters, the
caches give up its spans, and it is to reach every unit that has a row of it, each taking it at once or in its queue; one that does
not pass records why, with FAULT. It retires when no unit has it or is to be reached; one that has been stopped stays. -/
def Obligations.NearMemoryRunEvents : Prop :=
  ∀ (s : State) (run u row : Nat) (r : NmRun),
    Tab.find s.runs run = some r →
    let k := s.core r.core
    let free : Prop := r.started = false ∧ r.stopped = false ∧ r.fault = none ∧ k.fences = [] ∧
      ∀ m ∈ k.nmRuns, m < run → ∀ y, Tab.find s.runs m = some y → y.started = true
    let running (now : Nat) (ts : List Stream) (rows : Nat) (params : List (BitVec 32)) : NmRun :=
      let r : NmRun := { r with started := true, streams := ts, rows := rows, params := params, since := now }
      { r with reach := r.units }
    let starts (w : State) (ts : List Stream) (rows : Nat) (params : List (BitVec 32)) : Prop :=
      exec (.nmRunStart run) s = .next ((ts.filter (·.valid)).foldl (fun s t => s.flushSpan t rows)
        { w with runs := Tab.set w.runs run (running w.time ts rows params) })
    let block := k.sp.reads (r.block.toNat % 2 ^ 56) 256
    let fields := nmFields block
    let va (w : Word) : Word := BitVec.ofNat 64 (fld w.toNat 56 0)
    (free → (0xF0 * 2 ^ 56 ≤ r.block.toNat) → nmParamBad r.prog block = false → ∀ base : Word → Nat,
      (∀ w ∈ fields.1, w.getLsbD 57 = true → ∃ g dev,
        spanRange k.rg (va w).toNat (512 * fields.2.1) (if w.getLsbD 58 then .write else .read) = .ok g ∧
        translate s.deviceId k.rg (va w) .read false = .ok (dev, base w)) →
      (∀ w ∈ fields.1, ∀ y ∈ fields.1, w.getLsbD 57 = true → y.getLsbD 57 = true → base w % 2 ^ 34 = base y % 2 ^ 34) →
      let ts := fields.1.map (fun w => (⟨w.getLsbD 57, w.getLsbD 58, va w, if w.getLsbD 57 then base w else 0⟩ : Stream))
      (∀ y ∈ s.nmPages (s.rowIssuer r 0 0 0 0) ts fields.2.1, ∃ p, y.chk = .ok p) →
      starts s ts fields.2.1 fields.2.2) ∧
    (free → ∀ w ts rows params, s.nmCheck r = .go w ts rows params → starts w ts rows params) ∧
    (free → ∀ w code a i wr, s.nmCheck r = .fail w code a i wr → code ≠ 0x0800 →
      exec (.nmRunStart run) s = .next (
        let f : FaultRec := { code := code, slot := 8, data := true, write := wr, addr := a, ipa := i, access := some r.id }
        let t : State := { w with runs := Tab.set w.runs run { r with fault := some f } }
        if r.step then { t with ownWord := t.ownWord ||| 16 } else t)) ∧
    (∀ (now rows : Nat) (ts : List Stream) (ps : List (BitVec 32)) (x : Nat),
      x ∈ (running now ts rows ps).reach ↔ ∃ y, y < rows ∧ (running now ts rows ps).unitOf y = x) ∧
    (s.mayReach run u = true → row < r.rows → r.unitOf row = u → (∀ y, y < row → r.unitOf y ≠ u) →
      let x := s.unit u
      s.reachUnit run u = { s with
        runs := Tab.set s.runs run { r with reach := r.reach.erase u }
        units := Tab.set s.units u (if x.run = none then { x with q := [], run := some run, row := row, idx := 0, part := [], undo := [] }
          else { x with queue := x.queue ++ [run] }) }) ∧
    (r.started = true → r.stopped = false → (∀ y ∈ s.units, y.2.run ≠ some run ∧ run ∉ y.2.queue) → r.reach = [] →
      exec (.nmRunRetire run) s = .next ({ s with runs := Tab.del s.runs run }.modCore r.core (fun k =>
        { k with nmRuns := k.nmRuns.filter (fun m => m != run) }))) ∧
    (r.stopped = true → exec (.nmRunRetire run) s = .next s)

/-- 17 R342 to R345: a collective whose descriptor, spans and pages pass every check starts and takes the members that have come;
with every member there, equal tuples and numbers, and the signal it asks for, it reads its source, then combines, writes and is
done; it retires when done. That the members come as arguments is the model's choice (log 17), that every source byte is read
before anything is combined or written, and OVF set then, its reading (log 44). A member that disagrees fails it, and so does a wait of 100 ms for the signal or the others; then
its communicator halts. -/
def Obligations.CollectiveEvents : Prop :=
  ∀ (s : State) (c : Nat) (x : CollRec) (peers : List Peer),
    let k := s.core c
    k.colls.find? (fun y => y.id == x.id) = some x →
    let set (k : Core) (y : CollRec) : Core := { k with colls := k.colls.map (fun z => if z.id = y.id then y else z) }
    let ready : Prop := x.done = false ∧ x.fault = none ∧ k.killed = false ∧ k.fences = [] ∧ x.comm ∉ s.halted ∧
      (∀ e ∈ s.cores, ∀ y ∈ e.2.colls, y.comm = x.comm → y.id < x.id → y.done = true)
    let cm := s.comm x.comm
    let n := commCount cm
    let rank := commRank cm s.deviceId
    let flag (s : State) (b : Bool) (bits : BitVec 16) : State := if b then { s with ownWord := s.ownWord ||| bits } else s
    let of (g : Gather) : Bool := g.core == c && g.id == x.id
    let member (p : Peer) : Prop := p.rank ≠ rank ∧ p.rank < n
    let agrees (d : CollDesc) (p : Peer) : Prop := p.seqNo = x.n ∧ p.tuple = collTuple x.comm d
    let starts (w : State) (l : List Byte) (src : Nat) (peers : List Peer) : Prop :=
      exec (.collStart c x.id peers) s = .next
        ({ w with gathers := w.gathers ++ [(⟨c, x.id, src, (collFields l).srcLen n, [], [], none, 0⟩ : Gather)] }.modCore c (fun k =>
          set k { x with started := true, block := l, since := w.time, peers := peers }))
    let desc := k.sp.reads (x.desc.toNat % 2 ^ 56) 64
    (ready → x.started = false → x.peers = [] → (0xF0 * 2 ^ 56 ≤ x.desc.toNat) →
      let d := collFields desc
      d.bad n = false → d.flags = 0 → ∀ g1 g2 dev1 dev2 src dst, spanRange k.rg d.src (d.srcLen n) .read = .ok g1 →
      spanRange k.rg d.dst (d.dstLen n) .write = .ok g2 →
      translate s.deviceId k.rg (BitVec.ofNat 64 d.src) .read false = .ok (dev1, src) →
      translate s.deviceId k.rg (BitVec.ofNat 64 d.dst) .write false = .ok (dev2, dst) →
      (∀ y ∈ s.collPages (s.collIssuer c x 0) d.src src (d.srcLen n) .read false ++
        s.collPages (s.collIssuer c x 0) d.dst dst (d.dstLen n) .write false, ∃ p, y.chk = .ok p) →
      starts s desc src []) ∧
    (ready → x.started = false → x.peers = [] → ∀ w l src dst sig, s.collCheck c x = .go w l src dst sig → w.comms = s.comms →
      w.deviceId = s.deviceId → (collFields l).flags = 0 →
      (∀ p ∈ peers, member p → agrees (collFields l) p) → starts w l src peers) ∧
    (∀ src dst sig w1 own g h, ready → x.started = true → s.collCheck c x = .go s x.block src dst sig →
      let d := collFields x.block
      let s0 := s.modCore c (fun k => set k x)
      (d.flags = 0 ∨ x.sig = true) → (∀ p ∈ x.peers, member p ∧ agrees d p) → (∀ j, j < n → j ≠ rank → ∃ p ∈ x.peers, p.rank = j) →
      s.gathers.find? of = some g → s0.collBlocked c x = false → g.out = none →
      State.readParts (fun a => s0.collIssuer c x (a - g.ipa)) (BitVec.ofNat 64 (d.src + g.data.length)) (g.ipa + g.data.length)
        (partsOf (g.ipa + g.data.length) (g.len - g.data.length)) s0 g.data = .ok w1 own →
      w1.gathers.find? of = some h → h.len ≤ own.length → w1.comms = s.comms → w1.deviceId = s.deviceId →
      let data := (List.range n).map (fun j =>
        if j = rank then own else match x.peers.find? (fun p => p.rank = j) with | some p => padTo (d.srcLen n) p.data | none => [])
      let step0 := if rank = 0 then x.stepNo else match x.peers.find? (fun p => p.rank = 0) with | some p => p.step | none => 0
      let res := collResult d n rank ⟨d.layer, step0.toNat⟩ data
      exec (.collStart c x.id []) s = .next (flag { w1 with
        gathers := w1.gathers.map (fun y => if y.core == h.core && y.id == h.id then { h with data := own, out := some res } else y) }
        (res.2 && x.step) 4)) ∧
    (∀ src dst sig w2 b g out o, ready → x.started = true → s.collCheck c x = .go s x.block src dst sig →
      let d := collFields x.block
      let s0 := s.modCore c (fun k => set k x)
      (d.flags = 0 ∨ x.sig = true) → (∀ p ∈ x.peers, member p ∧ agrees d p) → (∀ j, j < n → j ≠ rank → ∃ p ∈ x.peers, p.rank = j) →
      s.gathers.find? of = some g → s0.collBlocked c x = false → g.out = some (out, o) → g.hurt = [] →
      State.writeParts (fun a => s0.collIssuer c x (2 ^ 41 + (a - dst))) true (BitVec.ofNat 64 (d.dst + g.wrote)) (dst + g.wrote)
        (out.drop g.wrote) (partsOf (dst + g.wrote) (out.length - g.wrote)) s0 [] = .ok w2 b → out.length ≤ g.wrote + b.length →
      let w3 := match x.bar with | some y => if b = [] then w2 else w2.barApply y (.arrive b.length) | none => w2
      exec (.collStart c x.id []) s = .next
        ({ w3 with gathers := w3.gathers.filter (fun y => !of y) }.modCore c (fun k => set k { x with done := true }))) ∧
    (x.done = true → exec (.collRetire c x.id) s = .next (s.modCore c (fun k =>
      { k with colls := k.colls.filter (fun y => !(y.id == x.id && y.done)) }))) ∧
    (x.started = true → x.done = false → x.since + 100000000 ≤ s.time → k.killed = false →
      ((x.sig = false ∧ (collFields x.block).flags ≠ 0) ∨ ∃ j, j < n ∧ j ≠ rank ∧ ∀ p ∈ x.peers, p.rank ≠ j) →
      ∃ t, exec (.collTimeout c x.id) s = .next t ∧
        x.comm ∈ t.halted ∧ (t.core c).colls = k.colls.filter (fun y => y.id ≠ x.id) ∧
        (t.core c).faults = k.faults ++
          [{ code := 0x0504, slot := 8, data := true, addr := x.desc, access := some x.id, after := true }] ∧
        t.ownWord = (if x.step then s.ownWord ||| 16 else s.ownWord) ∧ t.out = s.out ∧ (∀ g ∈ t.gathers, of g = false) ∧
        (∀ d, d ≠ c → t.core d = s.core d))

/-! Tasks. -/

/-- 04 R70 to R81, 19 R363 to R371: the schedulers' events. A task starts on cores as reset leaves them but for its tables,
s61, s62, layer and entry; it stops at a safe point, is saved with what its record calls live, and comes back with it; it
retires and releases its cores; a kill completes once no write of its is on its way or held, and frees them, their contents
standing (15 R305). That s62 of a resumed task is the argument's address where its record does not save it is log 36's
reading, that its loop has its start and length again log 18's. A round places a
ready task that fits, on an aligned set of free cores; a task rises a level after 2 ms; a gang that does not fit asks the
tasks of a set to leave, and where no set may it reserves the one with the fewest busy cores; a task that reaches no safe
point in the time that stood when it was asked is killed. -/
def Obligations.TaskEvents : Prop :=
  ∀ (s : State) (launch node : Nat) (n : NodeSt) (h : Container) (r : NodeRec) (l : Launch),
    s.nodeSt launch node = some n → s.nodeHome launch node = some (h, r) → Tab.find s.launches launch = some l →
    let ms := (List.range r.gang).map (fun k => n.first + k)
    let goes (i : Instr) (P : State → Prop) : Prop := ∃ t, exec i s = .next t ∧ P t
    let others (t : State) (cs : List Nat) : Prop := ∀ d, d ∉ cs → t.core d = s.core d
    let clear (k : Core) : Core :=
      { Core.reset with
        now := k.now, ccCount := k.ccCount, fzTotal := k.fzTotal, fzBy := k.fzBy, slots := k.slots, credits := k.credits,
        lqSent := k.lqSent }
    let arg : Word := if r.argRegion = 0xFF then 0 else h.baseOf r r.argRegion + BitVec.ofNat 64 r.argOff
    let live (p : SafeRec) (k : Core) (m : Core) : Prop :=
      (∀ x, 1 ≤ x → x < 64 → x ≠ 62 → p.smap.getLsbD x = true → m.sc x = k.sc x) ∧
      (m.sc 62 = if p.smap.getLsbD 62 then k.sc 62 else arg) ∧
      (∀ x, 1 ≤ x → x < 32 → p.pmap.getLsbD x = true → m.pr x = k.pr x) ∧
      (∀ x, x < 1536 → p.vmap.getLsbD x = true → m.vr x = k.vr x) ∧
      (∀ x, x < 8 → p.amap.getLsbD x = true → m.accVal x = k.accVal x) ∧
      (∀ x, x < 6 → Tab.get 0 m.j x = Tab.get 0 k.j x) ∧
      (m.sp, m.ls, m.ds, m.lq, m.tt, m.shA, m.shB) = (k.sp, k.ls, k.ds, k.lq, k.tt, k.shA, k.shB) ∧
      (m.pc, m.vrot, m.prot, m.layer, m.atag, m.reex, m.second) = (k.pc, k.vrot, k.prot, k.layer, k.atag, k.reex, k.second) ∧
      m.loop = { k.loop with body := [] } ∧ (m.begun, m.rg) = (true, h.ranges r) ∧
      (m.engA.failed, m.engB.failed) = (k.engA.record.getLsbD 16, k.engB.record.getLsbD 16)
    let node' (n : NodeSt) : State :=
      { s with launches := Tab.set s.launches launch { l with nodes := Tab.set l.nodes node n } }
    let plain : Prop := s.ctl = none ∧ s.abortWait = false
    (n.state = .placed → n.restored = false → (s.core n.first).begun = false → goes (.taskStart launch node) (fun t =>
      t.nodeSt launch node = some n ∧ others t ms ∧
      ∀ m ∈ ms, t.core m =
        { clear (s.core m) with
          occ := (s.core m).occ, begun := true, rg := h.ranges r, tt := h.tensorsOf r.tensors, shA := h.shapesOf r.shapesA,
          shB := h.shapesOf r.shapesB, s := [(61, 0xF0000000003F8000), (62, arg)], layer := r.layer,
          pc := h.baseOf r r.entryRegion + BitVec.ofNat 64 r.entry, isTarget := false })) ∧
    (∀ (k m : Core) (o : Occ) (p : SafeRec) (ways : Nat), k.shadow = none → k.vrot < 512 →
      live p k (m.resumed h r (k.saveOf o p ways))) ∧
    (n.state = .placed → n.restored = true → (s.core n.first).begun = false → goes (.taskRestore launch node) (fun t =>
      t.nodeSt launch node = some n ∧ others t ms ∧
      ∀ m ∈ ms, ∀ i v, (s.core m).slotOf launch node = some (i, v) →
        t.core m = { (s.core m).resumed h r v with slots := Tab.del (s.core m).slots i })) ∧
    (n.state = .preempting → n.atSafe = false → (s.core n.first).begun = true → (s.core n.first).stopped = false →
      (s.core n.first).ended = false → s.safeReady n.first ms = true → s.spDue n.first = true →
      goes (.safePoint launch node) (fun t => t.nodeSt launch node = some { n with atSafe := true } ∧ others t ms ∧
        ∀ m ∈ ms, t.core m = { s.core m with stopped := true, waits := [] })) ∧
    (n.state = .preempting → n.atSafe = true → s.gangFault ms = none → (∀ m ∈ ms, (s.core m).drained = true) →
      goes (.taskSave launch node) (fun t => others t ms ∧
        t.nodeSt launch node = some { n with
          state := .saved, order := s.queueStamp, queuedAt := s.time, readyAt := s.time, askedAt := none, atSafe := false } ∧
        ∀ m ∈ ms, ∀ o, (s.core m).occ = some o →
          t.core m = { clear (s.core m) with
            slots := Tab.set (s.core m).slots (s.core m).freeSlot
              ((s.core m).saveOf o (h.safeRec r (s.core m).pc) (Tab.get 0 s.carve (m / 64))) })) ∧
    (n.state = .running → l.step = false → s.ipPages launch node = [] →
      (∀ m ∈ ms, (s.core m).endDone = true ∧ (s.core m).engA.record.getLsbD 16 = false ∧
        (s.core m).engB.record.getLsbD 16 = false) →
      goes (.taskRetire launch node) (fun t => others t ms ∧
        (∀ m ∈ ms, t.core m = { s.core m with occ := none, begun := false, rg := [] }) ∧
        ∀ x, t.nodeSt launch node = some x → x.state = .retired)) ∧
    (n.state = .killed → n.dying = true → plain → s.runs = [] →
      (∀ m ∈ s.nodeCores launch node, (s.core m).writesDone = true ∧ (s.core m).engA.queue = [] ∧ (s.core m).engB.queue = [] ∧
        (s.core m).colls = [] ∧ (s.core m).lqHeld = [] ∧ s.heldWrites m = false) →
      goes (.killComplete launch node) (fun t => others t (s.nodeCores launch node) ∧
        (∀ m ∈ s.nodeCores launch node, t.core m =
          { s.core m with
            occ := none, begun := false, rg := [], land := [], lsWords := [], fences := [], score := [], nmRuns := [] }) ∧
        ∀ x, t.nodeSt launch node = some x → x.state = .killed ∧ x.dying = false)) ∧
    (s.launches = [(launch, l)] → l.nodes = [(node, n)] → n.state = .ready → n.level = 0 → n.reserve = none →
      r.gang ∈ [1, 2, 4, 8] → ∀ f, s.fits ⟨launch, node, n⟩ r = some f → goes .schedulerRound (fun t =>
        let cs := (List.range r.gang).map (fun g => f + g)
        f % r.gang = 0 ∧ f + r.gang ≤ 256 ∧ (∀ c ∈ cs, (s.core c).occ = none ∧ c ∉ s.fenced) ∧
        t.nodeSt launch node = some { n with
          state := .placed, first := f, reserve := none, askedAt := none, atSafe := false, restored := false } ∧
        others t cs ∧
        ∀ g, g < r.gang → t.core (f + g) = { clear (s.core (f + g)) with
          occ := some { launch := launch, node := node, member := g, gang := r.gang, first := f, step := l.step,
                        terminal := r.terminal, handle := l.handle } })) ∧
    (n.state = .ready ∨ n.state = .saved → 0 < n.level → n.queuedAt + 2000000 ≤ s.time →
      exec (.queuePromotion launch node) s = .next
        { node' { n with level := n.level - 1, order := s.queueStamp, queuedAt := s.time } with queueStamp := s.queueStamp + 1 }) ∧
    (2 ≤ r.gang → n.state = .ready → n.reserve = none → n.readyAt + 64000 ≤ s.time → s.fits ⟨launch, node, n⟩ r = none →
      s.reserved = [] → s.fenced = [] → r.gang ∈ [2, 4, 8] → s.chooseSet ⟨launch, node, n⟩ r false = none →
      (s.sched.getLsbD 0 = true → l.step = false → s.chooseSet ⟨launch, node, n⟩ r true = none) →
      goes (.gangReservation launch node) (fun t =>
        let busy (f : Nat) : Nat := (List.range r.gang).countP (fun g => (s.core (f + g)).occ.isSome)
        ∃ f, f % r.gang = 0 ∧ f + r.gang ≤ 256 ∧ (∀ g, g % r.gang = 0 → g + r.gang ≤ 256 → busy f ≤ busy g) ∧
          t = node' { n with reserve := some ⟨f, false⟩ })) ∧
    (2 ≤ r.gang → n.state = .ready → n.reserve = none → n.readyAt + 64000 ≤ s.time → s.fits ⟨launch, node, n⟩ r = none →
      ∀ f asked, s.chooseSet ⟨launch, node, n⟩ r false = some (f, asked) →
        exec (.gangReservation launch node) s = .next ((s.askAll asked).reserveFor ⟨launch, node, n⟩ f true)) ∧
    (∀ at', n.state = .preempting → n.atSafe = false → n.askedAt = some at' →
      at' + n.escal * 1000 ≤ s.time →
      exec (.escalationTimeout launch node) s = .next (s.killTask launch node 1))

/-! The memory side's services and the host's settings. -/

/-- 13 R257, R258, R264, R266 to R271, 14 R289, R290: the events of the memory side on a 64 KiB page r. A move copies the
page's bytes to its new frame and rewrites the entry; a shootdown whose entries are marked takes effect once the accesses
accepted before are no longer held, answers and leaves no cached translation; a
visit of the scrubber leaves every reader the block's newest slot and no committed tag that is about to leave the window
(two valid slots of a block that are not final never share a tag: TentativeWrites);
demotions and promotions start moves; WARM halves; a promotion or demotion of 100 ms closes its transfers and leaves
the page where it was, and so does a promotion that has wanted a frame so long. The page aliases no 2 MiB page. -/
def Obligations.MemoryEvents : Prop :=
  ∀ (s : State) (p blk : Nat) (r : PageRef) (m : Move) (h : Shoot) (id : Nat) (x : Transfer),
    s.walk (p * 65536) = some r → r.big = false → s.wholeOf r = r → s.l2 = [] → s.ctl = none →
    let goes (i : Instr) (P : State → Prop) : Prop := ∃ t, exec i s = .next t ∧ P t
    let old (off : Nat) : Nat := r.leaf.tier * 2 ^ 60 + r.leaf.frame * 65536 + off
    let new (off : Nat) : Nat := m.tier * 2 ^ 60 + m.frame * 65536 + off
    let leafAt (t : State) (f : Leaf → Prop) : Prop := ∃ q, t.walk (p * 65536) = some q ∧ f q.leaf
    let a (s : State) : BitVec 14 := s.slotMd blk 0
    let b (s : State) : BitVec 14 := s.slotMd blk 1
    let stays (t : State) : Prop := Tab.find t.moves p = none ∧ (∀ e ∈ t.transfers, e.2.page ≠ p) ∧
      leafAt t (fun l => l.mov = false ∧ l.tier = r.leaf.tier ∧ l.frame = r.leaf.frame)
    (r.leaf.tier ≤ 1 → m.tier ≤ 1 → m.frame < 2 ^ 32 → (m.tier, m.frame) ≠ (r.leaf.tier, r.leaf.frame) → r.leaf.v = false →
      Tab.find s.moves p = some m → s.transfers = [] → goes (.pageMoveEnd (p * 65536)) (fun t =>
        leafAt t (fun l => l.tier = m.tier ∧ l.frame = m.frame ∧ l.mov = false ∧ l.type = r.leaf.type ∧ l.va = r.leaf.va) ∧
        (∀ off, off < 65536 → t.plainByte (new off) = s.plainByte (old off)) ∧
        (∀ y, (∀ off, off < 65536 → y ≠ new off ∧ y ≠ old off) → t.plainByte y = s.plainByte y) ∧
        Tab.find t.moves p = none)) ∧
    (s.shoots = [h] → h.pages = [p] → h.marked = true → r.leaf.mov = false → s.bigLeaves = [] →
      (∀ y ∈ h.before, ∀ w, s.waitOf y = some w → w.isHeld = false) →
      (∀ w ∈ s.waiting, w.isHeld = true → w.ipa / 65536 ≠ p) → goes (.shootdownComplete 0) (fun t =>
        t.shoots = [] ∧ t.ctl = none ∧ r.entry ∉ t.tlb ∧ (∀ x ∈ t.cached, x.sector * 32 / 65536 ≠ p) ∧
        (∀ z, s.session = some z → z.id = h.head.session → t.out = s.out ++ [.reply z.id (z.txSeq + 1) h.head.reqId h.head.mgmt 0x0C 0 0 []]) ∧
        (h.op = .only → leafAt t (fun l => l = r.leaf)) ∧
        (h.op = .unmap → t.walk (p * 65536) = none) ∧
        (∀ ty f, ty < 4 → h.op = .setType ty f → leafAt t (fun l =>
          l.type = ty ∧ l.v = f.getLsbD 0 ∧ l.m = f.getLsbD 1 ∧ l.get 7 7 = 1 ∧ (l.get 8 8 == 1) = f.getLsbD 3 ∧
          (l.get 9 9 == 1) = f.getLsbD 4 ∧ l.tier = r.leaf.tier ∧ l.frame = r.leaf.frame)))) ∧
    (∀ y, s.blockPage blk = some y → y.leaf.mov = false → s.openWait = none →
      ¬ (mdVal (a s) ∧ mdVal (b s) ∧ mdFin (a s) = false ∧ mdFin (b s) = false ∧ mdTag (a s) = mdTag (b s)) →
      goes (.scrubberVisit blk) (fun t => t.newest blk = s.newest blk ∧
        t = { s with slotMeta := t.slotMeta } ∧ (∀ k, k ≠ blk → t.slotMd k 0 = s.slotMd k 0 ∧ t.slotMd k 1 = s.slotMd k 1) ∧
        ∀ md, md = a t ∨ md = b t → mdVal md = true → mdFin md = false →
          ((s.commitBits.getLsbD (mdTag md) = true ∧ mdTag md ≠ (s.last + 1) % 4096) ∨
            (1 ≤ s.stepState ∧ mdTag md = s.attempt % 4096)))) ∧
    (∀ tier die t, s.allPages = [r] → tier ≤ 1 → r.leaf.tier = tier → die = homeDie (r.base * 65536) →
      r.leaf.mov = false → r.leaf.v = false → s.shoots = [] →
      let mark := Tab.get 0 s.marks tier
      Tab.get 0 s.freePages tier < (mark.extractLsb' 0 32).toNat → (mark.extractLsb' 0 32).toNat < (mark.extractLsb' 32 32).toNat →
      (tier = 1 → 1 ≤ ((Tab.get 0 s.marks 2).extractLsb' 64 32).toNat) → s.startMove r (tier + 1) = some t →
      exec (.tierDemotion tier die) s = .next t ∧ leafAt t (fun l => l.mov = true)) ∧
    (∀ t, r.leaf.tier = 1 → r.leaf.mov = false → 128 ≤ r.leaf.warm →
      ((Tab.get 0 s.marks 0).extractLsb' 32 32).toNat < Tab.get 0 s.freePages 0 → s.startMove r 0 = some t →
      exec (.warmPromotion (p * 65536)) s = .next t ∧ leafAt t (fun l => l.mov = true)) ∧
    (s.lastDecay + 1000000 ≤ s.time → goes .warmDecay (fun t =>
      leafAt t (fun l => l.warm = r.leaf.warm / 2 ∧ l.tier = r.leaf.tier ∧ l.frame = r.leaf.frame ∧ l.p = true) ∧
      t = { s with leaves := t.leaves, bigLeaves := t.bigLeaves, lastDecay := s.time })) ∧
    (Tab.find s.transfers id = some x → x.page = p → x.since + 100000000 ≤ s.time →
      (x.dirIn = true → s.cores = [] → s.units = [] → s.runs = [] → s.remote = [] → s.held = [] →
        goes (.pageLost (p * 65536)) stays) ∧
      (x.dirIn = false → goes (.demotionAbandoned id) stays)) ∧
    (∀ at', Tab.find s.wants p = some at' → at' + 100000000 ≤ s.time →
      s.cores = [] → s.units = [] → s.runs = [] → s.remote = [] → s.held = [] →
      goes (.pageLost (p * 65536)) (fun t => stays t ∧ Tab.find t.wants p = none))

/-- 03 R59, 04 R76, 13 R248, R269, 17 R325, R336, R339, 20 R385, 21 R394, R396, R397, 23 R403: the management requests. A
session that takes the frame, with nothing before it, makes a well-formed setting hold and answers with the value that it
replaces; an ill-formed one is answered BADFRAME and changes nothing. A link that LINK-SET enables or gives other modes trains
again; BOARD-SET judges the standing readings. The contents of a margin plan are free values, and it takes effect at once
outside a step (log 23); LINK-SET that starts training anew tries failed lanes again (log 37); REMOTE-SET refuses a clear as it
does a bind (log 47). -/
def Obligations.HostSettings : Prop :=
  ∀ (s : State) (h : FrameHead) (z : Session) (w pre : Word) (w128 : BitVec 128) (w256 : BitVec 256) (k n : Nat) (c : Container)
      (p : PlanRec),
    s.admits h z → s.ctl = none → s.ctlQueue = [] →
    let a := s.took h z
    let ok (i : Instr) (code : Nat) (t : State) (l : List Byte) : Prop := exec i s = .next (t.reply h code 0x00 0 l)
    let bad (i : Instr) (code : Nat) : Prop := exec i s = .next (a.reply h code 0x01 0 [])
    let f (hi lo : Nat) : Nat := (w.extractLsb' lo (hi + 1 - lo)).toNat
    let g (hi lo : Nat) : Nat := (w128.extractLsb' lo (hi + 1 - lo)).toNat
    let y (hi lo : Nat) : Nat := (w256.extractLsb' lo (hi + 1 - lo)).toNat
    let f' (hi lo : Nat) : Nat := (s.power.extractLsb' lo (hi + 1 - lo)).toNat
    let at' (d : Nat) : Nat := s.deviceId / 16 ^ d % 16
    let volt (x : Nat) : Prop := 40000 ≤ x ∧ x ≤ 56000
    let good (t : Prop) (i : Instr) (code : Nat) (u : State) (l : List Byte) : Prop := (t → ok i code u l) ∧ (¬ t → bad i code)
    let binds (b : Tab (Nat × Nat)) : State := { a with containers := Tab.set a.containers k { c with binds := b } }
    good (f 31 8 ≠ 0 ∧ f 7 1 = 0 ∧ f 63 32 = 0) (.schedSet h w) 0x40 { a with sched := w } (leBytes 8 s.sched.toNat) ∧
    ((∀ e ∈ s.cores, e.1 / 64 = k → e.2.occ = none ∧ e.2.slots = []) →
      let t := a.writeBack k 0 (2 ^ 62)
      good (k ≤ 3 ∧ n ≤ 12) (.carveSet h k n) 0x41 { t with
        carve := Tab.set s.carve k n, cached := s.cached.filter (fun e => e.holder != k) } (leBytes 1 (Tab.get 0 s.carve k))) ∧
    good (k ≤ 2 ∧ g 31 0 < g 63 32 ∧ g 127 96 = 0 ∧ (k < 2 → g 95 64 = 0)) (.tierSet h k w128) 0x42
      { a with marks := Tab.set s.marks k w128 } (leBytes 16 (Tab.get 0 s.marks k).toNat) ∧
    (s.stepState = 0 → k < 6 → w.getLsbD 40 = true →
      let x : Link := { s.link k with word := w }
      let set (y : Link) : Prop :=
        good ((∀ v, v < 8 → f (2 * v + 1) (2 * v) ≠ 3) ∧ f 23 16 ≠ 0 ∧ f 31 24 ≠ 0 ∧ f 39 32 ≠ 0 ∧ f 63 41 = 0)
          (.linkSet h k w) 0x43 { a with links := Tab.set s.links k y } (leBytes 8 (s.link k).word.toNat)
      (x.state = .active → (s.link k).word.extractLsb' 0 16 = w.extractLsb' 0 16 → set x) ∧
      (x.state = .active → (s.link k).word.extractLsb' 0 16 ≠ w.extractLsb' 0 16 → (laneGroup x.laneFail.toNat).isSome = true →
        set { x with state := .retrain, partnerAt := s.time, disagree := 0, sent := false }) ∧
      (x.state = .off ∨ x.state = .down →
        set { x with state := .train, partnerAt := s.time, laneFail := 0, disagree := 0, sent := false })) ∧
    (s.stepState = 0 → good (f 63 16 = 0 ∧ ∀ d, d < 4 → at' d ≤ f (4 * d + 3) (4 * d)) (.fabricSet h w pre) 0x44
      { a with fabric := w, fprefix := pre } (leBytes 8 s.fabric.toNat ++ leBytes 8 s.fprefix.toNat)) ∧
    (s.stepState = 0 → (∀ e ∈ s.cores, ∀ x ∈ e.2.colls, x.comm ≠ k) →
      good (k ≤ 15 ∧ f 63 33 = 0 ∧ (w.getLsbD 32 = true →
          ∀ d, d < 4 → f (8 * d + 3) (8 * d) ≤ at' d ∧ at' d ≤ f (8 * d + 7) (8 * d + 4)))
        (.commSet h k w) 0x45 { a with comms := Tab.set s.comms k w } (leBytes 8 (Tab.get 0 s.comms k).toNat)) ∧
    (s.stepState = 0 → good (y 31 21 = 0 ∧ y 175 161 = 0 ∧ y 255 208 = 0 ∧ y 191 176 ≠ 0 ∧ y 207 192 ≠ 0 ∧
        (w256.getLsbD 16 = true → 1 ≤ y 160 144 ∧ y 160 144 ≤ 65536 ∧ y 15 0 = 0) ∧ (w256.getLsbD 16 = false → y 160 144 = 0))
      (.halyardSet h w256) 0x46 { a with tree := w256 } (leBytes 32 s.tree.toNat)) ∧
    good (1000 ≤ f 15 0 ∧ f 15 0 ≤ 4000 ∧ 800 ≤ f 31 16 ∧ f 31 16 ≤ 1600 ∧ f 31 16 % 25 = 0 ∧ f 63 32 = 0) (.powerSet h w) 0x47
      { a with power := w } (leBytes 8 s.power.toNat) ∧
    (s.replanning = false →
      let next := MarginPlan.formed (s.fresh + 1)
      let t := { a with lastPlan := s.time, replanning := false, nextPlan := some next, fresh := s.fresh + 1 }
      if 1 ≤ s.stepState then ok (.margin h) 0x48 t []
      else ∃ links, ok (.margin h) 0x48 { t with plan := next, nextPlan := none, links := links } [] ∧
        ∀ q, Tab.get Link.reset links q =
          if q < 6 ∧ (s.link q).state = .active ∧ Tab.find next.equal q ≠ Tab.find s.plan.equal q then
            { s.link q with state := .retrain, partnerAt := s.time, disagree := 0, sent := false }
          else Tab.get Link.reset s.links q) ∧
    (let valid := 100 ≤ f 15 0 ∧ f 15 0 ≤ 800 ∧ volt (f 31 16) ∧ volt (f 47 32) ∧ f 31 16 < f 47 32 ∧ f 63 48 = 0
     let fine := s.readings.inlet ≤ 100 * f 15 0 ∧
       (s.readings.supply = 0 ∨ (f 31 16 ≤ s.readings.supply ∧ s.readings.supply ≤ f 47 32))
     (fine → good valid (.boardSet h w) 0x4A
       { a with board := w, boardOkSince := if s.boardHold ∧ s.boardOkSince = none then some s.time else s.boardOkSince }
       (leBytes 8 s.board.toNat)) ∧
     (¬fine → valid → s.boardHold = false → ∃ t pl, ok (.boardSet h w) 0x4A t (leBytes 8 s.board.toNat) ∧
       t.board = w ∧ t.boardHold = true ∧ t.boardOkSince = none ∧ (∀ d, d < 4 → t.clockOf d = f' 31 16) ∧
       t.out = s.out ++ [.event z.id (z.txSeq + 1) (z.evNum + 1) 0x8B pl])) ∧
    (Tab.find s.containers k = some c → c.accepted = true → c.plan[n]? = some p → s.inUse k = false → p.flags.getLsbD 4 = false →
      p.type ≠ 3 →
      ∀ dev ipa, let valid := ipa % 65536 = 0 ∧ ipa + p.size ≤ 2 ^ 52 ∧ dev ≠ s.deviceId ∧ dev < 65536
        good valid (.remoteSetClear h k ⟨n, dev, ipa⟩) 0x49 (binds (Tab.del c.binds n)) [] ∧
        good valid (.remoteSetBind h k n dev ipa) 0x49 (binds (Tab.set c.binds n (dev, ipa))) [])

/-! The host's commands. -/

/-- 03 R54, R55, R57, R58: every request but HELLO and ATTEST, with its code (03 R60 and the management requests). Without an
open session that takes the frame it is dropped and counted; one whose request has a kept reply gets that reply again; one
before ATTEST gets NOATTEST, and one with a bad payload BADFRAME; none of these has another effect. -/
def Obligations.FrameAcceptance : Prop :=
  ∀ (s : State) (h : FrameHead) (z : Session) (i : Instr) (code : Nat) (a b c d : Nat) (f g : Bool) (l : List Byte)
      (w v : Word) (w128 : BitVec 128) (w256 : BitVec 256) (o : OpenReq) (p : PageReq) (w16 : BitVec 16) (w8 : BitVec 8) (rt : RemoteTarget),
    (i, code) ∈ [(Instr.loadContainer h a b c l [], 0x03), (.unloadContainer h a, 0x03), (.patch h a b w, 0x04), (.launch h a b, 0x05),
      (.stepOpen h o, 0x06), (.stepClose h a, 0x07), (.stepStatus h a f b w16, 0x08), (.veto h a w8, 0x09), (.read h f a b c, 0x0A),
      (.write h f a b c l, 0x0B), (.pageMap h p, 0x0C), (.pageUnmap h p, 0x0C), (.pageSetType h p, 0x0C), (.pageShootDown h p, 0x0C),
      (.pageDemote h p, 0x0C), (.pagePromote h p, 0x0C), (.kill h a b, 0x0D), (.firmware h a b l, 0x0E), (.resetWork h f, 0x0F),
      (.resetModule h f, 0x0F), (.telemetry h w a, 0x10), (.xfer h a b c g l, 0x11), (.schedSet h w, 0x40), (.carveSet h a b, 0x41),
      (.tierSet h a w128, 0x42), (.linkSet h a w, 0x43), (.fabricSet h w v, 0x44), (.commSet h a w, 0x45), (.halyardSet h w256, 0x46),
      (.powerSet h w, 0x47), (.margin h, 0x48), (.remoteSetBind h a b c d, 0x49), (.remoteSetClear h a rt, 0x49),
      (.boardSet h w, 0x4A)] →
    let taken : Prop := h.tagOk = true ∧ h.headOk = true ∧ h.session = z.id ∧ h.seq ∉ z.seen ∧ z.highest < h.seq + 64
    let dropped : State := { s with telem := (s.count tcFrames).telem }
    let fresh : Prop := ∀ e ∈ z.replies, e.1 ≠ h.reqId
    (s.session = none → exec i s = .next dropped) ∧
    (s.session = some z →
      (¬ taken → exec i s = .next dropped) ∧
      (taken →
        (∀ e, z.replies.find? (fun e => e.1 = h.reqId) = some e →
          exec i s = .next (s.sentAgain h z e.2)) ∧
        (fresh → z.attested = false → exec i s = .next ((s.took h z).reply h code 0x02 0 [])) ∧
        (fresh → z.attested = true → h.payloadOk = false → exec i s = .next ((s.took h z).reply h code 0x01 0 []))))

/-- 02 R50, 03 R56 to R61, 04 R72, 13 R257, R258, R270, 21 R399, R400: what the commands do for a session that takes the
frame, with nothing before them. The model's choices: session and sequence 0 in HELLO's reply (log 31), BADFRAME for a wrong length before
BUSY (log 47), how session and launch numbers count (log 20), what an empty handle answers (log 39), the octets of SHAKE256 (log 6). -/
def Obligations.HostCommands : Prop :=
  ∀ (s : State) (h : FrameHead) (z : Session) (k n : Nat) (c : Container) (l : List Byte) (v : Word) (r : PageReq) (x : PageRef)
      (g : Graph) (y : Launch),
    s.ctl = none → s.ctlQueue = [] →
    let a := s.took h z
    let ok (i : Instr) (code : Nat) (t : State) (l : List Byte) : Prop := exec i s = .next (t.reply h code 0x00 0 l)
    let goes (i : Instr) (code : Nat) (l : List Byte) (P : State → Prop) : Prop := ∃ t, ok i code t l ∧ P t
    let no (i : Instr) (code st : Nat) : Prop := exec i s = .next (a.reply h code st 0 [])
    let loaded : Prop := Tab.find s.containers k = some c ∧ c.accepted = true ∧ s.inUse k = false
    let idle : Prop := s.stepState = 0
    let hello (st : Nat) : Prop := exec (.hello h l) s = .next { s with out := s.out ++ [.reply 0 0 h.reqId h.mgmt 0x01 st 0 []] }
    let req : Prop := r.type < 4 ∧ r.tier < 4 ∧ r.flags.toNat < 32
    let at' (t : State) (f : Leaf → Prop) : Prop := ∃ y, t.walk r.ipa = some y ∧ f y.leaf
    -- HELLO
    (h.headOk = true →
      (l.length ≠ 1216 → hello 0x01) ∧
      (l.length = 1216 → s.session = some z → s.time < z.lastAt + 10000000000 → hello 0x03) ∧
      (l.length = 1216 → (∀ z, s.session = some z → z.lastAt + 10000000000 ≤ s.time) →
        let old : List Ev := match s.session with | some z => z.unacked | none => []
        let evs := (old ++ s.carried).mapIdx (fun i (e : Ev) => { e with num := i + 1 })
        ∃ (body secret : List Byte) (next : Nat), next ≠ 0 ∧ body.length = 4437 ∧ secret.length = 32 ∧
          (body.drop 1120).take 8 = leBytes 4 s.nextSession ++ leBytes 2 s.deviceId ++ [0, 0] ∧
          exec (.hello h l) s = .next { s with
            session := some { id := s.nextSession, keys := shake256 (secret ++ l.take 32 ++ body.take 32) 72,
                              txSeq := evs.length, attested := false, highest := 0, seen := [], replies := [], lastAt := s.time,
                              evNum := evs.length, unacked := evs, mask := 0, period := 0 },
            carried := [], nextSession := next,
            out := s.out ++ [.reply 0 0 h.reqId h.mgmt 0x01 0x00 0 body] ++
              evs.map (fun e => .event s.nextSession e.num e.num e.code e.payload) })) ∧
    -- ATTEST, in a session that has or has not completed one
    (let z1 : Session := { z with attested := true }
     let s1 : State := { s with session := some z1 }
     s.session = some z → s1.admits h z1 → l.length = 32 → ∃ body, body.length = 4029 ∧ body.take 32 = l ∧
        ok (.attest h l) 0x02 (s1.took h z1) body) ∧
    (s.admits h z →
      -- LOAD-CONTAINER
      (∀ off total ipas, k < 16 → 0 < total → Tab.find s.containers k = none → off + l.length ≤ total →
        (l.length < total → ∃ c, (c.total = total ∧ c.accepted = false ∧ ∀ i, Tab.find c.got (off + i) = l[i]?) ∧
          ok (.loadContainer h k total off l ipas) 0x03 { a with containers := Tab.set s.containers k c } (leBytes 8 l.length)) ∧
        (l.length = total → ∀ code, a.containerCode l = code → code ≠ 0 → Tab.find s.containers k = none →
          exec (.loadContainer h k total off l ipas) s = .next ({ a with containers := Tab.del s.containers k }.reply h 0x03 0x05 code [])) ∧
        (l.length = total → a.containerCode l = 0 → ∃ c, c.accepted = true ∧ c.digest = (l.drop 32).take 32 ∧
          c.ipas.length = c.plan.length ∧ c.binds = [] ∧
          goes (.loadContainer h k total off l ipas) 0x03 (leBytes 8 total ++ c.ipas.flatMap (leBytes 8))
            (fun t => Tab.find t.containers k = some c))) ∧
      (ofLe (l.take 4) ≠ 0x4C535250 → s.containerCode l = 0x01) ∧
      -- the unloading of a container without regions, PATCH in an unversioned page of tier 0 or 1, LAUNCH without IP pages
      (loaded → k < 16 → c.plan = [] → ok (.unloadContainer h k) 0x03 { a with containers := Tab.del s.containers k } (leBytes 8 0)) ∧
      (Tab.find s.containers k = none → k < 16 → no (.unloadContainer h k) 0x03 0x04) ∧
      (Tab.find s.containers k = some c → s.inUse k = true → k < 16 → no (.unloadContainer h k) 0x03 0x03) ∧
      (∀ p, loaded → c.patches[n]? = some p → let ipa := c.ipas.getD p.plan 0 + p.off
        a.cmdChk .read ipa = .ok x → x.leaf.type ≠ 2 → x.leaf.v = false → s.waiting = [] → s.held = [] →
        goes (.patch h k n v) 0x04 [] (fun t =>
          (∀ i, i < p.size → t.plainByte (x.pa ipa + i) = (leBytes p.size v.toNat).getD i 0) ∧
          ∀ q, q < x.pa ipa ∨ x.pa ipa + p.size ≤ q → t.plainByte q = s.plainByte q)) ∧
      (Tab.find s.containers k = some c → c.accepted = true → c.sections[n]? = some (.graph g) → (g.step = true → s.stepState = 1) →
        s.launches.length < 64 → ((s.launches.map (fun l => l.2.nodes.length)).foldl (· + ·) 0) + g.nodes.length ≤ 262144 →
        (∀ r ∈ g.nodes, s.gangFits r.gang = true ∧ c.ipPagesOf r = []) →
        ok (.launch h k n) 0x05 { a with
          launches := Tab.set s.launches s.nextLaunch {
            handle := k, graphSec := n, step := g.step, stepend := false,
            nodes := g.nodes.mapIdx (fun i r => (i, {
              state := .loaded, deps := r.deps, level := r.prio, order := 0, queuedAt := s.time, readyAt := s.time, first := 0,
              reserve := none, askedAt := none, escal := 0, atSafe := false, restored := false, dying := false })) },
          nextLaunch := s.nextLaunch + 1, stepState := if g.step then 2 else s.stepState } (leBytes 4 s.nextLaunch)) ∧
      (Tab.find s.containers k = some c → c.accepted = true → c.sections[n]? = some (.graph g) → g.step = true → s.stepState = 0 →
        no (.launch h k n) 0x05 0x06) ∧
      -- READ and WRITE of space 1 within an unversioned page that is no WOS page, with no access waiting at memory; what they
      -- leave at the page's home is set out with the accesses
      (∀ addr, 0 < n → n ≤ 8192 → addr % 65536 + n ≤ 65536 → addr + n ≤ 2 ^ 52 → x.leaf.type ≠ 2 → x.leaf.v = false →
        s.waiting = [] → s.held = [] → (∀ q, s.turns.head? ≠ some (.command q)) →
        (a.cmdChk .read addr = .ok x → goes (.read h true k n addr) 0x0A
          (List.replicate 40 0 ++ (List.range n).map (fun i => s.plainByte (x.pa addr + i))) (fun t => t.plainByte = s.plainByte)) ∧
        (a.cmdChk .write addr = .ok x → l.length = n → goes (.write h true k n addr l) 0x0B [] (fun t =>
          (∀ i, i < n → t.plainByte (x.pa addr + i) = l.getD i 0) ∧
          ∀ q, q < x.pa addr ∨ x.pa addr + n ≤ q → t.plainByte q = s.plainByte q))) ∧
      -- PAGE, of one 64 KiB page
      (req → r.count = 1 → r.flags.getLsbD 2 = false → r.ipa % 65536 = 0 → r.ipa + 65536 ≤ 2 ^ 52 →
        (s.bigLeaves = [] → s.leaves = [] → r.va.getLsbD 63 = false → 2 ≤ r.tier →
          ¬ (r.flags.getLsbD 0 = true ∧ (r.type = 1 ∨ r.type = 2)) → ¬ (r.flags.getLsbD 1 = true ∧ r.type ≠ 0) →
          ¬ (r.flags.getLsbD 3 = true ∧ r.flags.getLsbD 4 = true) →
          goes (.pageMap h r) 0x0C [] (fun t => t = { a with
              leaves := t.leaves, roots := t.roots, dirs := t.dirs, tableTop := t.tableTop, frames := t.frames,
              freePages := t.freePages, nextFrame := t.nextFrame } ∧
            (∀ n, Tab.get 0 t.freePages n = Tab.get 0 s.freePages n) ∧ at' t (fun e => e.va = r.va ∧ e.type = r.type ∧
            e.tier = r.tier ∧ e.mov = false ∧ e.v = r.flags.getLsbD 0 ∧ e.m = r.flags.getLsbD 1 ∧ e.get 7 7 = 1 ∧
            (e.get 8 8 == 1) = r.flags.getLsbD 3 ∧ (e.get 9 9 == 1) = r.flags.getLsbD 4))) ∧
        (s.walk r.ipa = none → no (.pageUnmap h r) 0x0C 0x0C ∧ no (.pageSetType h r) 0x0C 0x0C ∧ no (.pageShootDown h r) 0x0C 0x0C ∧
          no (.pageDemote h r) 0x0C 0x0C ∧ no (.pagePromote h r) 0x0C 0x0C) ∧
        (s.walk r.ipa = some x → x.big = false → x.leaf.type ≠ 3 → x.leaf.v = false →
          -- a shootdown marks its entries at once unless the page moves, and then keeps which accesses were held before
          let pages := [r.ipa / 65536]
          let shoots (op : ShootOp) : Host.Outcome State Fault Refusal :=
            .next { a with shoots := s.shoots ++ [⟨op, pages, h, !x.leaf.mov, if x.leaf.mov then [] else a.heldAt pages⟩], ctl := some .shoot }
          let asks (op : ShootOp) : Host.Outcome State Fault Refusal :=
            .next { (if x.leaf.mov then a else a.releaseWos pages) with
              shoots := s.shoots ++ [⟨op, pages, h, !x.leaf.mov, if x.leaf.mov then [] else a.heldAt pages⟩], ctl := some .shoot }
          (∀ e ∈ s.shoots, e.marked = true) →
          exec (.pageShootDown h r) s = shoots .only ∧ exec (.pageUnmap h r) s = shoots .unmap ∧
          (r.flags.getLsbD 0 = false → (r.flags.getLsbD 1 = true → r.type = 0) → ¬ (r.flags.getLsbD 3 = true ∧ r.flags.getLsbD 4 = true) →
            s.frames = [] → exec (.pageSetType h r) s = asks (.setType r.type r.flags)) ∧
          ((r.tier ≤ 1 → 1 ≤ Tab.get 0 s.freePages r.tier) → x.leaf.mov = false →
            (x.leaf.tier = r.tier → ok (.pageDemote h r) 0x0C a [] ∧ ok (.pagePromote h r) 0x0C a []) ∧
            (∀ i ∈ [Instr.pageDemote h r, .pagePromote h r], (x.leaf.tier ≤ 1 ∨ r.tier ≤ 1) →
              x.leaf.tier ≠ r.tier → s.wholeOf x = x →
              ∃ t, exec i s = .next t ∧ t.ctl = some (.move h r.tier [r.ipa / 65536]) ∧ at' t (fun e => e.mov = true))))) ∧
      -- KILL, FIRMWARE and RESET
      (Tab.find s.launches k = none → no (.kill h k n) 0x0D 0x04) ∧
      (Tab.find s.launches k = some y → (∀ e ∈ y.nodes, (e.2.state = .retired ∨ e.2.state = .killed) ∧ e.2.dying = false) →
        ok (.kill h k 0xFFFFFFFF) 0x0D a []) ∧
      (Tab.find s.launches k = some y → n < y.nodes.length → n ≠ 0xFFFFFFFF → s.nodeSt k n ≠ none → y.step = false →
        ((∀ e, s.nodeSt k n = some e → e.state ≠ .loaded) ∨ s.nodeRec k n ≠ none) →
        ∃ t, exec (.kill h k n) s = .next t ∧ ∀ e, t.nodeSt k n = some e → e.state = .killed ∨ e.state = .retired) ∧
      (∀ off total, s.fw.staged = [] → off + l.length ≤ total → l.length < total →
        ∃ m : Tab Byte, (∀ i, Tab.find m (off + i) = l[i]?) ∧
          ok (.firmware h total off l) 0x0E { a with fw := { s.fw with staged := m, stagedTotal := total, stagedFull := false } }
            (leBytes 8 l.length)) ∧
      (idle → s.launches = [] → s.containers = [] → ∀ f, ok (.resetWork h f) 0x0F { a with halted := [] } []) ∧
      (idle → ∀ f, exec (.resetModule h f) s = .next { a.reply h 0x0F 0x00 0 [] with ctl := some (.resetModule h) }) ∧
      (1 ≤ s.stepState → no (.resetWork h false) 0x0F 0x07 ∧ no (.resetModule h false) 0x0F 0x07))

/-! The step group. -/

/-- 03 R61, R64 to R67, 19 R373: STEP_OPEN is checked in the order of R65 and then waits for the scrubber; its completion
clears the commit bits of the scrub set that its acceptance has fixed, loads and snapshots the step context block and answers; STEP_CLOSE, STEP_STATUS
and VETO answer by the step state. What they answer while a verdict waits for its cycle of 13 R263 is the model's choice (log 14),
and that the completion sets last to a after a DECIDE for a higher attempt its reading (log 49). -/
def Obligations.StepCommands : Prop :=
  ∀ (s : State) (h : FrameHead) (z : Session) (o : OpenReq) (n : Nat) (soft : BitVec 8) (w : OpenWait) (vw : BitVec 16) (vd : Nat),
    let a := s.took h z
    let no (i : Instr) (code st : Nat) : Prop := exec i s = .next (a.reply h code st 0 [])
    let f (b : Nat) : Bool := o.flags.getLsbD b
    let att := if f 4 then o.expected else s.last + 1
    let status : List Byte := [BitVec.ofNat 8 s.stepState, 0, 0, 0] ++ leBytes 4 s.attempt ++ leBytes 2 s.ownWord.toNat ++
      leBytes 2 s.mergedWord.toNat
    (s.admits h z → s.ctl = none → s.ctlQueue = [] →
      (32 ≤ o.flags.toNat → no (.stepOpen h o) 0x06 0x01) ∧
      (o.flags.toNat < 32 → s.stepState ≠ 0 → no (.stepOpen h o) 0x06 0x07) ∧
      (o.flags.toNat < 32 → s.stepState = 0 → s.tree.getLsbD 17 = false → no (.stepOpen h o) 0x06 0x09) ∧
      (o.flags.toNat < 32 → s.stepState = 0 → s.tree.getLsbD 17 = true →
        (o.step.toNat < s.lastCommitted.toNat → no (.stepOpen h o) 0x06 0x0F) ∧
        (s.lastCommitted.toNat ≤ o.step.toNat →
          (2 ^ 32 - 1 ≤ s.last ∨ (f 4 = true ∧ o.expected ≤ s.last) ∨ (f 4 = false ∧ o.expected ≠ 0 ∧ o.expected ≠ s.last + 1) →
            no (.stepOpen h o) 0x06 0x08) ∧
          (s.last < 2 ^ 32 - 1 → (f 4 = true → s.last < o.expected) → (f 4 = false → o.expected = 0 ∨ o.expected = s.last + 1) →
            ∃ blocks, (∀ b, s.slotMd b 0 ≠ 0 ∨ s.slotMd b 1 ≠ 0 → (s.blockPage b).isSome → b ∈ blocks) ∧
              exec (.stepOpen h o) s = .next { a with
                openWait := some { head := h, req := o, attempt := att,
                                   set := (List.range (min (att - s.last) 4096)).map (fun k => (s.last + 1 + k) % 4096),
                                   todo := blocks, found := false }, ctl := some .stepOpen }))) ∧
      (s.stepState < 6 → no (.stepClose h n) 0x07 0x0A) ∧
      (6 ≤ s.stepState → n ≠ s.attempt → no (.stepClose h n) 0x07 0x08) ∧
      (6 ≤ s.stepState → n = s.attempt → s.abortWait = true →
        exec (.stepClose h n) s = .next { a with ctl := some (.stepClose h) }) ∧
      (6 ≤ s.stepState → n = s.attempt → s.abortWait = false →
        let body : List Byte := [if s.stepState = 6 then 1 else 2, 0] ++ leBytes 2 s.mergedWord.toNat
        (s.nextPlan = none → exec (.stepClose h n) s = .next ({ a with stepState := 0 }.reply h 0x07 0x00 0 body)) ∧
        (∀ p, s.nextPlan = some p → (∀ e ∈ p.equal, e.1 < 6) → ∃ links,
          exec (.stepClose h n) s =
            .next ({ a with stepState := 0, plan := p, nextPlan := none, links := links }.reply h 0x07 0x00 0 body) ∧
          ∀ q, Tab.get Link.reset links q =
            if (s.link q).state = .active ∧ q < 6 ∧ ∃ e ∈ p.equal, e.1 = q ∧ Tab.find s.plan.equal q ≠ some e.2 then
              { s.link q with state := .retrain, partnerAt := s.time, disagree := 0, sent := false }
            else Tab.get Link.reset s.links q))) ∧
    (s.admits h z →
      -- of the current attempt: what the log holds of it while it is open, else the device's own state
      ((∀ v, Tab.find s.verdictLog (s.attempt % 4096) = some v → v.attempt = s.attempt → s.stepState = 0) →
        exec (.stepStatus h 0 false vd vw) s = .next (a.reply h 0x08 0x00 0 status) ∧
        (s.stepState ≠ 5 → exec (.stepStatus h 0 true vd vw) s = .next (a.reply h 0x08 0x00 0 status)) ∧
        (s.stepState = 5 → s.commitDue = none → s.treeChildren = [] →
          exec (.stepStatus h 0 true 1 vw) s =
            .next ({ a with commitDue := some ⟨s.attempt, true, vw⟩ }.reply h 0x08 0x00 0 status))) ∧
      (∀ v, 1 ≤ s.stepState → Tab.find s.verdictLog (s.attempt % 4096) = some v → v.attempt = s.attempt →
        exec (.stepStatus h 0 false vd vw) s = .next (a.reply h 0x08 0x00 0
          ([if v.commit then 6 else 7, 0, 0, 0] ++ leBytes 4 s.attempt ++ leBytes 2 s.ownWord.toNat ++ leBytes 2 v.word.toNat))) ∧
      (∀ v, n ≠ 0 → Tab.find s.verdictLog (n % 4096) = some v → v.attempt = n →
        exec (.stepStatus h n false vd vw) s = .next (a.reply h 0x08 0x00 0
          ([if v.commit then 6 else 7, 0, 0, 0] ++ leBytes 4 n ++ leBytes 2 s.ownWord.toNat ++ leBytes 2 v.word.toNat))) ∧
      (s.stepState = 0 → no (.veto h n soft) 0x09 0x06) ∧
      (1 ≤ s.stepState → n ≠ s.attempt → no (.veto h n soft) 0x09 0x08) ∧
      (4 ≤ s.stepState ∨ (1 ≤ s.stepState ∧ s.commitDue ≠ none) → n = s.attempt → no (.veto h n soft) 0x09 0x0B) ∧
      (1 ≤ s.stepState → s.stepState ≤ 3 → s.commitDue = none → n = s.attempt →
        exec (.veto h n soft) s = .next ({ a with
          ownWord := s.ownWord ||| (1 + soft.setWidth 16 <<< 8),
          voteReady := s.voteReady || s.stepState == 1,
          silenceAt := if s.stepState = 1 ∧ s.tree.getLsbD 16 = true ∧ s.silenceAt = none then some s.time else s.silenceAt
          }.reply h 0x09 0x00 0 []))) ∧
    (s.openWait = some w → w.todo = [] → w.found = false →
      let g (b : Nat) : Bool := w.req.flags.getLsbD b
      ∃ bits scb,
        (∀ i, i < 4096 → bits.getLsbD i =
          (s.commitBits.getLsbD i && !w.set.contains i)) ∧
        scb.step = w.req.step ∧ scb.attempt = w.attempt ∧ (scb.seed = if g 0 then w.req.seed else s.scb.seed) ∧
        (scb.threshold = if g 3 then w.req.threshold else s.scb.threshold) ∧
        (∀ k, k < 8 → Tab.get 0 scb.cursor k = if g 1 then w.req.cursors.getD k 0 else Tab.get 0 s.scb.cursor k) ∧
        (∀ k, k < 16 → Tab.get 0 scb.seq k = if g 2 then w.req.counters.getD k 0 else Tab.get 0 s.scb.seq k) ∧
        exec .stepOpenCompletion s = .next ({ s with
          commitBits := bits, scb := scb, snap := scb, last := w.attempt, attempt := w.attempt, stepState := 1, ownWord := 0,
          mergedWord := 0, verdict := none, voteReady := false, childVotes := [], silenceAt := none, wosUndo := [], halted := [],
          openWait := none, ctl := none, commitDue := none }.reply w.head 0x06 0x00 0 (leBytes 4 w.attempt)))

/-- 13 R263, 20 R386 to R390: a device that is ready, with a vote of every child, sends its subtree's word and count to its
parent; the root decides commit exactly when every device of the tree has voted with no striking bit, and logs it; a
verdict of the open attempt is applied; silence and doubt run out; a query is answered. Deciding to commit takes effect in
ATTEMPT_TABLE_COMMIT (log 14). -/
def Obligations.HalyardEvents : Prop :=
  ∀ (s t : State) (m : HalMsg) (src at' : Nat) (v : Verdict) (lost : Bool),
    let bytes (kind verdict : Nat) (word : BitVec 16) (attempt count : Nat) : List Byte :=
      [BitVec.ofNat 8 kind, BitVec.ofNat 8 verdict] ++ leBytes 2 word.toNat ++ leBytes 4 attempt ++ leBytes 4 count ++ [0, 0, 0, 0]
    let word := s.childVotes.foldl (fun w (c : ChildVote) => w ||| c.word) s.ownWord
    let count := s.childVotes.foldl (fun n (c : ChildVote) => n + c.count) 1
    let parent := (s.tree.extractLsb' 0 16).toNat
    let root : Prop := s.tree.getLsbD 16 = true
    let voting : Prop := 1 ≤ s.stepState ∧ s.stepState ≤ 3 ∧ s.commitDue = none
    let voted : Prop := s.voteReady = true ∧ ∀ c ∈ s.treeChildren, ∃ x ∈ s.childVotes, x.src = c
    let goes (i : Instr) (P : State → Prop) : Prop := ∃ t, exec i s = .next t ∧ P t
    let ms100 (hi lo : Nat) : Nat := (s.tree.extractLsb' lo (hi + 1 - lo)).toNat * 100000
    let quiet : Prop := s.ctl = none ∧ s.launches = []
    -- what a verdict does to the device that it reaches
    let applied (v : Verdict) (t : State) : Prop :=
      if v.commit then t.commitDue = some v ∧ t.stepState = s.stepState ∧ t.scb = s.scb
      else t.stepState = 7 ∧ t.verdict = some v ∧ t.mergedWord = v.word ∧ t.scb = s.snap ∧ t.commitBits = s.commitBits ∧
        t.wosUndo = [] ∧ t.halted = []
    let verdict : Verdict := ⟨s.attempt, m.verdict == 1, m.word⟩
    (s.treeChildren.length = (s.tree.extractLsb' 18 3).toNat) ∧
    (voting → voted → ¬ root → s.sendPacket 0 parent 0 [bytes 1 0 word s.attempt count] = some t →
      exec .stepVote s = .next { t with stepState := 4, votedAt := s.time, voteReady := false }) ∧
    (voting → voted → root → quiet → goes .stepVote (fun t =>
      let v : Verdict := ⟨s.attempt, count == (s.tree.extractLsb' 144 17).toNat && word.extractLsb' 0 8 == 0, word⟩
      Tab.find t.verdictLog (s.attempt % 4096) = some v ∧ applied v t)) ∧
    (¬ voting ∨ ¬ voted → exec .stepVote s = .next s) ∧
    (voting → root → quiet → ¬ voted → s.silenceAt = some at' → at' + ms100 191 176 ≤ s.time → goes .rootSilenceTimeout (fun t =>
      let v : Verdict := ⟨s.attempt, false, word ||| 0x40⟩
      Tab.find t.verdictLog (s.attempt % 4096) = some v ∧ applied v t)) ∧
    (m.reservedZero = true → m.kind = 1 → m.verdict = 0 →
      (voting → m.attempt = s.attempt → src ∈ s.treeChildren → (∀ x ∈ s.childVotes, x.src ≠ src) →
        exec (.halyardVote src m) s = .next { s with
          childVotes := s.childVotes ++ [{ src := src, word := m.word, count := m.count }],
          silenceAt := if s.tree.getLsbD 16 = true ∧ s.silenceAt = none then some s.time else s.silenceAt }) ∧
      (m.attempt ≠ s.attempt ∨ src ∉ s.treeChildren ∨ ¬ voting → exec (.halyardVote src m) s = .next s)) ∧
    (m.reservedZero = true → m.kind = 2 → m.verdict = 1 ∨ m.verdict = 2 → m.count = 0 →
      (m.attempt ≠ s.attempt → exec (.halyardDecide src m) s = .next { s with last := max s.last m.attempt }) ∧
      (m.attempt = s.attempt → s.commitDue = none → (if m.verdict = 1 then 4 else 1) ≤ s.stepState → s.stepState ≤ 5 → quiet →
        goes (.halyardDecide src m) (fun t => t.last = max s.last m.attempt ∧ applied verdict t))) ∧
    (m.reservedZero = true → m.kind = 3 → m.verdict = 0 → m.word = 0 → m.count = 0 →
      (∀ v, Tab.find s.verdictLog (m.attempt % 4096) = some v → v.attempt = m.attempt →
        s.sendPacket 0 src 0 [bytes 4 (if v.commit then 1 else 2) v.word m.attempt 0] = some t →
        exec (.halyardQuery src m) s = .next t) ∧
      (Tab.find s.verdictLog (m.attempt % 4096) = none → s.last64 = [] →
        s.sendPacket 0 src 0 [bytes 4 0 0 m.attempt 0] = some t → exec (.halyardQuery src m) s = .next t)) ∧
    (m.reservedZero = true → m.kind = 4 → m.verdict ≤ 2 → m.count = 0 →
      (s.stepState ≠ 5 ∨ m.verdict = 0 ∨ m.attempt ≠ s.attempt → exec (.halyardAnswer src m) s = .next s) ∧
      (s.stepState = 5 → m.verdict ≠ 0 → m.attempt = s.attempt → s.commitDue = none → quiet →
        goes (.halyardAnswer src m) (applied verdict))) ∧
    (∀ i, i ∈ [Instr.halyardVote src m, .halyardDecide src m, .halyardQuery src m, .halyardAnswer src m] → m.reservedZero = false →
      exec i s = .next { s with telem := (s.count tcHalyard).telem }) ∧
    (s.stepState = 4 → s.commitDue = none →
      (lost = true ∧ s.route s.deviceId parent none = none) ∨ s.votedAt + ms100 207 192 ≤ s.time →
      exec (.inDoubt lost) s = .next { s with stepState := 5, lastQuery := s.time }) ∧
    (s.stepState = 5 → s.lastQuery + 1000000 ≤ s.time → ∃ u : State, u = { s with lastQuery := s.time, links := u.links, flows := u.flows, out := u.out } ∧
      s.out <+: u.out ∧ exec .inDoubtQuery s = .next (u.emit 0x84 (leBytes 4 s.attempt ++ leBytes 2 s.ownWord.toNat ++ List.replicate 10 0))) ∧
    (s.commitDue = some v → ∃ bits last64, (∀ i, i < 4096 → bits.getLsbD i = (s.commitBits.getLsbD i || i == v.attempt % 4096)) ∧
      v ∈ last64 ∧ last64.length ≤ 64 ∧
      exec .attemptTableCommit s = .next ({ s with
        commitBits := bits, lastCommitted := s.scb.step, stepState := 6, verdict := some v, mergedWord := v.word, voteReady := false,
        silenceAt := none, commitDue := none, last64 := last64, cached := s.cached.filter (fun c => !c.leaf.v) }.emit 0x83
          (leBytes 4 v.attempt ++ [if v.commit then 1 else 2, 0] ++ leBytes 2 v.word.toNat ++ leBytes 2 s.ownWord.toNat ++
            List.replicate 6 0)))

/-! Links and flows. -/

/-- 17 R327 to R331, R335, R337, 11 R226: what arrives on link q, and what its clocks do. A flit that is bad or out of order
is discarded and one NAK follows the last accepted one; an accepted flit is delivered, or held for its group's tag; an ACK
frees what it covers, and a NAK or 2 microseconds without one send the rest again; trainings, failed lanes and failed tags
move the link between its states. That a link which goes DOWN numbers afresh is the model's choice (log 38), and so are the
bytes of a training flit that carry its word (log 45) and the trainings whose keys a tag may have (log 46). -/
def Obligations.LinkEvents : Prop :=
  ∀ (s : State) (q lane vc src port sp : Nat) (f x : Flit) (u1 u2 : List (Flit × Flit)) (e : Flit × Flit),
    q < 6 →
    let l := s.link q
    let on (t : State) (l : Link) : State := { t with links := Tab.set s.links q l }
    let counted : State := { s with telem := (s.count tcCrc).telem }
    let heard (l : Link) : Link := { l with lastRx := s.time, partnerAt := s.time }
    let next (l : Link) : Link := { heard l with rxNext := (l.rxNext + 1) % 4096, nakSent := false }
    -- a flit without a number that leaves for the neighbour, with the ACK of what has come
    let bare (kind : Nat) (p : List Byte) (ack : Nat) : Flit :=
      ({ hdr := BitVec.ofNat 128 (kind * 2 ^ 27 + s.neighbour q * 2 ^ 32 + s.deviceId * 2 ^ 48), payload := padTo 64 p } : Flit).seal 0 ack
    let naked (t : State) (l : Link) : State :=
      { on t { l with nakSent := true, ackSent := l.ackNo } with out := s.out ++ [.flit q (bare 2 [] l.ackNo)] }
    let again (l : Link) : State := { on s { l with replays := min (2 ^ 32 - 1) (l.replays + 1), lastAck := s.time } with
      out := s.out ++ l.unacked.map (fun e => .flit q e.1) }
    let slots (t : State) (x : Flit) : State :=
      let k := s.core x.core
      { t with cores := Tab.set s.cores x.core { k with lq := Tab.set k.lq q (Tab.get [] k.lq q ++
        (List.range (x.len / 8)).map (fun i => BitVec.ofNat 64 (ofLe ((x.data.drop (8 * i)).take 8)))) } }
    -- slots find a task whose first bundle has issued, and room
    let room (x : Flit) : Prop := x.vc = 4 ∧ x.dst = s.deviceId ∧ (s.core x.core).begun = true ∧
      (∃ o, (s.core x.core).occ = some o ∧ ∀ n, s.nodeSt o.launch o.node = some n → n.state ≠ .placed ∨ n.restored = true) ∧
      (Tab.get [] (s.core x.core).lq q).length + x.len / 8 ≤ 512
    let struck : State := if 1 ≤ s.stepState ∧ s.stepState ≤ 5 then { s with ownWord := s.ownWord ||| 128 } else s
    let downed (l : Link) : Link := { l with
      state := .down, unacked := [], waiting := [], txSeq := 0, rxNext := 0, nakSent := false, again := [], txGroup := [],
      rxGroup := [], groupNo := [], rxGroupNo := [], txKey := [], rxKey := [], groupAt := [], closing := [], stopped := [],
      holding := [], ackSent := 4095, disagree := 0, sent := false, tagFails := 0 }
    -- the link goes DOWN while no copy and no collective of any core stands
    let still : Prop := ∀ c, (s.core c).engA.queue = [] ∧ (s.core c).engB.queue = [] ∧ (s.core c).colls = []
    let falls (i : Instr) (u : State) : Prop :=
      still → ∃ t, exec i s = .next t ∧ t = { u with cores := t.cores } ∧ ∀ c, t.core c = s.core c
    let empty : Prop := l.unacked = [] ∧ l.waiting = [] ∧ l.closing = []
    let training : Prop := l.state = .train ∨ l.state = .retrain
    let lanes (w g : Nat) (n : BitVec 16) : Prop := ∀ i, i < 16 / 2 ^ w → n.getLsbD (g * (16 / 2 ^ w) + i) = false
    let retrained (l : Link) : Link := { l with state := .retrain, partnerAt := s.time, disagree := 0, sent := false }
    let kept : Prop := l.state = .active ∧ f.good = true
    let tagOf (k : Nat) (x : Flit) : List Byte :=
      padTo 16 (Config.groupTag (s.keyIn q k) (Tab.get 0 l.rxGroupNo f.vc) (groupAad [x]) x.payload)
    let keys (k : Nat) : Prop := Tab.get 0 l.rxKey f.vc ≤ k ∧ k ≤ l.keyNo
    let key := flowKey (src % 2) src
    let addr (p d : Nat) : BitVec 128 := BitVec.ofNat 128 (s.fprefix.toNat * 2 ^ 64 + p * 65536 + d)
    -- arrivals
    (l.state ≠ .active → ∀ i ∈ [Instr.dataFlit q f, .idleFlit q f, .nakFlit q f, .tagFlit q f], exec i s = .next s) ∧
    (l.state = .active → f.good = false →
      (∀ i ∈ [Instr.idleFlit q f, .nakFlit q f], exec i s = .next counted) ∧
      (∀ i ∈ [Instr.dataFlit q f, .tagFlit q f], exec i s = .next (if l.nakSent then counted else naked counted l))) ∧
    (kept → f.kind = 0 → l.unacked = [] → f.seqNo ≠ l.rxNext → l.nakSent = false →
      exec (.dataFlit q f) s = .next (naked s (heard l))) ∧
    (kept → f.kind = 0 → l.unacked = [] → f.seqNo = l.rxNext → f.seqNo ∉ l.again →
      (l.mode f.vc = 0 → room f → exec (.dataFlit q f) s = .next (slots (on s (next l)) f)) ∧
      (l.mode f.vc = 0 → f.vc = 7 → exec (.dataFlit q f) s = .next { on s (next l) with telem := (s.count tcVc7).telem }) ∧
      (l.mode f.vc ≠ 0 → exec (.dataFlit q f) s =
        .next (on s { next l with rxGroup := Tab.set l.rxGroup f.vc (Tab.get [] l.rxGroup f.vc ++ [f]) }))) ∧
    (kept → f.kind = 1 → l.unacked = u1 ++ e :: u2 → e.1.seqNo = f.ack → (∀ x ∈ u1, x.1.seqNo ≠ f.ack) →
      (∀ x ∈ e :: u1, x.2.vc ≠ 4) → l.waiting = [] → l.closing = [] →
      exec (.idleFlit q f) s = .next (on s { heard l with unacked := u2, lastAck := s.time })) ∧
    (kept → f.kind = 2 → l.unacked ≠ [] → (∀ x ∈ l.unacked, x.1.seqNo ≠ f.ack) → exec (.nakFlit q f) s = .next (again (heard l))) ∧
    (kept → f.kind = 4 → l.unacked = [] → f.seqNo = l.rxNext → f.seqNo ∉ l.again → Tab.get [] l.rxGroup f.vc = [x] →
      (∀ k, keys k → f.data = tagOf k x → (∀ k', keys k' → k' < k → f.data ≠ tagOf k' x) →
        l.mode f.vc = 1 ∨ l.mode f.vc = 2 → room x → exec (.tagFlit q f) s = .next (slots (on s { next l with
          rxGroup := Tab.del l.rxGroup f.vc, rxGroupNo := Tab.set l.rxGroupNo f.vc (Tab.get 0 l.rxGroupNo f.vc + 1),
          rxKey := Tab.set l.rxKey f.vc k, tagFails := 0 })
          (if l.mode f.vc = 2 then { x with payload := streamed (s.keyIn q k) (Tab.get 0 l.rxGroupNo f.vc) 0 x.payload } else x))) ∧
      ((∀ k, keys k → f.data ≠ tagOf k x) → 15 ≤ l.tagFails → laneGroup l.laneFail.toNat ≠ none →
        ∃ u : State, exec (.tagFlit q f) s = .next (u.emit 0x89 ([BitVec.ofNat 8 q, BitVec.ofNat 8 f.vc] ++ leBytes 2 (s.neighbour q) ++
          leBytes 4 (min (2 ^ 32 - 1) (l.tagTotal + 1)) ++ List.replicate 8 0)) ∧
        (u.link q).state = .retrain ∧ (u.link q).tagFails = 0 ∧ (u.link q).rxNext = x.seqNo) ∧
      ((∀ k, keys k → f.data ≠ tagOf k x) → l.tagFails < 15 →
        ∃ t, exec (.tagFlit q f) s = .next t ∧ t = { s with links := t.links, telem := (s.count tcCrc).telem, out := t.out } ∧
        (t.link q).tagFails = l.tagFails + 1 ∧ (t.link q).failVc = f.vc ∧ (t.link q).nakSent = true ∧ (t.link q).rxNext = x.seqNo ∧
        ∀ y ∈ Tab.get [] (t.link q).rxGroup f.vc, y ≠ x)) ∧
    -- lanes and training
    (∀ n : BitVec 16, match laneGroup n.toNat with
      | some (w, g) => w ≤ 2 ∧ g < 2 ^ w ∧ lanes w g n ∧ ∀ w' g', w' < w ∨ (w' = w ∧ g' < g) → g' < 2 ^ w' → ¬ lanes w' g' n
      | none => ∀ w g, w ≤ 2 → g < 2 ^ w → ¬ lanes w g n) ∧
    (f.good = true → f.kind = 3 → training →
      (∀ w g, laneGroup l.laneFail.toNat = some (w, g) → empty → l.owed = [] →
        let word := w + 4 * g + 16 * (sp % 2) + 32 * (l.word.extractLsb' 0 16).toNat
        -- this end's word leaves once in a training
        let tried : Link := { heard l with
          retrains := min 255 (l.retrains + 1), ackSent := if l.sent then l.ackSent else l.ackNo, sent := false }
        let sent (l' : Link) : State :=
          { on s l' with out := if l.sent then s.out else s.out ++ [.flit q (bare 3 (leBytes 8 word) l.ackNo)] }
        (ofLe (f.payload.take 8) = word → exec (.trainingFlit q sp f) s = .next (sent { tried with
          state := .active, width := w, group := g, speed := sp % 2, disagree := 0, nakSent := false, keyNo := l.keyNo + 1 })) ∧
        (ofLe (f.payload.take 8) ≠ word → l.disagree < 3 →
          exec (.trainingFlit q sp f) s = .next (sent { tried with disagree := l.disagree + 1 })) ∧
        (ofLe (f.payload.take 8) ≠ word → 3 ≤ l.disagree → falls (.trainingFlit q sp f)
          { on struck (downed tried) with out := (sent tried).out })) ∧
      (laneGroup l.laneFail.toNat = none → empty → falls (.trainingFlit q sp f) (on struck (downed l)))) ∧
    (f.good = false → exec (.trainingFlit q sp f) s = .next counted) ∧
    (4 ≤ l.disagree → empty → falls (.trainingDisagreementLimit q) (on struck (downed l))) ∧
    (l.word.getLsbD 40 = true → l.state = .off ∨ l.state = .train →
      exec (.linkPartnerAppears q) s = .next (on s { l with state := .train, partnerAt := s.time, sent := false })) ∧
    (training → l.partnerAt + 1000000 ≤ s.time → empty → falls (.linkPartnerTimeout q) (on struck (downed l))) ∧
    (lane < 16 →
      let l' : Link := { l with laneFail := l.laneFail ||| (1 <<< lane) }
      (laneGroup l'.laneFail.toNat = none → empty → l.state = .active ∨ training → falls (.laneFailure q lane) (on struck (downed l'))) ∧
      (laneGroup l'.laneFail.toNat ≠ none →
        (l.state = .active → exec (.laneFailure q lane) s = .next (on s (retrained l'))) ∧
        (l.state ≠ .active → exec (.laneFailure q lane) s = .next (on s l')))) ∧
    -- clocks
    (l.state = .active → l.unacked ≠ [] → l.lastAck + 2000 ≤ s.time → exec (.replayTimeout q) s = .next (again l)) ∧
    (∀ at' g r, l.state = .active → Tab.find l.groupAt vc = some at' → at' + 100 ≤ s.time → Tab.get [] l.txGroup vc = g :: r → l.closing = [] →
      (2048 ≤ l.unacked.length → exec (.tagGroupClose q vc) s = .next (on s { l with closing := [vc] })) ∧
      (l.unacked.length < 2048 → l.waiting = [] → vc < 8 → s.deviceId < 65536 →
        ∃ t y, exec (.tagGroupClose q vc) s = .next t ∧ t.out = s.out ++ [.flit q y] ∧ y.kind = 4 ∧ y.vc = vc ∧ y.seqNo = l.txSeq % 4096 ∧
          y.data = padTo 16 (Config.groupTag (s.keyOut q (Tab.get 0 l.txKey vc)) (Tab.get 0 l.groupNo vc) (groupAad (g :: r))
            ((g :: r).flatMap Flit.payload)) ∧
          Tab.find (t.link q).txGroup vc = none ∧ Tab.get 0 (t.link q).groupNo vc = Tab.get 0 l.groupNo vc + 1)) ∧
    (l.state = .active → 16 ≤ l.tagFails → laneGroup l.laneFail.toNat ≠ none →
      exec (.tagFailureLimit q l.failVc) s = .next ((on s (retrained { l with tagFails := 0 })).emit 0x89
        ([BitVec.ofNat 8 q, BitVec.ofNat 8 l.failVc] ++ leBytes 2 (s.neighbour q) ++ leBytes 4 l.tagTotal ++ List.replicate 8 0))) ∧
    -- flows
    (∀ a d udp fs, 1 < port ∨ d ≠ addr port s.deviceId ∨ udp ≠ 38413 ∨ fs = [] ∨ 100 < fs.length ∨
        (∀ p dev, p ≤ 1 → dev < 65536 → a ≠ addr p dev) →
      exec (.scaleOutDatagram port ⟨d, udp⟩ a fs) s = .next { s with telem := (s.count tcForeign).telem }) ∧
    (∀ p, p ≤ 1 → port ≤ 1 → src < 65536 → f.good = true → f.kind = 1 → (s.link key).state = .active → (s.link key).unacked = [] →
      exec (.scaleOutDatagram port ⟨addr port s.deviceId, 38413⟩ (addr p src) [f]) s =
        .next { s with flows := Tab.set s.flows key (heard (s.link key)) }) ∧
    (let m := s.link (flowKey port src)
     m.state ≠ .off → m.state ≠ .down → (m.sent = true ∨ m.unacked ≠ []) → m.waiting = [] → (∀ y ∈ m.unacked, y.2.kind ≠ 0) → m.lastRx + 1000000 ≤ s.time →
      falls (.flowSilenceTimeout port src) { struck with flows := Tab.set s.flows (flowKey port src) (downed m) })

/-! Power, reset and the command port's own events. -/

/-- 21 R393, R395 to R397: the power manager's comparison moves one die's clock by a step of 25 MHz, between FMIN and
1.6 GHz; a hot die or a reading outside the board's limits holds clocks at FMIN, and a hotter one resets the module. What
the sensors read is an input, a supply that nothing has read yet counts as within its limits, and what a margin plan holds are free
values (log 23); the straps and the self-test of a reset that a reading brings are those of the last one (log 19).
21 R398, R400, 00 R1: a module reset leaves every field as reset leaves it, but for the straps and self-test, the
firmware in flash, what has been sent and the model's clocks; a staged image that verifies and is not older than the
rollback counter becomes the one that runs, and any other is refused with an event. That the session number goes on is the model's
choice (log 20), and so are the straps and the self-test as arguments (log 19) and the free values of the margin plan (log 23). -/
def Obligations.PowerAndReset : Prop :=
  (∀ (s : State) (mw die mc cause reading : Nat) (p : List Nat) (b : BootIn),
     let f (w : Word) (hi lo : Nat) : Nat := (w.extractLsb' lo (hi + 1 - lo)).toNat
     let fmin := f s.power 31 16
     let lim := f s.power 15 0 * 1000
     let goes (i : Instr) (P : State → Prop) : Prop := ∃ t, exec i s = .next t ∧ P t
     let only (t : State) (d x : Nat) : Prop := ∀ e, e < 4 → t.clockOf e = if e = d then x else s.clockOf e
     let hot : State := { s with readings := { s.readings with junction := Tab.set s.readings.junction die mc } }
     let read : State := { s with readings :=
       if cause = 0 then { s.readings with inlet := reading } else { s.readings with supply := reading } }
     -- the readings of the inlet and of the supply, judged by the limits: the cause, and the reading that gives it
     let inlet := read.readings.inlet
     let supply := read.readings.supply
     let limit : Option (Nat × Nat) :=
       if f s.board 15 0 * 100 < inlet then some (0, inlet)
       else if supply ≠ 0 ∧ supply < f s.board 31 16 then some (1, supply) else if f s.board 47 32 < supply then some (2, supply) else none
     let junction : List Instr := [.thermalHold die mc, .thermalRelease die mc, .thermalShutdown die mc b]
     let next := MarginPlan.formed (s.fresh + 1)
     let planned : State := { s with lastPlan := s.time, replanning := false, nextPlan := some next, fresh := s.fresh + 1 }
     (s.lastTick + 100000 ≤ s.time → s.boardHold = false → s.thermalHold = [] → (∀ e, e < 4 → fmin ≤ s.clockOf e) →
       goes (.powerManagerTick mw p) (fun t =>
         t = { s with lastTick := s.time, readings := { s.readings with power := mw }, clocks := t.clocks, limitHold := t.limitHold } ∧
         (lim < mw → ∀ d, d < 4 → fmin < s.clockOf d →
           (∀ e, e < 4 → fmin < s.clockOf e → p.getD e 0 < p.getD d 0 ∨ (p.getD e 0 = p.getD d 0 ∧ d ≤ e)) →
           t.limitHold = false ∧ only t d (max fmin (s.clockOf d - 25))) ∧
         (lim < mw → (∀ e, e < 4 → s.clockOf e = fmin) → t.limitHold = true ∧ ∀ e, e < 4 → t.clockOf e = fmin) ∧
         (mw * 100 < lim * 95 → t.limitHold = false ∧ ∀ d, d < 4 → s.clockOf d < 1600 →
           (∀ e, e < 4 → s.clockOf d < s.clockOf e ∨ (s.clockOf d = s.clockOf e ∧ d ≤ e)) →
           only t d (min 1600 (s.clockOf d + 25))) ∧
         (mw ≤ lim → lim * 95 ≤ mw * 100 → ∀ e, e < 4 → t.clockOf e = s.clockOf e))) ∧
     -- a junction reading, whichever event brings it
     (die < 4 →
       (∀ i ∈ junction, 105000 ≤ mc → mc < 115000 → die ∉ s.thermalHold → goes i (fun t =>
         t = { hot with thermalHold := die :: s.thermalHold, clocks := t.clocks } ∧ t.clockOf die = fmin)) ∧
       (∀ i ∈ junction, (105000 ≤ mc ∧ mc < 115000 ∧ die ∈ s.thermalHold) ∨ (100000 ≤ mc ∧ mc < 105000) → exec i s = .next hot) ∧
       (∀ i ∈ junction, mc < 100000 →
         exec i s = .next { hot with thermalHold := s.thermalHold.filter (fun d => d != die) }) ∧
       (115000 ≤ mc →
         let told := hot.emit 0x85 ([BitVec.ofNat 8 die, 0, 0, 0] ++ leBytes 4 mc)
         exec (.thermalShutdown die mc b) s = exec (.moduleReset b) told ∧
         ∀ i ∈ [Instr.thermalHold die mc, .thermalRelease die mc],
           exec i s = exec (.moduleReset { straps := BitVec.ofNat 16 s.deviceId, failed := s.fenced }) told)) ∧
     (∀ c, limit = some c → goes (.boardLimit cause reading) (fun t => (∀ e, e < 4 → t.clockOf e = fmin) ∧
       let u := { read with boardHold := true, boardOkSince := none, clocks := t.clocks }
       t = if s.boardHold then u else u.emit 0x8B ([BitVec.ofNat 8 c.1] ++ List.replicate 7 0 ++ leBytes 8 c.2))) ∧
     (limit = none → exec (.boardLimit cause reading) s = .next { read with
       boardOkSince := if s.boardHold ∧ s.boardOkSince = none then some s.time else s.boardOkSince }) ∧
     (∀ at', s.boardHold = true → s.boardOkSince = some at' → at' + 1000000000 ≤ s.time →
       s.readings.inlet ≤ f s.board 15 0 * 100 →
       s.readings.supply = 0 ∨ (f s.board 31 16 ≤ s.readings.supply ∧ s.readings.supply ≤ f s.board 47 32) →
       exec .boardLimitClear s = .next { s with boardHold := false, boardOkSince := none }) ∧
     (s.replanning = false → s.lastPlan + 86400000000000 ≤ s.time → exec .marginReplan s = .next { s with replanning := true }) ∧
     -- the plan that is formed takes effect where the step state is NONE, and each ACTIVE link whose equalisation it changes retrains
     (s.replanning = true → 1 ≤ s.stepState → exec .marginReplan s = .next planned) ∧
     (s.replanning = true → s.stepState = 0 → ∃ links,
       exec .marginReplan s = .next { planned with plan := next, nextPlan := none, links := links } ∧
       ∀ q, Tab.get Link.reset links q =
         if q < 6 ∧ (s.link q).state = .active ∧ Tab.find next.equal q ≠ Tab.find s.plan.equal q then
           { s.link q with state := .retrain, partnerAt := s.time, disagree := 0, sent := false }
         else Tab.get Link.reset s.links q)) ∧
  (∀ (s : State) (b : BootIn),
     let img := s.fw.staged.map (·.2)
     let ver := Config.imageVersion img % 2 ^ 32
     let booted (fw : Firmware) (evs : List Ev) : State := { State.reset with
       deviceId := b.straps.toNat, fenced := b.failed, carried := evs, nextSession := s.nextSession,
       fw := { fw with staged := [], stagedTotal := 0, stagedFull := false, meas := measOf fw.digest },
       time := s.time, bootAt := s.time, lastPush := s.time, lastRepeat := s.time, lastDecay := s.time, lastTick := s.time, lastPlan := s.time,
       links := (List.range 6).map (fun k => (k, { Link.reset with partnerAt := s.time })),
       out := s.out, turns := s.turns, seq := s.seq, plan := MarginPlan.formed (s.fresh + 1), fresh := s.fresh + 1 }
     (s.fw.stagedFull = false → exec (.moduleReset b) s = .next (booted s.fw [])) ∧
     (s.fw.stagedFull = true → Config.imageVerifies img = true ∧ s.fw.counter ≤ ver → exec (.moduleReset b) s = .next (booted
       { s.fw with handler := Config.imageHandler img, version := ver, counter := ver, digest := Config.imageDigest img } [])) ∧
     (s.fw.stagedFull = true → ¬ (Config.imageVerifies img = true ∧ s.fw.counter ≤ ver) →
       exec (.moduleReset b) s = .next (booted s.fw [⟨0, 0x86, leBytes 4 ver ++ leBytes 4 s.fw.version⟩])))

/-- 03 R52, R62, 13 R267, 21 R401: the command port's own events, TELEMETRY with its pushes, and XFER. The hop limits of the
port's answers, the host that replies and events go to and the numbers of the host's images are the model's choices (log 31, log
22). -/
def Obligations.PortEvents : Prop :=
  ∀ (s : State) (h : FrameHead) (z : Session) (l : List Byte) (mask : Word) (n id off len p : Nat) (x : Transfer) (r : PageRef)
      (m : Move) (last : Bool),
    let a := s.took h z
    let ok (i : Instr) (code : Nat) (t : State) (l : List Byte) : Prop := exec i s = .next (t.reply h code 0x00 0 l)
    let no (i : Instr) (code st : Nat) : Prop := exec i s = .next (a.reply h code st 0 [])
    let frame (tier frame k : Nat) : Nat := min tier 2 * 2 ^ 60 + frame * 65536 + k
    exec .packetDropped s = .next { s with telem := (s.count tcPackets).telem } ∧
    (∃ own ∈ s.ownAddrs, ∃ sum : Nat, exec (.icmpv6Echo l) s = .next { s with out := s.out ++ [.ipv6
      (netBytes 4 0x60000000 ++ netBytes 2 (4 + ((ipBody l).length - 4)) ++ [58, 64] ++ own ++ (l.drop 8).take 16 ++
        [129, 0] ++ netBytes 2 sum ++ (ipBody l).drop 4)] }) ∧
    (let target := ((ipBody l).drop 8).take 16
     ∃ (dst flags : List Byte) (sum : Nat), flags.length = 4 ∧ exec (.neighbourDiscovery l) s = .next { s with out := s.out ++ [.ipv6
      (netBytes 4 0x60000000 ++ netBytes 2 (16 + target.length) ++ [58, 255] ++ target ++ dst ++ [136, 0] ++ netBytes 2 sum ++
        flags ++ target ++ [2, 1] ++ padTo 6 Config.portMac)] }) ∧
    -- a reply or an event leaves in a UDP datagram from port 38,412
    (∀ e o y, s.host = some e → o.frame s.session = some y → ∃ sum : Nat, s.portFrame o = some (e.mac ++ padTo 6 Config.portMac ++
      [0x86, 0xDD] ++ netBytes 4 0x60000000 ++ netBytes 2 (8 + y.length) ++ [17, 64] ++ e.own ++ e.ip ++ netBytes 2 38412 ++
      netBytes 2 e.port ++ netBytes 2 (8 + y.length) ++ netBytes 2 sum ++ y)) ∧
    (s.session = some z → s.lastRepeat + 10000000 ≤ s.time → exec .eventRepeat s = .next { s with
      lastRepeat := s.time, session := some { z with txSeq := z.txSeq + z.unacked.length },
      out := s.out ++ z.unacked.mapIdx (fun i (e : Ev) => .event z.id (z.txSeq + 1 + i) e.num e.code e.payload) }) ∧
    (s.admits h z → ok (.telemetry h mask n) 0x10
      { a with session := a.session.map (fun z => { z with mask := mask, period := n }), lastPush := s.time } (s.groups mask)) ∧
    (s.session = some z → z.period ≠ 0 → s.lastPush + z.period * 1000000 ≤ s.time →
      exec .telemetryPush s = .next ({ s with lastPush := s.time }.emit 0x8A (s.groups z.mask))) ∧
    (s.groups 0x60 = [5, 0, 2, 0, 0, 0, 0, 0] ++ leBytes 8 (Tab.get 0 s.telem tcPackets).toNat ++
      leBytes 8 (Tab.get 0 s.telem tcFrames).toNat ++ [6, 0, 4, 0, 0, 0, 0, 0] ++
      ([tcCrc, tcVc7, tcLqSlots, tcArrivals].flatMap (fun k => leBytes 8 (Tab.get 0 s.telem k).toNat))) ∧
    (s.admits h z → Tab.find s.transfers id = none → no (.xfer h id off len last l) 0x11 0x04) ∧
    (s.admits h z → Tab.find s.transfers id = some x → x.page = p → s.walk (p * 65536) = some r → r.big = false →
      let size := if x.wos then 65792 else 65536
      let chunk : Prop := ∀ k, k < len → Tab.find x.got (off + k) = none
      let rest : Prop := Tab.keys x.got = (List.range 65536).filter (fun k => k < off || off + len ≤ k)
      (8192 < len ∨ l.length ≠ (if x.dirIn then len else 0) → no (.xfer h id off len last l) 0x11 0x01) ∧
      (len ≤ 8192 → l.length = (if x.dirIn then len else 0) → size < off + len → no (.xfer h id off len last l) 0x11 0x0C) ∧
      (len ≤ 8192 → l.length = len → off + len ≤ size → x.dirIn = true → chunk → x.got.length + len < size →
        (last = true → no (.xfer h id off len last l) 0x11 0x0C) ∧
        (last = false → ∃ g : Tab Byte, (∀ k, Tab.find g k = if off ≤ k ∧ k < off + len then l[k - off]? else Tab.find x.got k) ∧
          ok (.xfer h id off len last l) 0x11 { a with transfers := Tab.set s.transfers id { x with got := g } } [])) ∧
      (len ≤ 8192 → l.length = len → off + len ≤ 65536 → x.dirIn = true → x.wos = false → rest → r.leaf.type ≠ 2 → r.leaf.v = false →
        2 ≤ r.leaf.tier → Tab.find s.moves p = some m → m.tier ≤ 1 → m.frame < 2 ^ 32 → s.l2 = [] → s.ctl = none →
        (∀ e ∈ s.transfers, e.2.page = p → e.1 = id) →
        ∃ t, ok (.xfer h id off len last l) 0x11 t [] ∧ Tab.find t.transfers id = none ∧ Tab.find t.moves p = none ∧
          (∃ q, t.walk (p * 65536) = some q ∧ q.leaf.tier = m.tier ∧ q.leaf.frame = m.frame ∧ q.leaf.mov = false) ∧
          ∀ k, k < 65536 → t.plainByte (frame m.tier m.frame k) =
            if off ≤ k ∧ k < off + len then l.getD (k - off) 0 else Tab.get 0 x.got k) ∧
      (l = [] → len ≤ 8192 → 0 < len → off + len ≤ 65536 → x.dirIn = false → r.leaf.v = false →
        ok (.xfer h id off len last l) 0x11 a ((List.range len).map (fun k => s.plainByte (frame r.leaf.tier r.leaf.frame (off + k))))) ∧
      (l = [] → len = 0 → last = true → off ≤ size → x.dirIn = false → r.leaf.tier ≤ 1 → 2 ≤ x.tier → x.tier < 4 → s.ctl = none →
        (∀ e ∈ s.transfers, e.2.page = p → e.1 = id) →
        ∃ t, ok (.xfer h id off len last l) 0x11 t [] ∧ Tab.find t.transfers id = none ∧
          ∃ q, t.walk (p * 65536) = some q ∧ q.leaf.tier = x.tier ∧ q.leaf.mov = false))

/-! The machine as a whole. -/

/-- 21 R400, 01 R17, 03 R64, 04 R76, 13 R269, 17 R331, R336, 19 R365, 20 R385, 21 R394, R396: what module reset leaves: no
session, container, launch or task; words at the values that their maps give; attempt tables and slots zero; links in TRAIN;
every byte memory in canonical form and reading zero. That registers and memory without a reset value read zero, and where
frames begin, is the model's choice (log 4, log 5, log 22), and so are the die clocks of 1,600 MHz at reset (log 23). -/
def Obligations.ResetState : Prop :=
  let s := State.reset
  (s.session = none ∧ s.containers = [] ∧ s.launches = [] ∧ s.shoots = [] ∧ s.transfers = [] ∧ s.moves = []) ∧
  (s.stepState = 0 ∧ s.last = 0 ∧ s.lastCommitted = 0 ∧ s.commitBits = 0 ∧ s.ownWord = 0 ∧ s.verdictLog = []) ∧
  (s.scb = { seed := 0, cursor := [], seq := [], step := 0, attempt := 0, threshold := 0x7F800000 } ∧ s.snap = s.scb) ∧
  (s.sched = 0x7D000 ∧ s.power = 0x03200FA0 ∧ s.board = 0xCB20ABE001C2 ∧ s.fabric = 0) ∧
  (s.tree.extractLsb' 176 16 = 0x32 ∧ s.tree.extractLsb' 192 16 = 0xC8 ∧ s.tree.extractLsb' 0 176 = 0) ∧
  (∀ q, q < 6 → (s.link q).state = .train ∧ (s.link q).word = 0x14040400000) ∧
  (∀ d, d < 4 → s.clockOf d = 1600 ∧ Tab.get 0 s.carve d = 0) ∧
  (∀ c, (s.core c).occ = none ∧ (s.core c).slots = [] ∧ (s.core c).shadow = none ∧ (s.core c).zeroOk = true ∧
    (∀ n, (s.core c).sc n = 0 ∧ (s.core c).vr n = 0) ∧ ∀ n, 0 < n → (s.core c).pr n = 0) ∧
  (∀ a, s.plainByte a = 0 ∧ s.walk a = none ∧ s.slotMd a 0 = 0 ∧ s.slotMd a 1 = 0 ∧ s.isWritten a = false) ∧
  s.memOk = true

/-- Whatever moves, the byte memories stay in canonical form: the slots of version blocks, the plain frames, every core's
three local memories and those that its save slots hold (log 4). -/
def Obligations.MemoryStaysCanonical : Prop :=
  ∀ (s t : State), s.memOk = true → step s = .next t → t.memOk = true

/-- 05 R82 to R89, 06 R105, R108, 16 R314, 19 R365, log 1: a step runs what the machine decodes. A step of an event is the event's
exec; one of a near-memory unit is the exec of the microinstruction at its index, once the runs that may reach it have. In a clock
period of a gang, of one core or of several, with nothing to take and nothing late on any member, what is due lands first (a fault
before issue undoes that). Then the parcels at member 0's pc are a header and the words of its slots. Where the header stops the task at a
safe point the step is exec of SAFE_POINT. Else a header that does not decode is exec of ILL_BUNDLE, and the first syllable, in slot
order, that is illegal is exec of that (of ILL_INSTR where its word does not decode). Else, where no syllable faults or waits, each is
exec'd in slot order on each member whose guard holds, flow on member 0 alone; a bundle of no slots is NOP's; where no guard holds nothing is
exec'd. The clock period's end follows, which sets a placed task running. A syllable reads its operands before any result of its
bundle lands: results land in later periods' landings. -/
def Obligations.StepRunsDecoded : Prop :=
  ∀ (s : State) (r : List Turn) (i : Instr) (u c f : Nat) (o : Occ) (h : Header) (ws : List Nat) (p0 : Nat),
    let on (t : Turn) : State := { s with turns := t :: r }
    let x : State := { s with turns := r }
    step (on (.event i)) = exec i x ∧
    ((x.reachAll u).nextMicro u = some i → step (on (.unit u)) = exec i { x.reachAll u with curUnit := u }) ∧
    ((∀ e ∈ s.runs, u ∉ e.2.reach) → x.reachAll u = x) ∧
    (∀ n run, (s.unit u).run = some n → s.run n = some run → decodeNM (run.prog.getD (s.unit u).idx 0).toNat = .ok i →
      s.nextMicro u = some i) ∧
    (let y : State := { x with cur := c }
     let ms := s.gang f
     let t := y.landAll ms
     let k := t.core f
     let at0 (m : State) : State := { m with cur := f }
     c ≤ 255 → (s.core c).occ = some o → o.first = f → (s.core f).occ = some o → 0 < o.gang → k.occ = some o →
     (s.core f).begun = true → (s.core f).stopped = false → (s.core f).ended = false →
     (∀ m ∈ ms, (s.core m).shadow = none ∧ (s.core m).lqHeld = [] ∧ s.memberFault m = none ∧ s.lateNow m = []) →
     (k.isTarget = true → k.pc.toNat % 4 = 0) → t.parcelAt f k.pc 0 = .ok p0 →
     (∀ e, decodeHeader p0 = .error e → step (on (.core c)) = exec (.illBundle k.isTarget (BitVec.ofNat 32 p0)) (at0 y)) ∧
     (decodeHeader p0 = .ok h →
       (h.sp = true → t.safeReady f ms = true → step (on (.core c)) = exec (.safePoint o.launch o.node) t) ∧
       ((h.sp && t.safeReady f ms) = false → ws.length = h.slots.length →
         (∀ e ∈ h.slots.zip ws, e.2 < 2 ^ (32 * slotParcels e.1)) →
         let ps := (h.slots.zip ws).flatMap (fun e => sylParcels e.1 e.2)
         let l : List (Slot × Instr) := (h.slots.zip ws).map (fun e =>
           (e.1, match decodeSyl e.1 e.2 with | .ok i => i | .error _ => .illInstr e.1 (BitVec.ofNat 64 e.2)))
         let ill (e : Slot × Instr) : Bool := ctxBad k e.2 || (match e.2 with | .illInstr _ _ => true | _ => false)
         let guarded := ms.filter (fun m => (t.core m).cond h.guard)
         let v := ((t.leave (.fetch f)).fetchMark f k.pc h.parcels).modCores (fun k => { k with delay := none }) ms
         let todo : List (Nat × Instr) :=
           if l = [] then [(f, .nop h.sp h.le h.guard)]
           else l.flatMap (fun e => (guarded.filter (fun m => !isFlow e.2 || m == f)).map (fun m => (m, e.2)))
         (∀ n, n < ps.length → t.parcelAt f k.pc (n + 1) = .ok (ps.getD n 0)) →
         (∀ e, l.find? ill = some e → step (on (.core c)) = exec e.2 (at0 y)) ∧
         ((∀ e ∈ l, ill e = false) → placeFault k k.delay.isSome l = none →
           (∀ m ∈ guarded, ∀ e ∈ l, ((isFlow e.2 = false ∨ m = f) → t.operandFault m e.1 e.2 = none) ∧
             t.waitCause m ((l.map (fun e => entriesOf (t.core m) e.2)).foldl (· + ·) 0) e.2 = none) →
           (step (on (.core c)) =
             match todo.foldl (fun q p => match q with | .next z => exec p.2 { z with cur := p.1 } | q => q) (Host.Outcome.next v) with
             | .next z => .next ((z.endBundle ms k.delay k.loop.active h (p0 :: ps)).firstIssue f)
             | q => q) ∧
           (guarded = [] → l ≠ [] → step (on (.core c)) = .next ((v.endBundle ms k.delay k.loop.active h (p0 :: ps)).firstIssue f))))))

/-- 05 R82, R90 to R100, 16 R314: decoding reads back every operand of every well-formed syllable, microinstruction and
header, at every value that its encoding admits, and a syllable's word fits its slot's parcels. Every well-formed instruction of a map has a
word there. A copy syllable names the engine of its slot. -/
def Obligations.EncodingRoundTrip : Prop :=
  (∀ (sl : Slot) (i : Instr) (w : Nat), i.wf = true → encodeSyl sl i = some w →
    (∀ o : CpOp, i ∈ [.copy o, .copyt o, .copy2 o, .copyr o, .gathc o, .copyx o] → o.eng = if sl = .ca then .a else .b) →
    w < 2 ^ (32 * slotParcels sl) ∧ decodeSyl sl w = .ok i) ∧
  (∀ (i : Instr) (w : Nat), i.wf = true → encodeNM i = some w → w < 2 ^ 64 ∧ decodeNM w = .ok i) ∧
  ∀ (p : Slot → Bool) (sp le : Bool) (g : Nat), g < 32 →
    let h : Header := ⟨[Slot.s, .va, .vb, .mx, .ld, .st, .ca, .cb, .k].filter p, sp, le, g⟩
    encodeHeader h < 2 ^ 32 ∧ decodeHeader (encodeHeader h) = .ok h

/-- Words of each map as the spec writes them out (05 R82, 06 R125, 08, 09 R182, R187, 10 R194, 11 R212, 12 R229, R233, 15
R298, 16 R314, R320, 17 R340, 18 R362, 20 R379, 22, 23, 24) decode to what they stand for. -/
def Obligations.SpecWordsDecode : Prop :=
  (∀ e ∈ [(Slot.s, 0x45244003, Instr.loop 1 8 true 3), (.s, 0x21044000, .cmpiCc .ne 1 4 0), (.s, 0x2A0400F0, .li 1 240),
      (.va, 0x18C1402900000078, .vfrsum ⟨.f32, 40, 41, 3, false⟩), (.va, 0x1CC0100100802C3A, .vdrop ⟨.f32, 2, 1, 4, 11, 1, true⟩),
      (.mx, 0x01402042A2A00100, .mma ⟨2, 1, 2, 1, 20, 21, 0, 0, true, false⟩),
      (.ld, 0x0202820A00000002, .vlds ⟨20, 4, 5, 0, 0, 0, 2⟩), (.st, 0x0002078000000003, .st ⟨16, 15, 0, 0, 0, 0, 3⟩),
      (.ca, 0x008181D4, .copy ⟨.a, 2, 6, 7, 20⟩), (.cb, 0x0040C100, .copy ⟨.b, 1, 3, 4, 0⟩),
      (.k, 0x10020893, .shw .a 2 8 0x93), (.k, 0x20520015, .binit 20 (.reg 21)), (.k, 0x24554000, .btoken 21 20),
      (.k, 0x23594540, .bwait 22 20 21), (.k, 0x260C1000, .fencex 3 1), (.k, 0x300A0B00, .nmrun 10 11 0), (.k, 0x310A0B02, .coll 10 11 2),
      (.k, 0x42100040, .curadv 4 0 1), (.k, 0x44085000, .losschk 2 5), (.k, 0x46000000, .stepend), (.k, 0xF2040300, .hpage 4 3 0)],
    decodeSyl e.1 e.2.1 = .ok e.2.2) ∧
  (∀ e ∈ [(0x1310108300000000, Instr.nfma ⟨4, 1, 2, 3, false⟩), (0x0100200000000001, .nst 1 2), (0x2000000000000006, .nloop 6)],
    decodeNM e.1 = .ok e.2) ∧
  decodeHeader 0xDC8E3000 = .ok ⟨[.s, .va, .ld, .k], true, true, 3⟩ ∧ decodeHeader 0xD0000000 = .ok ⟨[], false, false, 0⟩
end

