-- ==== Sys2Proof/Laws/Frames.lean ====
section
/-! SUPPORT. What the acceptance of a frame can do (03 R54 to R58): drop it, repeat a kept reply, refuse it, or let its
request run. -/

namespace Sys2Proof.Machine

theorem Session.takes_iff (z : Session) (h : FrameHead) :
    z.takes h = true ↔
      h.tagOk = true ∧ h.headOk = true ∧ h.session = z.id ∧ h.seq ∉ z.seen ∧ z.highest < h.seq + 64 := by
  simp only [Session.takes, Bool.and_eq_true, beq_iff_eq, Bool.not_eq_true', decide_eq_true_eq, gt_iff_lt, and_assoc,
    List.contains_eq_mem, decide_eq_false_iff_not]
  constructor
  · rintro ⟨a, b, c, d, e⟩
    exact ⟨a, b, c.symm, d, e⟩
  · rintro ⟨a, b, c, d, e⟩
    exact ⟨a, b, c.symm, d, e⟩

theorem State.accept_none (s : State) (h : FrameHead) (c : Nat) (b : Bool) (hs : s.session = none) :
    s.accept h c b = (s.count tcFrames, false) := by
  simp only [State.accept, hs]

theorem State.accept_drop (s : State) (h : FrameHead) (c : Nat) (b : Bool) (z : Session) (hs : s.session = some z)
    (ht : ¬ z.takes h = true) : s.accept h c b = (s.count tcFrames, false) := by
  simp only [State.accept, hs]
  rw [if_neg ht]

theorem State.accept_kept (s : State) (h : FrameHead) (c : Nat) (b : Bool) (z : Session) (e : Nat × Out)
    (hs : s.session = some z) (ht : z.takes h = true) (he : z.replies.find? (fun e => e.1 = h.reqId) = some e) :
    s.accept h c b = (s.sentAgain h z e.2, false) := by
  simp only [State.accept, hs, ht, he, if_true]
  rfl

theorem find_none_of_fresh {l : List (Nat × Out)} {n : Nat} (he : ∀ e ∈ l, e.1 ≠ n) : l.find? (fun e => e.1 = n) = none := by
  simpa using he

theorem State.accept_noAttest (s : State) (h : FrameHead) (c : Nat) (z : Session) (hs : s.session = some z)
    (ht : z.takes h = true) (he : ∀ e ∈ z.replies, e.1 ≠ h.reqId) (ha : z.attested = false) :
    s.accept h c false = ((s.took h z).reply h c 2 0 [], false) := by
  simp only [State.accept, hs, ht, find_none_of_fresh he, if_true, ha]
  rfl

theorem State.accept_bad (s : State) (h : FrameHead) (c : Nat) (z : Session) (hs : s.session = some z)
    (ht : z.takes h = true) (he : ∀ e ∈ z.replies, e.1 ≠ h.reqId) (ha : z.attested = true) (hp : h.payloadOk = false) :
    s.accept h c false = ((s.took h z).reply h c 1 0 [], false) := by
  simp only [State.accept, hs, ht, find_none_of_fresh he, if_true, ha, hp]
  rfl

/-- A session that admits the frame lets its request run. -/
theorem State.accept_ok (s : State) (h : FrameHead) (c : Nat) (z : Session) (ha : s.admits h z) :
    s.accept h c false = (s.took h z, true) := by
  obtain ⟨hs, ⟨h1, h2, h3⟩, h4, h5, h6, h7, h8⟩ := ha
  have ht := (Session.takes_iff z h).mpr ⟨h1, h2, h4.symm, h5, h6⟩
  simp only [State.accept, hs, ht, find_none_of_fresh h8, if_true, h7, h3]
  rfl

end Sys2Proof.Machine
end

