-- ==== Sys2Proof/Laws/State.lean ====
section
/-! SUPPORT. What each update of a state leaves in each field: one simp lemma a field and an update, true by rfl, so that
no proof unfolds a record update. -/

namespace Sys2Proof.Machine

@[simp] theorem State.setCore_deviceId (s : State) (c : Nat) (k : Core) : (s.setCore c k).deviceId = s.deviceId := rfl
@[simp] theorem State.setCore_fenced (s : State) (c : Nat) (k : Core) : (s.setCore c k).fenced = s.fenced := rfl
@[simp] theorem State.setCore_mem0 (s : State) (c : Nat) (k : Core) : (s.setCore c k).mem0 = s.mem0 := rfl
@[simp] theorem State.setCore_mem1 (s : State) (c : Nat) (k : Core) : (s.setCore c k).mem1 = s.mem1 := rfl
@[simp] theorem State.setCore_slotMeta (s : State) (c : Nat) (k : Core) : (s.setCore c k).slotMeta = s.slotMeta := rfl
@[simp] theorem State.setCore_written (s : State) (c : Nat) (k : Core) : (s.setCore c k).written = s.written := rfl
@[simp] theorem State.setCore_l2 (s : State) (c : Nat) (k : Core) : (s.setCore c k).l2 = s.l2 := rfl
@[simp] theorem State.setCore_cached (s : State) (c : Nat) (k : Core) : (s.setCore c k).cached = s.cached := rfl
@[simp] theorem State.setCore_llc (s : State) (c : Nat) (k : Core) : (s.setCore c k).llc = s.llc := rfl
@[simp] theorem State.setCore_tlb (s : State) (c : Nat) (k : Core) : (s.setCore c k).tlb = s.tlb := rfl
@[simp] theorem State.setCore_roots (s : State) (c : Nat) (k : Core) : (s.setCore c k).roots = s.roots := rfl
@[simp] theorem State.setCore_dirs (s : State) (c : Nat) (k : Core) : (s.setCore c k).dirs = s.dirs := rfl
@[simp] theorem State.setCore_tableTop (s : State) (c : Nat) (k : Core) : (s.setCore c k).tableTop = s.tableTop := rfl
@[simp] theorem State.setCore_leaves (s : State) (c : Nat) (k : Core) : (s.setCore c k).leaves = s.leaves := rfl
@[simp] theorem State.setCore_bigLeaves (s : State) (c : Nat) (k : Core) : (s.setCore c k).bigLeaves = s.bigLeaves := rfl
@[simp] theorem State.setCore_waiting (s : State) (c : Nat) (k : Core) : (s.setCore c k).waiting = s.waiting := rfl
@[simp] theorem State.setCore_wants (s : State) (c : Nat) (k : Core) : (s.setCore c k).wants = s.wants := rfl
@[simp] theorem State.setCore_bitFix (s : State) (c : Nat) (k : Core) : (s.setCore c k).bitFix = s.bitFix := rfl
@[simp] theorem State.setCore_frames (s : State) (c : Nat) (k : Core) : (s.setCore c k).frames = s.frames := rfl
@[simp] theorem State.setCore_nextFrame (s : State) (c : Nat) (k : Core) : (s.setCore c k).nextFrame = s.nextFrame := rfl
@[simp] theorem State.setCore_transfers (s : State) (c : Nat) (k : Core) : (s.setCore c k).transfers = s.transfers := rfl
@[simp] theorem State.setCore_nextTransfer (s : State) (c : Nat) (k : Core) : (s.setCore c k).nextTransfer = s.nextTransfer := rfl
@[simp] theorem State.setCore_moves (s : State) (c : Nat) (k : Core) : (s.setCore c k).moves = s.moves := rfl
@[simp] theorem State.setCore_lost (s : State) (c : Nat) (k : Core) : (s.setCore c k).lost = s.lost := rfl
@[simp] theorem State.setCore_shoots (s : State) (c : Nat) (k : Core) : (s.setCore c k).shoots = s.shoots := rfl
@[simp] theorem State.setCore_held (s : State) (c : Nat) (k : Core) : (s.setCore c k).held = s.held := rfl
@[simp] theorem State.setCore_commitBits (s : State) (c : Nat) (k : Core) : (s.setCore c k).commitBits = s.commitBits := rfl
@[simp] theorem State.setCore_commitDue (s : State) (c : Nat) (k : Core) : (s.setCore c k).commitDue = s.commitDue := rfl
@[simp] theorem State.setCore_stepState (s : State) (c : Nat) (k : Core) : (s.setCore c k).stepState = s.stepState := rfl
@[simp] theorem State.setCore_attempt (s : State) (c : Nat) (k : Core) : (s.setCore c k).attempt = s.attempt := rfl
@[simp] theorem State.setCore_last (s : State) (c : Nat) (k : Core) : (s.setCore c k).last = s.last := rfl
@[simp] theorem State.setCore_lastCommitted (s : State) (c : Nat) (k : Core) : (s.setCore c k).lastCommitted = s.lastCommitted := rfl
@[simp] theorem State.setCore_ownWord (s : State) (c : Nat) (k : Core) : (s.setCore c k).ownWord = s.ownWord := rfl
@[simp] theorem State.setCore_mergedWord (s : State) (c : Nat) (k : Core) : (s.setCore c k).mergedWord = s.mergedWord := rfl
@[simp] theorem State.setCore_verdict (s : State) (c : Nat) (k : Core) : (s.setCore c k).verdict = s.verdict := rfl
@[simp] theorem State.setCore_scb (s : State) (c : Nat) (k : Core) : (s.setCore c k).scb = s.scb := rfl
@[simp] theorem State.setCore_snap (s : State) (c : Nat) (k : Core) : (s.setCore c k).snap = s.snap := rfl
@[simp] theorem State.setCore_openWait (s : State) (c : Nat) (k : Core) : (s.setCore c k).openWait = s.openWait := rfl
@[simp] theorem State.setCore_abortWait (s : State) (c : Nat) (k : Core) : (s.setCore c k).abortWait = s.abortWait := rfl
@[simp] theorem State.setCore_voteReady (s : State) (c : Nat) (k : Core) : (s.setCore c k).voteReady = s.voteReady := rfl
@[simp] theorem State.setCore_childVotes (s : State) (c : Nat) (k : Core) : (s.setCore c k).childVotes = s.childVotes := rfl
@[simp] theorem State.setCore_silenceAt (s : State) (c : Nat) (k : Core) : (s.setCore c k).silenceAt = s.silenceAt := rfl
@[simp] theorem State.setCore_votedAt (s : State) (c : Nat) (k : Core) : (s.setCore c k).votedAt = s.votedAt := rfl
@[simp] theorem State.setCore_lastQuery (s : State) (c : Nat) (k : Core) : (s.setCore c k).lastQuery = s.lastQuery := rfl
@[simp] theorem State.setCore_verdictLog (s : State) (c : Nat) (k : Core) : (s.setCore c k).verdictLog = s.verdictLog := rfl
@[simp] theorem State.setCore_last64 (s : State) (c : Nat) (k : Core) : (s.setCore c k).last64 = s.last64 := rfl
@[simp] theorem State.setCore_wosUndo (s : State) (c : Nat) (k : Core) : (s.setCore c k).wosUndo = s.wosUndo := rfl
@[simp] theorem State.setCore_tree (s : State) (c : Nat) (k : Core) : (s.setCore c k).tree = s.tree := rfl
@[simp] theorem State.setCore_sched (s : State) (c : Nat) (k : Core) : (s.setCore c k).sched = s.sched := rfl
@[simp] theorem State.setCore_carve (s : State) (c : Nat) (k : Core) : (s.setCore c k).carve = s.carve := rfl
@[simp] theorem State.setCore_marks (s : State) (c : Nat) (k : Core) : (s.setCore c k).marks = s.marks := rfl
@[simp] theorem State.setCore_freePages (s : State) (c : Nat) (k : Core) : (s.setCore c k).freePages = s.freePages := rfl
@[simp] theorem State.setCore_fabric (s : State) (c : Nat) (k : Core) : (s.setCore c k).fabric = s.fabric := rfl
@[simp] theorem State.setCore_fprefix (s : State) (c : Nat) (k : Core) : (s.setCore c k).fprefix = s.fprefix := rfl
@[simp] theorem State.setCore_hostPrefix (s : State) (c : Nat) (k : Core) : (s.setCore c k).hostPrefix = s.hostPrefix := rfl
@[simp] theorem State.setCore_links (s : State) (c : Nat) (k : Core) : (s.setCore c k).links = s.links := rfl
@[simp] theorem State.setCore_flows (s : State) (c : Nat) (k : Core) : (s.setCore c k).flows = s.flows := rfl
@[simp] theorem State.setCore_portWord (s : State) (c : Nat) (k : Core) : (s.setCore c k).portWord = s.portWord := rfl
@[simp] theorem State.setCore_comms (s : State) (c : Nat) (k : Core) : (s.setCore c k).comms = s.comms := rfl
@[simp] theorem State.setCore_halted (s : State) (c : Nat) (k : Core) : (s.setCore c k).halted = s.halted := rfl
@[simp] theorem State.setCore_power (s : State) (c : Nat) (k : Core) : (s.setCore c k).power = s.power := rfl
@[simp] theorem State.setCore_board (s : State) (c : Nat) (k : Core) : (s.setCore c k).board = s.board := rfl
@[simp] theorem State.setCore_clocks (s : State) (c : Nat) (k : Core) : (s.setCore c k).clocks = s.clocks := rfl
@[simp] theorem State.setCore_thermalHold (s : State) (c : Nat) (k : Core) : (s.setCore c k).thermalHold = s.thermalHold := rfl
@[simp] theorem State.setCore_boardHold (s : State) (c : Nat) (k : Core) : (s.setCore c k).boardHold = s.boardHold := rfl
@[simp] theorem State.setCore_boardOkSince (s : State) (c : Nat) (k : Core) : (s.setCore c k).boardOkSince = s.boardOkSince := rfl
@[simp] theorem State.setCore_limitHold (s : State) (c : Nat) (k : Core) : (s.setCore c k).limitHold = s.limitHold := rfl
@[simp] theorem State.setCore_readings (s : State) (c : Nat) (k : Core) : (s.setCore c k).readings = s.readings := rfl
@[simp] theorem State.setCore_replanning (s : State) (c : Nat) (k : Core) : (s.setCore c k).replanning = s.replanning := rfl
@[simp] theorem State.setCore_plan (s : State) (c : Nat) (k : Core) : (s.setCore c k).plan = s.plan := rfl
@[simp] theorem State.setCore_nextPlan (s : State) (c : Nat) (k : Core) : (s.setCore c k).nextPlan = s.nextPlan := rfl
@[simp] theorem State.setCore_telem (s : State) (c : Nat) (k : Core) : (s.setCore c k).telem = s.telem := rfl
@[simp] theorem State.setCore_session (s : State) (c : Nat) (k : Core) : (s.setCore c k).session = s.session := rfl
@[simp] theorem State.setCore_host (s : State) (c : Nat) (k : Core) : (s.setCore c k).host = s.host := rfl
@[simp] theorem State.setCore_carried (s : State) (c : Nat) (k : Core) : (s.setCore c k).carried = s.carried := rfl
@[simp] theorem State.setCore_nextSession (s : State) (c : Nat) (k : Core) : (s.setCore c k).nextSession = s.nextSession := rfl
@[simp] theorem State.setCore_containers (s : State) (c : Nat) (k : Core) : (s.setCore c k).containers = s.containers := rfl
@[simp] theorem State.setCore_launches (s : State) (c : Nat) (k : Core) : (s.setCore c k).launches = s.launches := rfl
@[simp] theorem State.setCore_nextLaunch (s : State) (c : Nat) (k : Core) : (s.setCore c k).nextLaunch = s.nextLaunch := rfl
@[simp] theorem State.setCore_queueStamp (s : State) (c : Nat) (k : Core) : (s.setCore c k).queueStamp = s.queueStamp := rfl
@[simp] theorem State.setCore_units (s : State) (c : Nat) (k : Core) : (s.setCore c k).units = s.units := rfl
@[simp] theorem State.setCore_runs (s : State) (c : Nat) (k : Core) : (s.setCore c k).runs = s.runs := rfl
@[simp] theorem State.setCore_gathers (s : State) (c : Nat) (k : Core) : (s.setCore c k).gathers = s.gathers := rfl
@[simp] theorem State.setCore_remote (s : State) (c : Nat) (k : Core) : (s.setCore c k).remote = s.remote := rfl
@[simp] theorem State.setCore_bulk (s : State) (c : Nat) (k : Core) : (s.setCore c k).bulk = s.bulk := rfl
@[simp] theorem State.setCore_nextRemote (s : State) (c : Nat) (k : Core) : (s.setCore c k).nextRemote = s.nextRemote := rfl
@[simp] theorem State.setCore_ctl (s : State) (c : Nat) (k : Core) : (s.setCore c k).ctl = s.ctl := rfl
@[simp] theorem State.setCore_ctlQueue (s : State) (c : Nat) (k : Core) : (s.setCore c k).ctlQueue = s.ctlQueue := rfl
@[simp] theorem State.setCore_fw (s : State) (c : Nat) (k : Core) : (s.setCore c k).fw = s.fw := rfl
@[simp] theorem State.setCore_time (s : State) (c : Nat) (k : Core) : (s.setCore c k).time = s.time := rfl
@[simp] theorem State.setCore_bootAt (s : State) (c : Nat) (k : Core) : (s.setCore c k).bootAt = s.bootAt := rfl
@[simp] theorem State.setCore_lastPush (s : State) (c : Nat) (k : Core) : (s.setCore c k).lastPush = s.lastPush := rfl
@[simp] theorem State.setCore_lastRepeat (s : State) (c : Nat) (k : Core) : (s.setCore c k).lastRepeat = s.lastRepeat := rfl
@[simp] theorem State.setCore_lastDecay (s : State) (c : Nat) (k : Core) : (s.setCore c k).lastDecay = s.lastDecay := rfl
@[simp] theorem State.setCore_lastTick (s : State) (c : Nat) (k : Core) : (s.setCore c k).lastTick = s.lastTick := rfl
@[simp] theorem State.setCore_lastPlan (s : State) (c : Nat) (k : Core) : (s.setCore c k).lastPlan = s.lastPlan := rfl
@[simp] theorem State.setCore_out (s : State) (c : Nat) (k : Core) : (s.setCore c k).out = s.out := rfl
@[simp] theorem State.setCore_turns (s : State) (c : Nat) (k : Core) : (s.setCore c k).turns = s.turns := rfl
@[simp] theorem State.setCore_cur (s : State) (c : Nat) (k : Core) : (s.setCore c k).cur = s.cur := rfl
@[simp] theorem State.setCore_curUnit (s : State) (c : Nat) (k : Core) : (s.setCore c k).curUnit = s.curUnit := rfl
@[simp] theorem State.setCore_seq (s : State) (c : Nat) (k : Core) : (s.setCore c k).seq = s.seq := rfl
@[simp] theorem State.setCore_fresh (s : State) (c : Nat) (k : Core) : (s.setCore c k).fresh = s.fresh := rfl
@[simp] theorem State.setCore_cores (s : State) (c : Nat) (k : Core) : (s.setCore c k).cores = Tab.set s.cores c k := rfl
@[simp] theorem State.modCore_deviceId (s : State) (c : Nat) (f : Core → Core) : (s.modCore c f).deviceId = s.deviceId := rfl
@[simp] theorem State.modCore_fenced (s : State) (c : Nat) (f : Core → Core) : (s.modCore c f).fenced = s.fenced := rfl
@[simp] theorem State.modCore_mem0 (s : State) (c : Nat) (f : Core → Core) : (s.modCore c f).mem0 = s.mem0 := rfl
@[simp] theorem State.modCore_mem1 (s : State) (c : Nat) (f : Core → Core) : (s.modCore c f).mem1 = s.mem1 := rfl
@[simp] theorem State.modCore_slotMeta (s : State) (c : Nat) (f : Core → Core) : (s.modCore c f).slotMeta = s.slotMeta := rfl
@[simp] theorem State.modCore_written (s : State) (c : Nat) (f : Core → Core) : (s.modCore c f).written = s.written := rfl
@[simp] theorem State.modCore_l2 (s : State) (c : Nat) (f : Core → Core) : (s.modCore c f).l2 = s.l2 := rfl
@[simp] theorem State.modCore_cached (s : State) (c : Nat) (f : Core → Core) : (s.modCore c f).cached = s.cached := rfl
@[simp] theorem State.modCore_llc (s : State) (c : Nat) (f : Core → Core) : (s.modCore c f).llc = s.llc := rfl
@[simp] theorem State.modCore_tlb (s : State) (c : Nat) (f : Core → Core) : (s.modCore c f).tlb = s.tlb := rfl
@[simp] theorem State.modCore_roots (s : State) (c : Nat) (f : Core → Core) : (s.modCore c f).roots = s.roots := rfl
@[simp] theorem State.modCore_dirs (s : State) (c : Nat) (f : Core → Core) : (s.modCore c f).dirs = s.dirs := rfl
@[simp] theorem State.modCore_tableTop (s : State) (c : Nat) (f : Core → Core) : (s.modCore c f).tableTop = s.tableTop := rfl
@[simp] theorem State.modCore_leaves (s : State) (c : Nat) (f : Core → Core) : (s.modCore c f).leaves = s.leaves := rfl
@[simp] theorem State.modCore_bigLeaves (s : State) (c : Nat) (f : Core → Core) : (s.modCore c f).bigLeaves = s.bigLeaves := rfl
@[simp] theorem State.modCore_waiting (s : State) (c : Nat) (f : Core → Core) : (s.modCore c f).waiting = s.waiting := rfl
@[simp] theorem State.modCore_wants (s : State) (c : Nat) (f : Core → Core) : (s.modCore c f).wants = s.wants := rfl
@[simp] theorem State.modCore_bitFix (s : State) (c : Nat) (f : Core → Core) : (s.modCore c f).bitFix = s.bitFix := rfl
@[simp] theorem State.modCore_frames (s : State) (c : Nat) (f : Core → Core) : (s.modCore c f).frames = s.frames := rfl
@[simp] theorem State.modCore_nextFrame (s : State) (c : Nat) (f : Core → Core) : (s.modCore c f).nextFrame = s.nextFrame := rfl
@[simp] theorem State.modCore_transfers (s : State) (c : Nat) (f : Core → Core) : (s.modCore c f).transfers = s.transfers := rfl
@[simp] theorem State.modCore_nextTransfer (s : State) (c : Nat) (f : Core → Core) : (s.modCore c f).nextTransfer = s.nextTransfer := rfl
@[simp] theorem State.modCore_moves (s : State) (c : Nat) (f : Core → Core) : (s.modCore c f).moves = s.moves := rfl
@[simp] theorem State.modCore_lost (s : State) (c : Nat) (f : Core → Core) : (s.modCore c f).lost = s.lost := rfl
@[simp] theorem State.modCore_shoots (s : State) (c : Nat) (f : Core → Core) : (s.modCore c f).shoots = s.shoots := rfl
@[simp] theorem State.modCore_held (s : State) (c : Nat) (f : Core → Core) : (s.modCore c f).held = s.held := rfl
@[simp] theorem State.modCore_commitBits (s : State) (c : Nat) (f : Core → Core) : (s.modCore c f).commitBits = s.commitBits := rfl
@[simp] theorem State.modCore_commitDue (s : State) (c : Nat) (f : Core → Core) : (s.modCore c f).commitDue = s.commitDue := rfl
@[simp] theorem State.modCore_stepState (s : State) (c : Nat) (f : Core → Core) : (s.modCore c f).stepState = s.stepState := rfl
@[simp] theorem State.modCore_attempt (s : State) (c : Nat) (f : Core → Core) : (s.modCore c f).attempt = s.attempt := rfl
@[simp] theorem State.modCore_last (s : State) (c : Nat) (f : Core → Core) : (s.modCore c f).last = s.last := rfl
@[simp] theorem State.modCore_lastCommitted (s : State) (c : Nat) (f : Core → Core) : (s.modCore c f).lastCommitted = s.lastCommitted := rfl
@[simp] theorem State.modCore_ownWord (s : State) (c : Nat) (f : Core → Core) : (s.modCore c f).ownWord = s.ownWord := rfl
@[simp] theorem State.modCore_mergedWord (s : State) (c : Nat) (f : Core → Core) : (s.modCore c f).mergedWord = s.mergedWord := rfl
@[simp] theorem State.modCore_verdict (s : State) (c : Nat) (f : Core → Core) : (s.modCore c f).verdict = s.verdict := rfl
@[simp] theorem State.modCore_scb (s : State) (c : Nat) (f : Core → Core) : (s.modCore c f).scb = s.scb := rfl
@[simp] theorem State.modCore_snap (s : State) (c : Nat) (f : Core → Core) : (s.modCore c f).snap = s.snap := rfl
@[simp] theorem State.modCore_openWait (s : State) (c : Nat) (f : Core → Core) : (s.modCore c f).openWait = s.openWait := rfl
@[simp] theorem State.modCore_abortWait (s : State) (c : Nat) (f : Core → Core) : (s.modCore c f).abortWait = s.abortWait := rfl
@[simp] theorem State.modCore_voteReady (s : State) (c : Nat) (f : Core → Core) : (s.modCore c f).voteReady = s.voteReady := rfl
@[simp] theorem State.modCore_childVotes (s : State) (c : Nat) (f : Core → Core) : (s.modCore c f).childVotes = s.childVotes := rfl
@[simp] theorem State.modCore_silenceAt (s : State) (c : Nat) (f : Core → Core) : (s.modCore c f).silenceAt = s.silenceAt := rfl
@[simp] theorem State.modCore_votedAt (s : State) (c : Nat) (f : Core → Core) : (s.modCore c f).votedAt = s.votedAt := rfl
@[simp] theorem State.modCore_lastQuery (s : State) (c : Nat) (f : Core → Core) : (s.modCore c f).lastQuery = s.lastQuery := rfl
@[simp] theorem State.modCore_verdictLog (s : State) (c : Nat) (f : Core → Core) : (s.modCore c f).verdictLog = s.verdictLog := rfl
@[simp] theorem State.modCore_last64 (s : State) (c : Nat) (f : Core → Core) : (s.modCore c f).last64 = s.last64 := rfl
@[simp] theorem State.modCore_wosUndo (s : State) (c : Nat) (f : Core → Core) : (s.modCore c f).wosUndo = s.wosUndo := rfl
@[simp] theorem State.modCore_tree (s : State) (c : Nat) (f : Core → Core) : (s.modCore c f).tree = s.tree := rfl
@[simp] theorem State.modCore_sched (s : State) (c : Nat) (f : Core → Core) : (s.modCore c f).sched = s.sched := rfl
@[simp] theorem State.modCore_carve (s : State) (c : Nat) (f : Core → Core) : (s.modCore c f).carve = s.carve := rfl
@[simp] theorem State.modCore_marks (s : State) (c : Nat) (f : Core → Core) : (s.modCore c f).marks = s.marks := rfl
@[simp] theorem State.modCore_freePages (s : State) (c : Nat) (f : Core → Core) : (s.modCore c f).freePages = s.freePages := rfl
@[simp] theorem State.modCore_fabric (s : State) (c : Nat) (f : Core → Core) : (s.modCore c f).fabric = s.fabric := rfl
@[simp] theorem State.modCore_fprefix (s : State) (c : Nat) (f : Core → Core) : (s.modCore c f).fprefix = s.fprefix := rfl
@[simp] theorem State.modCore_hostPrefix (s : State) (c : Nat) (f : Core → Core) : (s.modCore c f).hostPrefix = s.hostPrefix := rfl
@[simp] theorem State.modCore_links (s : State) (c : Nat) (f : Core → Core) : (s.modCore c f).links = s.links := rfl
@[simp] theorem State.modCore_flows (s : State) (c : Nat) (f : Core → Core) : (s.modCore c f).flows = s.flows := rfl
@[simp] theorem State.modCore_portWord (s : State) (c : Nat) (f : Core → Core) : (s.modCore c f).portWord = s.portWord := rfl
@[simp] theorem State.modCore_comms (s : State) (c : Nat) (f : Core → Core) : (s.modCore c f).comms = s.comms := rfl
@[simp] theorem State.modCore_halted (s : State) (c : Nat) (f : Core → Core) : (s.modCore c f).halted = s.halted := rfl
@[simp] theorem State.modCore_power (s : State) (c : Nat) (f : Core → Core) : (s.modCore c f).power = s.power := rfl
@[simp] theorem State.modCore_board (s : State) (c : Nat) (f : Core → Core) : (s.modCore c f).board = s.board := rfl
@[simp] theorem State.modCore_clocks (s : State) (c : Nat) (f : Core → Core) : (s.modCore c f).clocks = s.clocks := rfl
@[simp] theorem State.modCore_thermalHold (s : State) (c : Nat) (f : Core → Core) : (s.modCore c f).thermalHold = s.thermalHold := rfl
@[simp] theorem State.modCore_boardHold (s : State) (c : Nat) (f : Core → Core) : (s.modCore c f).boardHold = s.boardHold := rfl
@[simp] theorem State.modCore_boardOkSince (s : State) (c : Nat) (f : Core → Core) : (s.modCore c f).boardOkSince = s.boardOkSince := rfl
@[simp] theorem State.modCore_limitHold (s : State) (c : Nat) (f : Core → Core) : (s.modCore c f).limitHold = s.limitHold := rfl
@[simp] theorem State.modCore_readings (s : State) (c : Nat) (f : Core → Core) : (s.modCore c f).readings = s.readings := rfl
@[simp] theorem State.modCore_replanning (s : State) (c : Nat) (f : Core → Core) : (s.modCore c f).replanning = s.replanning := rfl
@[simp] theorem State.modCore_plan (s : State) (c : Nat) (f : Core → Core) : (s.modCore c f).plan = s.plan := rfl
@[simp] theorem State.modCore_nextPlan (s : State) (c : Nat) (f : Core → Core) : (s.modCore c f).nextPlan = s.nextPlan := rfl
@[simp] theorem State.modCore_telem (s : State) (c : Nat) (f : Core → Core) : (s.modCore c f).telem = s.telem := rfl
@[simp] theorem State.modCore_session (s : State) (c : Nat) (f : Core → Core) : (s.modCore c f).session = s.session := rfl
@[simp] theorem State.modCore_host (s : State) (c : Nat) (f : Core → Core) : (s.modCore c f).host = s.host := rfl
@[simp] theorem State.modCore_carried (s : State) (c : Nat) (f : Core → Core) : (s.modCore c f).carried = s.carried := rfl
@[simp] theorem State.modCore_nextSession (s : State) (c : Nat) (f : Core → Core) : (s.modCore c f).nextSession = s.nextSession := rfl
@[simp] theorem State.modCore_containers (s : State) (c : Nat) (f : Core → Core) : (s.modCore c f).containers = s.containers := rfl
@[simp] theorem State.modCore_launches (s : State) (c : Nat) (f : Core → Core) : (s.modCore c f).launches = s.launches := rfl
@[simp] theorem State.modCore_nextLaunch (s : State) (c : Nat) (f : Core → Core) : (s.modCore c f).nextLaunch = s.nextLaunch := rfl
@[simp] theorem State.modCore_queueStamp (s : State) (c : Nat) (f : Core → Core) : (s.modCore c f).queueStamp = s.queueStamp := rfl
@[simp] theorem State.modCore_units (s : State) (c : Nat) (f : Core → Core) : (s.modCore c f).units = s.units := rfl
@[simp] theorem State.modCore_runs (s : State) (c : Nat) (f : Core → Core) : (s.modCore c f).runs = s.runs := rfl
@[simp] theorem State.modCore_gathers (s : State) (c : Nat) (f : Core → Core) : (s.modCore c f).gathers = s.gathers := rfl
@[simp] theorem State.modCore_remote (s : State) (c : Nat) (f : Core → Core) : (s.modCore c f).remote = s.remote := rfl
@[simp] theorem State.modCore_bulk (s : State) (c : Nat) (f : Core → Core) : (s.modCore c f).bulk = s.bulk := rfl
@[simp] theorem State.modCore_nextRemote (s : State) (c : Nat) (f : Core → Core) : (s.modCore c f).nextRemote = s.nextRemote := rfl
@[simp] theorem State.modCore_ctl (s : State) (c : Nat) (f : Core → Core) : (s.modCore c f).ctl = s.ctl := rfl
@[simp] theorem State.modCore_ctlQueue (s : State) (c : Nat) (f : Core → Core) : (s.modCore c f).ctlQueue = s.ctlQueue := rfl
@[simp] theorem State.modCore_fw (s : State) (c : Nat) (f : Core → Core) : (s.modCore c f).fw = s.fw := rfl
@[simp] theorem State.modCore_time (s : State) (c : Nat) (f : Core → Core) : (s.modCore c f).time = s.time := rfl
@[simp] theorem State.modCore_bootAt (s : State) (c : Nat) (f : Core → Core) : (s.modCore c f).bootAt = s.bootAt := rfl
@[simp] theorem State.modCore_lastPush (s : State) (c : Nat) (f : Core → Core) : (s.modCore c f).lastPush = s.lastPush := rfl
@[simp] theorem State.modCore_lastRepeat (s : State) (c : Nat) (f : Core → Core) : (s.modCore c f).lastRepeat = s.lastRepeat := rfl
@[simp] theorem State.modCore_lastDecay (s : State) (c : Nat) (f : Core → Core) : (s.modCore c f).lastDecay = s.lastDecay := rfl
@[simp] theorem State.modCore_lastTick (s : State) (c : Nat) (f : Core → Core) : (s.modCore c f).lastTick = s.lastTick := rfl
@[simp] theorem State.modCore_lastPlan (s : State) (c : Nat) (f : Core → Core) : (s.modCore c f).lastPlan = s.lastPlan := rfl
@[simp] theorem State.modCore_out (s : State) (c : Nat) (f : Core → Core) : (s.modCore c f).out = s.out := rfl
@[simp] theorem State.modCore_turns (s : State) (c : Nat) (f : Core → Core) : (s.modCore c f).turns = s.turns := rfl
@[simp] theorem State.modCore_cur (s : State) (c : Nat) (f : Core → Core) : (s.modCore c f).cur = s.cur := rfl
@[simp] theorem State.modCore_curUnit (s : State) (c : Nat) (f : Core → Core) : (s.modCore c f).curUnit = s.curUnit := rfl
@[simp] theorem State.modCore_seq (s : State) (c : Nat) (f : Core → Core) : (s.modCore c f).seq = s.seq := rfl
@[simp] theorem State.modCore_fresh (s : State) (c : Nat) (f : Core → Core) : (s.modCore c f).fresh = s.fresh := rfl
@[simp] theorem State.modMe_deviceId (s : State) (f : Core → Core) : (s.modMe f).deviceId = s.deviceId := rfl
@[simp] theorem State.modMe_fenced (s : State) (f : Core → Core) : (s.modMe f).fenced = s.fenced := rfl
@[simp] theorem State.modMe_mem0 (s : State) (f : Core → Core) : (s.modMe f).mem0 = s.mem0 := rfl
@[simp] theorem State.modMe_mem1 (s : State) (f : Core → Core) : (s.modMe f).mem1 = s.mem1 := rfl
@[simp] theorem State.modMe_slotMeta (s : State) (f : Core → Core) : (s.modMe f).slotMeta = s.slotMeta := rfl
@[simp] theorem State.modMe_written (s : State) (f : Core → Core) : (s.modMe f).written = s.written := rfl
@[simp] theorem State.modMe_l2 (s : State) (f : Core → Core) : (s.modMe f).l2 = s.l2 := rfl
@[simp] theorem State.modMe_cached (s : State) (f : Core → Core) : (s.modMe f).cached = s.cached := rfl
@[simp] theorem State.modMe_llc (s : State) (f : Core → Core) : (s.modMe f).llc = s.llc := rfl
@[simp] theorem State.modMe_tlb (s : State) (f : Core → Core) : (s.modMe f).tlb = s.tlb := rfl
@[simp] theorem State.modMe_roots (s : State) (f : Core → Core) : (s.modMe f).roots = s.roots := rfl
@[simp] theorem State.modMe_dirs (s : State) (f : Core → Core) : (s.modMe f).dirs = s.dirs := rfl
@[simp] theorem State.modMe_tableTop (s : State) (f : Core → Core) : (s.modMe f).tableTop = s.tableTop := rfl
@[simp] theorem State.modMe_leaves (s : State) (f : Core → Core) : (s.modMe f).leaves = s.leaves := rfl
@[simp] theorem State.modMe_bigLeaves (s : State) (f : Core → Core) : (s.modMe f).bigLeaves = s.bigLeaves := rfl
@[simp] theorem State.modMe_waiting (s : State) (f : Core → Core) : (s.modMe f).waiting = s.waiting := rfl
@[simp] theorem State.modMe_wants (s : State) (f : Core → Core) : (s.modMe f).wants = s.wants := rfl
@[simp] theorem State.modMe_bitFix (s : State) (f : Core → Core) : (s.modMe f).bitFix = s.bitFix := rfl
@[simp] theorem State.modMe_frames (s : State) (f : Core → Core) : (s.modMe f).frames = s.frames := rfl
@[simp] theorem State.modMe_nextFrame (s : State) (f : Core → Core) : (s.modMe f).nextFrame = s.nextFrame := rfl
@[simp] theorem State.modMe_transfers (s : State) (f : Core → Core) : (s.modMe f).transfers = s.transfers := rfl
@[simp] theorem State.modMe_nextTransfer (s : State) (f : Core → Core) : (s.modMe f).nextTransfer = s.nextTransfer := rfl
@[simp] theorem State.modMe_moves (s : State) (f : Core → Core) : (s.modMe f).moves = s.moves := rfl
@[simp] theorem State.modMe_lost (s : State) (f : Core → Core) : (s.modMe f).lost = s.lost := rfl
@[simp] theorem State.modMe_shoots (s : State) (f : Core → Core) : (s.modMe f).shoots = s.shoots := rfl
@[simp] theorem State.modMe_held (s : State) (f : Core → Core) : (s.modMe f).held = s.held := rfl
@[simp] theorem State.modMe_commitBits (s : State) (f : Core → Core) : (s.modMe f).commitBits = s.commitBits := rfl
@[simp] theorem State.modMe_commitDue (s : State) (f : Core → Core) : (s.modMe f).commitDue = s.commitDue := rfl
@[simp] theorem State.modMe_stepState (s : State) (f : Core → Core) : (s.modMe f).stepState = s.stepState := rfl
@[simp] theorem State.modMe_attempt (s : State) (f : Core → Core) : (s.modMe f).attempt = s.attempt := rfl
@[simp] theorem State.modMe_last (s : State) (f : Core → Core) : (s.modMe f).last = s.last := rfl
@[simp] theorem State.modMe_lastCommitted (s : State) (f : Core → Core) : (s.modMe f).lastCommitted = s.lastCommitted := rfl
@[simp] theorem State.modMe_ownWord (s : State) (f : Core → Core) : (s.modMe f).ownWord = s.ownWord := rfl
@[simp] theorem State.modMe_mergedWord (s : State) (f : Core → Core) : (s.modMe f).mergedWord = s.mergedWord := rfl
@[simp] theorem State.modMe_verdict (s : State) (f : Core → Core) : (s.modMe f).verdict = s.verdict := rfl
@[simp] theorem State.modMe_scb (s : State) (f : Core → Core) : (s.modMe f).scb = s.scb := rfl
@[simp] theorem State.modMe_snap (s : State) (f : Core → Core) : (s.modMe f).snap = s.snap := rfl
@[simp] theorem State.modMe_openWait (s : State) (f : Core → Core) : (s.modMe f).openWait = s.openWait := rfl
@[simp] theorem State.modMe_abortWait (s : State) (f : Core → Core) : (s.modMe f).abortWait = s.abortWait := rfl
@[simp] theorem State.modMe_voteReady (s : State) (f : Core → Core) : (s.modMe f).voteReady = s.voteReady := rfl
@[simp] theorem State.modMe_childVotes (s : State) (f : Core → Core) : (s.modMe f).childVotes = s.childVotes := rfl
@[simp] theorem State.modMe_silenceAt (s : State) (f : Core → Core) : (s.modMe f).silenceAt = s.silenceAt := rfl
@[simp] theorem State.modMe_votedAt (s : State) (f : Core → Core) : (s.modMe f).votedAt = s.votedAt := rfl
@[simp] theorem State.modMe_lastQuery (s : State) (f : Core → Core) : (s.modMe f).lastQuery = s.lastQuery := rfl
@[simp] theorem State.modMe_verdictLog (s : State) (f : Core → Core) : (s.modMe f).verdictLog = s.verdictLog := rfl
@[simp] theorem State.modMe_last64 (s : State) (f : Core → Core) : (s.modMe f).last64 = s.last64 := rfl
@[simp] theorem State.modMe_wosUndo (s : State) (f : Core → Core) : (s.modMe f).wosUndo = s.wosUndo := rfl
@[simp] theorem State.modMe_tree (s : State) (f : Core → Core) : (s.modMe f).tree = s.tree := rfl
@[simp] theorem State.modMe_sched (s : State) (f : Core → Core) : (s.modMe f).sched = s.sched := rfl
@[simp] theorem State.modMe_carve (s : State) (f : Core → Core) : (s.modMe f).carve = s.carve := rfl
@[simp] theorem State.modMe_marks (s : State) (f : Core → Core) : (s.modMe f).marks = s.marks := rfl
@[simp] theorem State.modMe_freePages (s : State) (f : Core → Core) : (s.modMe f).freePages = s.freePages := rfl
@[simp] theorem State.modMe_fabric (s : State) (f : Core → Core) : (s.modMe f).fabric = s.fabric := rfl
@[simp] theorem State.modMe_fprefix (s : State) (f : Core → Core) : (s.modMe f).fprefix = s.fprefix := rfl
@[simp] theorem State.modMe_hostPrefix (s : State) (f : Core → Core) : (s.modMe f).hostPrefix = s.hostPrefix := rfl
@[simp] theorem State.modMe_links (s : State) (f : Core → Core) : (s.modMe f).links = s.links := rfl
@[simp] theorem State.modMe_flows (s : State) (f : Core → Core) : (s.modMe f).flows = s.flows := rfl
@[simp] theorem State.modMe_portWord (s : State) (f : Core → Core) : (s.modMe f).portWord = s.portWord := rfl
@[simp] theorem State.modMe_comms (s : State) (f : Core → Core) : (s.modMe f).comms = s.comms := rfl
@[simp] theorem State.modMe_halted (s : State) (f : Core → Core) : (s.modMe f).halted = s.halted := rfl
@[simp] theorem State.modMe_power (s : State) (f : Core → Core) : (s.modMe f).power = s.power := rfl
@[simp] theorem State.modMe_board (s : State) (f : Core → Core) : (s.modMe f).board = s.board := rfl
@[simp] theorem State.modMe_clocks (s : State) (f : Core → Core) : (s.modMe f).clocks = s.clocks := rfl
@[simp] theorem State.modMe_thermalHold (s : State) (f : Core → Core) : (s.modMe f).thermalHold = s.thermalHold := rfl
@[simp] theorem State.modMe_boardHold (s : State) (f : Core → Core) : (s.modMe f).boardHold = s.boardHold := rfl
@[simp] theorem State.modMe_boardOkSince (s : State) (f : Core → Core) : (s.modMe f).boardOkSince = s.boardOkSince := rfl
@[simp] theorem State.modMe_limitHold (s : State) (f : Core → Core) : (s.modMe f).limitHold = s.limitHold := rfl
@[simp] theorem State.modMe_readings (s : State) (f : Core → Core) : (s.modMe f).readings = s.readings := rfl
@[simp] theorem State.modMe_replanning (s : State) (f : Core → Core) : (s.modMe f).replanning = s.replanning := rfl
@[simp] theorem State.modMe_plan (s : State) (f : Core → Core) : (s.modMe f).plan = s.plan := rfl
@[simp] theorem State.modMe_nextPlan (s : State) (f : Core → Core) : (s.modMe f).nextPlan = s.nextPlan := rfl
@[simp] theorem State.modMe_telem (s : State) (f : Core → Core) : (s.modMe f).telem = s.telem := rfl
@[simp] theorem State.modMe_session (s : State) (f : Core → Core) : (s.modMe f).session = s.session := rfl
@[simp] theorem State.modMe_host (s : State) (f : Core → Core) : (s.modMe f).host = s.host := rfl
@[simp] theorem State.modMe_carried (s : State) (f : Core → Core) : (s.modMe f).carried = s.carried := rfl
@[simp] theorem State.modMe_nextSession (s : State) (f : Core → Core) : (s.modMe f).nextSession = s.nextSession := rfl
@[simp] theorem State.modMe_containers (s : State) (f : Core → Core) : (s.modMe f).containers = s.containers := rfl
@[simp] theorem State.modMe_launches (s : State) (f : Core → Core) : (s.modMe f).launches = s.launches := rfl
@[simp] theorem State.modMe_nextLaunch (s : State) (f : Core → Core) : (s.modMe f).nextLaunch = s.nextLaunch := rfl
@[simp] theorem State.modMe_queueStamp (s : State) (f : Core → Core) : (s.modMe f).queueStamp = s.queueStamp := rfl
@[simp] theorem State.modMe_units (s : State) (f : Core → Core) : (s.modMe f).units = s.units := rfl
@[simp] theorem State.modMe_runs (s : State) (f : Core → Core) : (s.modMe f).runs = s.runs := rfl
@[simp] theorem State.modMe_gathers (s : State) (f : Core → Core) : (s.modMe f).gathers = s.gathers := rfl
@[simp] theorem State.modMe_remote (s : State) (f : Core → Core) : (s.modMe f).remote = s.remote := rfl
@[simp] theorem State.modMe_bulk (s : State) (f : Core → Core) : (s.modMe f).bulk = s.bulk := rfl
@[simp] theorem State.modMe_nextRemote (s : State) (f : Core → Core) : (s.modMe f).nextRemote = s.nextRemote := rfl
@[simp] theorem State.modMe_ctl (s : State) (f : Core → Core) : (s.modMe f).ctl = s.ctl := rfl
@[simp] theorem State.modMe_ctlQueue (s : State) (f : Core → Core) : (s.modMe f).ctlQueue = s.ctlQueue := rfl
@[simp] theorem State.modMe_fw (s : State) (f : Core → Core) : (s.modMe f).fw = s.fw := rfl
@[simp] theorem State.modMe_time (s : State) (f : Core → Core) : (s.modMe f).time = s.time := rfl
@[simp] theorem State.modMe_bootAt (s : State) (f : Core → Core) : (s.modMe f).bootAt = s.bootAt := rfl
@[simp] theorem State.modMe_lastPush (s : State) (f : Core → Core) : (s.modMe f).lastPush = s.lastPush := rfl
@[simp] theorem State.modMe_lastRepeat (s : State) (f : Core → Core) : (s.modMe f).lastRepeat = s.lastRepeat := rfl
@[simp] theorem State.modMe_lastDecay (s : State) (f : Core → Core) : (s.modMe f).lastDecay = s.lastDecay := rfl
@[simp] theorem State.modMe_lastTick (s : State) (f : Core → Core) : (s.modMe f).lastTick = s.lastTick := rfl
@[simp] theorem State.modMe_lastPlan (s : State) (f : Core → Core) : (s.modMe f).lastPlan = s.lastPlan := rfl
@[simp] theorem State.modMe_out (s : State) (f : Core → Core) : (s.modMe f).out = s.out := rfl
@[simp] theorem State.modMe_turns (s : State) (f : Core → Core) : (s.modMe f).turns = s.turns := rfl
@[simp] theorem State.modMe_cur (s : State) (f : Core → Core) : (s.modMe f).cur = s.cur := rfl
@[simp] theorem State.modMe_curUnit (s : State) (f : Core → Core) : (s.modMe f).curUnit = s.curUnit := rfl
@[simp] theorem State.modMe_seq (s : State) (f : Core → Core) : (s.modMe f).seq = s.seq := rfl
@[simp] theorem State.modMe_fresh (s : State) (f : Core → Core) : (s.modMe f).fresh = s.fresh := rfl
@[simp] theorem State.post_deviceId (s : State) (lat : Nat) (e : Eff) : (s.post lat e).deviceId = s.deviceId := rfl
@[simp] theorem State.post_fenced (s : State) (lat : Nat) (e : Eff) : (s.post lat e).fenced = s.fenced := rfl
@[simp] theorem State.post_mem0 (s : State) (lat : Nat) (e : Eff) : (s.post lat e).mem0 = s.mem0 := rfl
@[simp] theorem State.post_mem1 (s : State) (lat : Nat) (e : Eff) : (s.post lat e).mem1 = s.mem1 := rfl
@[simp] theorem State.post_slotMeta (s : State) (lat : Nat) (e : Eff) : (s.post lat e).slotMeta = s.slotMeta := rfl
@[simp] theorem State.post_written (s : State) (lat : Nat) (e : Eff) : (s.post lat e).written = s.written := rfl
@[simp] theorem State.post_l2 (s : State) (lat : Nat) (e : Eff) : (s.post lat e).l2 = s.l2 := rfl
@[simp] theorem State.post_cached (s : State) (lat : Nat) (e : Eff) : (s.post lat e).cached = s.cached := rfl
@[simp] theorem State.post_llc (s : State) (lat : Nat) (e : Eff) : (s.post lat e).llc = s.llc := rfl
@[simp] theorem State.post_tlb (s : State) (lat : Nat) (e : Eff) : (s.post lat e).tlb = s.tlb := rfl
@[simp] theorem State.post_roots (s : State) (lat : Nat) (e : Eff) : (s.post lat e).roots = s.roots := rfl
@[simp] theorem State.post_dirs (s : State) (lat : Nat) (e : Eff) : (s.post lat e).dirs = s.dirs := rfl
@[simp] theorem State.post_tableTop (s : State) (lat : Nat) (e : Eff) : (s.post lat e).tableTop = s.tableTop := rfl
@[simp] theorem State.post_leaves (s : State) (lat : Nat) (e : Eff) : (s.post lat e).leaves = s.leaves := rfl
@[simp] theorem State.post_bigLeaves (s : State) (lat : Nat) (e : Eff) : (s.post lat e).bigLeaves = s.bigLeaves := rfl
@[simp] theorem State.post_waiting (s : State) (lat : Nat) (e : Eff) : (s.post lat e).waiting = s.waiting := rfl
@[simp] theorem State.post_wants (s : State) (lat : Nat) (e : Eff) : (s.post lat e).wants = s.wants := rfl
@[simp] theorem State.post_bitFix (s : State) (lat : Nat) (e : Eff) : (s.post lat e).bitFix = s.bitFix := rfl
@[simp] theorem State.post_frames (s : State) (lat : Nat) (e : Eff) : (s.post lat e).frames = s.frames := rfl
@[simp] theorem State.post_nextFrame (s : State) (lat : Nat) (e : Eff) : (s.post lat e).nextFrame = s.nextFrame := rfl
@[simp] theorem State.post_transfers (s : State) (lat : Nat) (e : Eff) : (s.post lat e).transfers = s.transfers := rfl
@[simp] theorem State.post_nextTransfer (s : State) (lat : Nat) (e : Eff) : (s.post lat e).nextTransfer = s.nextTransfer := rfl
@[simp] theorem State.post_moves (s : State) (lat : Nat) (e : Eff) : (s.post lat e).moves = s.moves := rfl
@[simp] theorem State.post_lost (s : State) (lat : Nat) (e : Eff) : (s.post lat e).lost = s.lost := rfl
@[simp] theorem State.post_shoots (s : State) (lat : Nat) (e : Eff) : (s.post lat e).shoots = s.shoots := rfl
@[simp] theorem State.post_held (s : State) (lat : Nat) (e : Eff) : (s.post lat e).held = s.held := rfl
@[simp] theorem State.post_commitBits (s : State) (lat : Nat) (e : Eff) : (s.post lat e).commitBits = s.commitBits := rfl
@[simp] theorem State.post_commitDue (s : State) (lat : Nat) (e : Eff) : (s.post lat e).commitDue = s.commitDue := rfl
@[simp] theorem State.post_stepState (s : State) (lat : Nat) (e : Eff) : (s.post lat e).stepState = s.stepState := rfl
@[simp] theorem State.post_attempt (s : State) (lat : Nat) (e : Eff) : (s.post lat e).attempt = s.attempt := rfl
@[simp] theorem State.post_last (s : State) (lat : Nat) (e : Eff) : (s.post lat e).last = s.last := rfl
@[simp] theorem State.post_lastCommitted (s : State) (lat : Nat) (e : Eff) : (s.post lat e).lastCommitted = s.lastCommitted := rfl
@[simp] theorem State.post_ownWord (s : State) (lat : Nat) (e : Eff) : (s.post lat e).ownWord = s.ownWord := rfl
@[simp] theorem State.post_mergedWord (s : State) (lat : Nat) (e : Eff) : (s.post lat e).mergedWord = s.mergedWord := rfl
@[simp] theorem State.post_verdict (s : State) (lat : Nat) (e : Eff) : (s.post lat e).verdict = s.verdict := rfl
@[simp] theorem State.post_scb (s : State) (lat : Nat) (e : Eff) : (s.post lat e).scb = s.scb := rfl
@[simp] theorem State.post_snap (s : State) (lat : Nat) (e : Eff) : (s.post lat e).snap = s.snap := rfl
@[simp] theorem State.post_openWait (s : State) (lat : Nat) (e : Eff) : (s.post lat e).openWait = s.openWait := rfl
@[simp] theorem State.post_abortWait (s : State) (lat : Nat) (e : Eff) : (s.post lat e).abortWait = s.abortWait := rfl
@[simp] theorem State.post_voteReady (s : State) (lat : Nat) (e : Eff) : (s.post lat e).voteReady = s.voteReady := rfl
@[simp] theorem State.post_childVotes (s : State) (lat : Nat) (e : Eff) : (s.post lat e).childVotes = s.childVotes := rfl
@[simp] theorem State.post_silenceAt (s : State) (lat : Nat) (e : Eff) : (s.post lat e).silenceAt = s.silenceAt := rfl
@[simp] theorem State.post_votedAt (s : State) (lat : Nat) (e : Eff) : (s.post lat e).votedAt = s.votedAt := rfl
@[simp] theorem State.post_lastQuery (s : State) (lat : Nat) (e : Eff) : (s.post lat e).lastQuery = s.lastQuery := rfl
@[simp] theorem State.post_verdictLog (s : State) (lat : Nat) (e : Eff) : (s.post lat e).verdictLog = s.verdictLog := rfl
@[simp] theorem State.post_last64 (s : State) (lat : Nat) (e : Eff) : (s.post lat e).last64 = s.last64 := rfl
@[simp] theorem State.post_wosUndo (s : State) (lat : Nat) (e : Eff) : (s.post lat e).wosUndo = s.wosUndo := rfl
@[simp] theorem State.post_tree (s : State) (lat : Nat) (e : Eff) : (s.post lat e).tree = s.tree := rfl
@[simp] theorem State.post_sched (s : State) (lat : Nat) (e : Eff) : (s.post lat e).sched = s.sched := rfl
@[simp] theorem State.post_carve (s : State) (lat : Nat) (e : Eff) : (s.post lat e).carve = s.carve := rfl
@[simp] theorem State.post_marks (s : State) (lat : Nat) (e : Eff) : (s.post lat e).marks = s.marks := rfl
@[simp] theorem State.post_freePages (s : State) (lat : Nat) (e : Eff) : (s.post lat e).freePages = s.freePages := rfl
@[simp] theorem State.post_fabric (s : State) (lat : Nat) (e : Eff) : (s.post lat e).fabric = s.fabric := rfl
@[simp] theorem State.post_fprefix (s : State) (lat : Nat) (e : Eff) : (s.post lat e).fprefix = s.fprefix := rfl
@[simp] theorem State.post_hostPrefix (s : State) (lat : Nat) (e : Eff) : (s.post lat e).hostPrefix = s.hostPrefix := rfl
@[simp] theorem State.post_links (s : State) (lat : Nat) (e : Eff) : (s.post lat e).links = s.links := rfl
@[simp] theorem State.post_flows (s : State) (lat : Nat) (e : Eff) : (s.post lat e).flows = s.flows := rfl
@[simp] theorem State.post_portWord (s : State) (lat : Nat) (e : Eff) : (s.post lat e).portWord = s.portWord := rfl
@[simp] theorem State.post_comms (s : State) (lat : Nat) (e : Eff) : (s.post lat e).comms = s.comms := rfl
@[simp] theorem State.post_halted (s : State) (lat : Nat) (e : Eff) : (s.post lat e).halted = s.halted := rfl
@[simp] theorem State.post_power (s : State) (lat : Nat) (e : Eff) : (s.post lat e).power = s.power := rfl
@[simp] theorem State.post_board (s : State) (lat : Nat) (e : Eff) : (s.post lat e).board = s.board := rfl
@[simp] theorem State.post_clocks (s : State) (lat : Nat) (e : Eff) : (s.post lat e).clocks = s.clocks := rfl
@[simp] theorem State.post_thermalHold (s : State) (lat : Nat) (e : Eff) : (s.post lat e).thermalHold = s.thermalHold := rfl
@[simp] theorem State.post_boardHold (s : State) (lat : Nat) (e : Eff) : (s.post lat e).boardHold = s.boardHold := rfl
@[simp] theorem State.post_boardOkSince (s : State) (lat : Nat) (e : Eff) : (s.post lat e).boardOkSince = s.boardOkSince := rfl
@[simp] theorem State.post_limitHold (s : State) (lat : Nat) (e : Eff) : (s.post lat e).limitHold = s.limitHold := rfl
@[simp] theorem State.post_readings (s : State) (lat : Nat) (e : Eff) : (s.post lat e).readings = s.readings := rfl
@[simp] theorem State.post_replanning (s : State) (lat : Nat) (e : Eff) : (s.post lat e).replanning = s.replanning := rfl
@[simp] theorem State.post_plan (s : State) (lat : Nat) (e : Eff) : (s.post lat e).plan = s.plan := rfl
@[simp] theorem State.post_nextPlan (s : State) (lat : Nat) (e : Eff) : (s.post lat e).nextPlan = s.nextPlan := rfl
@[simp] theorem State.post_telem (s : State) (lat : Nat) (e : Eff) : (s.post lat e).telem = s.telem := rfl
@[simp] theorem State.post_session (s : State) (lat : Nat) (e : Eff) : (s.post lat e).session = s.session := rfl
@[simp] theorem State.post_host (s : State) (lat : Nat) (e : Eff) : (s.post lat e).host = s.host := rfl
@[simp] theorem State.post_carried (s : State) (lat : Nat) (e : Eff) : (s.post lat e).carried = s.carried := rfl
@[simp] theorem State.post_nextSession (s : State) (lat : Nat) (e : Eff) : (s.post lat e).nextSession = s.nextSession := rfl
@[simp] theorem State.post_containers (s : State) (lat : Nat) (e : Eff) : (s.post lat e).containers = s.containers := rfl
@[simp] theorem State.post_launches (s : State) (lat : Nat) (e : Eff) : (s.post lat e).launches = s.launches := rfl
@[simp] theorem State.post_nextLaunch (s : State) (lat : Nat) (e : Eff) : (s.post lat e).nextLaunch = s.nextLaunch := rfl
@[simp] theorem State.post_queueStamp (s : State) (lat : Nat) (e : Eff) : (s.post lat e).queueStamp = s.queueStamp := rfl
@[simp] theorem State.post_units (s : State) (lat : Nat) (e : Eff) : (s.post lat e).units = s.units := rfl
@[simp] theorem State.post_runs (s : State) (lat : Nat) (e : Eff) : (s.post lat e).runs = s.runs := rfl
@[simp] theorem State.post_gathers (s : State) (lat : Nat) (e : Eff) : (s.post lat e).gathers = s.gathers := rfl
@[simp] theorem State.post_remote (s : State) (lat : Nat) (e : Eff) : (s.post lat e).remote = s.remote := rfl
@[simp] theorem State.post_bulk (s : State) (lat : Nat) (e : Eff) : (s.post lat e).bulk = s.bulk := rfl
@[simp] theorem State.post_nextRemote (s : State) (lat : Nat) (e : Eff) : (s.post lat e).nextRemote = s.nextRemote := rfl
@[simp] theorem State.post_ctl (s : State) (lat : Nat) (e : Eff) : (s.post lat e).ctl = s.ctl := rfl
@[simp] theorem State.post_ctlQueue (s : State) (lat : Nat) (e : Eff) : (s.post lat e).ctlQueue = s.ctlQueue := rfl
@[simp] theorem State.post_fw (s : State) (lat : Nat) (e : Eff) : (s.post lat e).fw = s.fw := rfl
@[simp] theorem State.post_time (s : State) (lat : Nat) (e : Eff) : (s.post lat e).time = s.time := rfl
@[simp] theorem State.post_bootAt (s : State) (lat : Nat) (e : Eff) : (s.post lat e).bootAt = s.bootAt := rfl
@[simp] theorem State.post_lastPush (s : State) (lat : Nat) (e : Eff) : (s.post lat e).lastPush = s.lastPush := rfl
@[simp] theorem State.post_lastRepeat (s : State) (lat : Nat) (e : Eff) : (s.post lat e).lastRepeat = s.lastRepeat := rfl
@[simp] theorem State.post_lastDecay (s : State) (lat : Nat) (e : Eff) : (s.post lat e).lastDecay = s.lastDecay := rfl
@[simp] theorem State.post_lastTick (s : State) (lat : Nat) (e : Eff) : (s.post lat e).lastTick = s.lastTick := rfl
@[simp] theorem State.post_lastPlan (s : State) (lat : Nat) (e : Eff) : (s.post lat e).lastPlan = s.lastPlan := rfl
@[simp] theorem State.post_out (s : State) (lat : Nat) (e : Eff) : (s.post lat e).out = s.out := rfl
@[simp] theorem State.post_turns (s : State) (lat : Nat) (e : Eff) : (s.post lat e).turns = s.turns := rfl
@[simp] theorem State.post_cur (s : State) (lat : Nat) (e : Eff) : (s.post lat e).cur = s.cur := rfl
@[simp] theorem State.post_curUnit (s : State) (lat : Nat) (e : Eff) : (s.post lat e).curUnit = s.curUnit := rfl
@[simp] theorem State.post_seq (s : State) (lat : Nat) (e : Eff) : (s.post lat e).seq = s.seq := rfl
@[simp] theorem State.post_fresh (s : State) (lat : Nat) (e : Eff) : (s.post lat e).fresh = s.fresh := rfl
@[simp] theorem State.pennonOr_cores (s : State) (bits : BitVec 16) : (s.pennonOr bits).cores = s.cores := rfl
@[simp] theorem State.pennonOr_deviceId (s : State) (bits : BitVec 16) : (s.pennonOr bits).deviceId = s.deviceId := rfl
@[simp] theorem State.pennonOr_fenced (s : State) (bits : BitVec 16) : (s.pennonOr bits).fenced = s.fenced := rfl
@[simp] theorem State.pennonOr_mem0 (s : State) (bits : BitVec 16) : (s.pennonOr bits).mem0 = s.mem0 := rfl
@[simp] theorem State.pennonOr_mem1 (s : State) (bits : BitVec 16) : (s.pennonOr bits).mem1 = s.mem1 := rfl
@[simp] theorem State.pennonOr_slotMeta (s : State) (bits : BitVec 16) : (s.pennonOr bits).slotMeta = s.slotMeta := rfl
@[simp] theorem State.pennonOr_written (s : State) (bits : BitVec 16) : (s.pennonOr bits).written = s.written := rfl
@[simp] theorem State.pennonOr_l2 (s : State) (bits : BitVec 16) : (s.pennonOr bits).l2 = s.l2 := rfl
@[simp] theorem State.pennonOr_cached (s : State) (bits : BitVec 16) : (s.pennonOr bits).cached = s.cached := rfl
@[simp] theorem State.pennonOr_llc (s : State) (bits : BitVec 16) : (s.pennonOr bits).llc = s.llc := rfl
@[simp] theorem State.pennonOr_tlb (s : State) (bits : BitVec 16) : (s.pennonOr bits).tlb = s.tlb := rfl
@[simp] theorem State.pennonOr_roots (s : State) (bits : BitVec 16) : (s.pennonOr bits).roots = s.roots := rfl
@[simp] theorem State.pennonOr_dirs (s : State) (bits : BitVec 16) : (s.pennonOr bits).dirs = s.dirs := rfl
@[simp] theorem State.pennonOr_tableTop (s : State) (bits : BitVec 16) : (s.pennonOr bits).tableTop = s.tableTop := rfl
@[simp] theorem State.pennonOr_leaves (s : State) (bits : BitVec 16) : (s.pennonOr bits).leaves = s.leaves := rfl
@[simp] theorem State.pennonOr_bigLeaves (s : State) (bits : BitVec 16) : (s.pennonOr bits).bigLeaves = s.bigLeaves := rfl
@[simp] theorem State.pennonOr_waiting (s : State) (bits : BitVec 16) : (s.pennonOr bits).waiting = s.waiting := rfl
@[simp] theorem State.pennonOr_wants (s : State) (bits : BitVec 16) : (s.pennonOr bits).wants = s.wants := rfl
@[simp] theorem State.pennonOr_bitFix (s : State) (bits : BitVec 16) : (s.pennonOr bits).bitFix = s.bitFix := rfl
@[simp] theorem State.pennonOr_frames (s : State) (bits : BitVec 16) : (s.pennonOr bits).frames = s.frames := rfl
@[simp] theorem State.pennonOr_nextFrame (s : State) (bits : BitVec 16) : (s.pennonOr bits).nextFrame = s.nextFrame := rfl
@[simp] theorem State.pennonOr_transfers (s : State) (bits : BitVec 16) : (s.pennonOr bits).transfers = s.transfers := rfl
@[simp] theorem State.pennonOr_nextTransfer (s : State) (bits : BitVec 16) : (s.pennonOr bits).nextTransfer = s.nextTransfer := rfl
@[simp] theorem State.pennonOr_moves (s : State) (bits : BitVec 16) : (s.pennonOr bits).moves = s.moves := rfl
@[simp] theorem State.pennonOr_lost (s : State) (bits : BitVec 16) : (s.pennonOr bits).lost = s.lost := rfl
@[simp] theorem State.pennonOr_shoots (s : State) (bits : BitVec 16) : (s.pennonOr bits).shoots = s.shoots := rfl
@[simp] theorem State.pennonOr_held (s : State) (bits : BitVec 16) : (s.pennonOr bits).held = s.held := rfl
@[simp] theorem State.pennonOr_commitBits (s : State) (bits : BitVec 16) : (s.pennonOr bits).commitBits = s.commitBits := rfl
@[simp] theorem State.pennonOr_commitDue (s : State) (bits : BitVec 16) : (s.pennonOr bits).commitDue = s.commitDue := rfl
@[simp] theorem State.pennonOr_stepState (s : State) (bits : BitVec 16) : (s.pennonOr bits).stepState = s.stepState := rfl
@[simp] theorem State.pennonOr_attempt (s : State) (bits : BitVec 16) : (s.pennonOr bits).attempt = s.attempt := rfl
@[simp] theorem State.pennonOr_last (s : State) (bits : BitVec 16) : (s.pennonOr bits).last = s.last := rfl
@[simp] theorem State.pennonOr_lastCommitted (s : State) (bits : BitVec 16) : (s.pennonOr bits).lastCommitted = s.lastCommitted := rfl
@[simp] theorem State.pennonOr_mergedWord (s : State) (bits : BitVec 16) : (s.pennonOr bits).mergedWord = s.mergedWord := rfl
@[simp] theorem State.pennonOr_verdict (s : State) (bits : BitVec 16) : (s.pennonOr bits).verdict = s.verdict := rfl
@[simp] theorem State.pennonOr_scb (s : State) (bits : BitVec 16) : (s.pennonOr bits).scb = s.scb := rfl
@[simp] theorem State.pennonOr_snap (s : State) (bits : BitVec 16) : (s.pennonOr bits).snap = s.snap := rfl
@[simp] theorem State.pennonOr_openWait (s : State) (bits : BitVec 16) : (s.pennonOr bits).openWait = s.openWait := rfl
@[simp] theorem State.pennonOr_abortWait (s : State) (bits : BitVec 16) : (s.pennonOr bits).abortWait = s.abortWait := rfl
@[simp] theorem State.pennonOr_voteReady (s : State) (bits : BitVec 16) : (s.pennonOr bits).voteReady = s.voteReady := rfl
@[simp] theorem State.pennonOr_childVotes (s : State) (bits : BitVec 16) : (s.pennonOr bits).childVotes = s.childVotes := rfl
@[simp] theorem State.pennonOr_silenceAt (s : State) (bits : BitVec 16) : (s.pennonOr bits).silenceAt = s.silenceAt := rfl
@[simp] theorem State.pennonOr_votedAt (s : State) (bits : BitVec 16) : (s.pennonOr bits).votedAt = s.votedAt := rfl
@[simp] theorem State.pennonOr_lastQuery (s : State) (bits : BitVec 16) : (s.pennonOr bits).lastQuery = s.lastQuery := rfl
@[simp] theorem State.pennonOr_verdictLog (s : State) (bits : BitVec 16) : (s.pennonOr bits).verdictLog = s.verdictLog := rfl
@[simp] theorem State.pennonOr_last64 (s : State) (bits : BitVec 16) : (s.pennonOr bits).last64 = s.last64 := rfl
@[simp] theorem State.pennonOr_wosUndo (s : State) (bits : BitVec 16) : (s.pennonOr bits).wosUndo = s.wosUndo := rfl
@[simp] theorem State.pennonOr_tree (s : State) (bits : BitVec 16) : (s.pennonOr bits).tree = s.tree := rfl
@[simp] theorem State.pennonOr_sched (s : State) (bits : BitVec 16) : (s.pennonOr bits).sched = s.sched := rfl
@[simp] theorem State.pennonOr_carve (s : State) (bits : BitVec 16) : (s.pennonOr bits).carve = s.carve := rfl
@[simp] theorem State.pennonOr_marks (s : State) (bits : BitVec 16) : (s.pennonOr bits).marks = s.marks := rfl
@[simp] theorem State.pennonOr_freePages (s : State) (bits : BitVec 16) : (s.pennonOr bits).freePages = s.freePages := rfl
@[simp] theorem State.pennonOr_fabric (s : State) (bits : BitVec 16) : (s.pennonOr bits).fabric = s.fabric := rfl
@[simp] theorem State.pennonOr_fprefix (s : State) (bits : BitVec 16) : (s.pennonOr bits).fprefix = s.fprefix := rfl
@[simp] theorem State.pennonOr_hostPrefix (s : State) (bits : BitVec 16) : (s.pennonOr bits).hostPrefix = s.hostPrefix := rfl
@[simp] theorem State.pennonOr_links (s : State) (bits : BitVec 16) : (s.pennonOr bits).links = s.links := rfl
@[simp] theorem State.pennonOr_flows (s : State) (bits : BitVec 16) : (s.pennonOr bits).flows = s.flows := rfl
@[simp] theorem State.pennonOr_portWord (s : State) (bits : BitVec 16) : (s.pennonOr bits).portWord = s.portWord := rfl
@[simp] theorem State.pennonOr_comms (s : State) (bits : BitVec 16) : (s.pennonOr bits).comms = s.comms := rfl
@[simp] theorem State.pennonOr_halted (s : State) (bits : BitVec 16) : (s.pennonOr bits).halted = s.halted := rfl
@[simp] theorem State.pennonOr_power (s : State) (bits : BitVec 16) : (s.pennonOr bits).power = s.power := rfl
@[simp] theorem State.pennonOr_board (s : State) (bits : BitVec 16) : (s.pennonOr bits).board = s.board := rfl
@[simp] theorem State.pennonOr_clocks (s : State) (bits : BitVec 16) : (s.pennonOr bits).clocks = s.clocks := rfl
@[simp] theorem State.pennonOr_thermalHold (s : State) (bits : BitVec 16) : (s.pennonOr bits).thermalHold = s.thermalHold := rfl
@[simp] theorem State.pennonOr_boardHold (s : State) (bits : BitVec 16) : (s.pennonOr bits).boardHold = s.boardHold := rfl
@[simp] theorem State.pennonOr_boardOkSince (s : State) (bits : BitVec 16) : (s.pennonOr bits).boardOkSince = s.boardOkSince := rfl
@[simp] theorem State.pennonOr_limitHold (s : State) (bits : BitVec 16) : (s.pennonOr bits).limitHold = s.limitHold := rfl
@[simp] theorem State.pennonOr_readings (s : State) (bits : BitVec 16) : (s.pennonOr bits).readings = s.readings := rfl
@[simp] theorem State.pennonOr_replanning (s : State) (bits : BitVec 16) : (s.pennonOr bits).replanning = s.replanning := rfl
@[simp] theorem State.pennonOr_plan (s : State) (bits : BitVec 16) : (s.pennonOr bits).plan = s.plan := rfl
@[simp] theorem State.pennonOr_nextPlan (s : State) (bits : BitVec 16) : (s.pennonOr bits).nextPlan = s.nextPlan := rfl
@[simp] theorem State.pennonOr_telem (s : State) (bits : BitVec 16) : (s.pennonOr bits).telem = s.telem := rfl
@[simp] theorem State.pennonOr_session (s : State) (bits : BitVec 16) : (s.pennonOr bits).session = s.session := rfl
@[simp] theorem State.pennonOr_host (s : State) (bits : BitVec 16) : (s.pennonOr bits).host = s.host := rfl
@[simp] theorem State.pennonOr_carried (s : State) (bits : BitVec 16) : (s.pennonOr bits).carried = s.carried := rfl
@[simp] theorem State.pennonOr_nextSession (s : State) (bits : BitVec 16) : (s.pennonOr bits).nextSession = s.nextSession := rfl
@[simp] theorem State.pennonOr_containers (s : State) (bits : BitVec 16) : (s.pennonOr bits).containers = s.containers := rfl
@[simp] theorem State.pennonOr_launches (s : State) (bits : BitVec 16) : (s.pennonOr bits).launches = s.launches := rfl
@[simp] theorem State.pennonOr_nextLaunch (s : State) (bits : BitVec 16) : (s.pennonOr bits).nextLaunch = s.nextLaunch := rfl
@[simp] theorem State.pennonOr_queueStamp (s : State) (bits : BitVec 16) : (s.pennonOr bits).queueStamp = s.queueStamp := rfl
@[simp] theorem State.pennonOr_units (s : State) (bits : BitVec 16) : (s.pennonOr bits).units = s.units := rfl
@[simp] theorem State.pennonOr_runs (s : State) (bits : BitVec 16) : (s.pennonOr bits).runs = s.runs := rfl
@[simp] theorem State.pennonOr_gathers (s : State) (bits : BitVec 16) : (s.pennonOr bits).gathers = s.gathers := rfl
@[simp] theorem State.pennonOr_remote (s : State) (bits : BitVec 16) : (s.pennonOr bits).remote = s.remote := rfl
@[simp] theorem State.pennonOr_bulk (s : State) (bits : BitVec 16) : (s.pennonOr bits).bulk = s.bulk := rfl
@[simp] theorem State.pennonOr_nextRemote (s : State) (bits : BitVec 16) : (s.pennonOr bits).nextRemote = s.nextRemote := rfl
@[simp] theorem State.pennonOr_ctl (s : State) (bits : BitVec 16) : (s.pennonOr bits).ctl = s.ctl := rfl
@[simp] theorem State.pennonOr_ctlQueue (s : State) (bits : BitVec 16) : (s.pennonOr bits).ctlQueue = s.ctlQueue := rfl
@[simp] theorem State.pennonOr_fw (s : State) (bits : BitVec 16) : (s.pennonOr bits).fw = s.fw := rfl
@[simp] theorem State.pennonOr_time (s : State) (bits : BitVec 16) : (s.pennonOr bits).time = s.time := rfl
@[simp] theorem State.pennonOr_bootAt (s : State) (bits : BitVec 16) : (s.pennonOr bits).bootAt = s.bootAt := rfl
@[simp] theorem State.pennonOr_lastPush (s : State) (bits : BitVec 16) : (s.pennonOr bits).lastPush = s.lastPush := rfl
@[simp] theorem State.pennonOr_lastRepeat (s : State) (bits : BitVec 16) : (s.pennonOr bits).lastRepeat = s.lastRepeat := rfl
@[simp] theorem State.pennonOr_lastDecay (s : State) (bits : BitVec 16) : (s.pennonOr bits).lastDecay = s.lastDecay := rfl
@[simp] theorem State.pennonOr_lastTick (s : State) (bits : BitVec 16) : (s.pennonOr bits).lastTick = s.lastTick := rfl
@[simp] theorem State.pennonOr_lastPlan (s : State) (bits : BitVec 16) : (s.pennonOr bits).lastPlan = s.lastPlan := rfl
@[simp] theorem State.pennonOr_out (s : State) (bits : BitVec 16) : (s.pennonOr bits).out = s.out := rfl
@[simp] theorem State.pennonOr_turns (s : State) (bits : BitVec 16) : (s.pennonOr bits).turns = s.turns := rfl
@[simp] theorem State.pennonOr_cur (s : State) (bits : BitVec 16) : (s.pennonOr bits).cur = s.cur := rfl
@[simp] theorem State.pennonOr_curUnit (s : State) (bits : BitVec 16) : (s.pennonOr bits).curUnit = s.curUnit := rfl
@[simp] theorem State.pennonOr_seq (s : State) (bits : BitVec 16) : (s.pennonOr bits).seq = s.seq := rfl
@[simp] theorem State.pennonOr_fresh (s : State) (bits : BitVec 16) : (s.pennonOr bits).fresh = s.fresh := rfl
@[simp] theorem State.pennonOr_ownWord (s : State) (bits : BitVec 16) : (s.pennonOr bits).ownWord = s.ownWord ||| bits := rfl
@[simp] theorem State.count_cores (s : State) (k : Nat) : (s.count k).cores = s.cores := rfl
@[simp] theorem State.count_deviceId (s : State) (k : Nat) : (s.count k).deviceId = s.deviceId := rfl
@[simp] theorem State.count_fenced (s : State) (k : Nat) : (s.count k).fenced = s.fenced := rfl
@[simp] theorem State.count_mem0 (s : State) (k : Nat) : (s.count k).mem0 = s.mem0 := rfl
@[simp] theorem State.count_mem1 (s : State) (k : Nat) : (s.count k).mem1 = s.mem1 := rfl
@[simp] theorem State.count_slotMeta (s : State) (k : Nat) : (s.count k).slotMeta = s.slotMeta := rfl
@[simp] theorem State.count_written (s : State) (k : Nat) : (s.count k).written = s.written := rfl
@[simp] theorem State.count_l2 (s : State) (k : Nat) : (s.count k).l2 = s.l2 := rfl
@[simp] theorem State.count_cached (s : State) (k : Nat) : (s.count k).cached = s.cached := rfl
@[simp] theorem State.count_llc (s : State) (k : Nat) : (s.count k).llc = s.llc := rfl
@[simp] theorem State.count_tlb (s : State) (k : Nat) : (s.count k).tlb = s.tlb := rfl
@[simp] theorem State.count_roots (s : State) (k : Nat) : (s.count k).roots = s.roots := rfl
@[simp] theorem State.count_dirs (s : State) (k : Nat) : (s.count k).dirs = s.dirs := rfl
@[simp] theorem State.count_tableTop (s : State) (k : Nat) : (s.count k).tableTop = s.tableTop := rfl
@[simp] theorem State.count_leaves (s : State) (k : Nat) : (s.count k).leaves = s.leaves := rfl
@[simp] theorem State.count_bigLeaves (s : State) (k : Nat) : (s.count k).bigLeaves = s.bigLeaves := rfl
@[simp] theorem State.count_waiting (s : State) (k : Nat) : (s.count k).waiting = s.waiting := rfl
@[simp] theorem State.count_wants (s : State) (k : Nat) : (s.count k).wants = s.wants := rfl
@[simp] theorem State.count_bitFix (s : State) (k : Nat) : (s.count k).bitFix = s.bitFix := rfl
@[simp] theorem State.count_frames (s : State) (k : Nat) : (s.count k).frames = s.frames := rfl
@[simp] theorem State.count_nextFrame (s : State) (k : Nat) : (s.count k).nextFrame = s.nextFrame := rfl
@[simp] theorem State.count_transfers (s : State) (k : Nat) : (s.count k).transfers = s.transfers := rfl
@[simp] theorem State.count_nextTransfer (s : State) (k : Nat) : (s.count k).nextTransfer = s.nextTransfer := rfl
@[simp] theorem State.count_moves (s : State) (k : Nat) : (s.count k).moves = s.moves := rfl
@[simp] theorem State.count_lost (s : State) (k : Nat) : (s.count k).lost = s.lost := rfl
@[simp] theorem State.count_shoots (s : State) (k : Nat) : (s.count k).shoots = s.shoots := rfl
@[simp] theorem State.count_held (s : State) (k : Nat) : (s.count k).held = s.held := rfl
@[simp] theorem State.count_commitBits (s : State) (k : Nat) : (s.count k).commitBits = s.commitBits := rfl
@[simp] theorem State.count_commitDue (s : State) (k : Nat) : (s.count k).commitDue = s.commitDue := rfl
@[simp] theorem State.count_stepState (s : State) (k : Nat) : (s.count k).stepState = s.stepState := rfl
@[simp] theorem State.count_attempt (s : State) (k : Nat) : (s.count k).attempt = s.attempt := rfl
@[simp] theorem State.count_last (s : State) (k : Nat) : (s.count k).last = s.last := rfl
@[simp] theorem State.count_lastCommitted (s : State) (k : Nat) : (s.count k).lastCommitted = s.lastCommitted := rfl
@[simp] theorem State.count_ownWord (s : State) (k : Nat) : (s.count k).ownWord = s.ownWord := rfl
@[simp] theorem State.count_mergedWord (s : State) (k : Nat) : (s.count k).mergedWord = s.mergedWord := rfl
@[simp] theorem State.count_verdict (s : State) (k : Nat) : (s.count k).verdict = s.verdict := rfl
@[simp] theorem State.count_scb (s : State) (k : Nat) : (s.count k).scb = s.scb := rfl
@[simp] theorem State.count_snap (s : State) (k : Nat) : (s.count k).snap = s.snap := rfl
@[simp] theorem State.count_openWait (s : State) (k : Nat) : (s.count k).openWait = s.openWait := rfl
@[simp] theorem State.count_abortWait (s : State) (k : Nat) : (s.count k).abortWait = s.abortWait := rfl
@[simp] theorem State.count_voteReady (s : State) (k : Nat) : (s.count k).voteReady = s.voteReady := rfl
@[simp] theorem State.count_childVotes (s : State) (k : Nat) : (s.count k).childVotes = s.childVotes := rfl
@[simp] theorem State.count_silenceAt (s : State) (k : Nat) : (s.count k).silenceAt = s.silenceAt := rfl
@[simp] theorem State.count_votedAt (s : State) (k : Nat) : (s.count k).votedAt = s.votedAt := rfl
@[simp] theorem State.count_lastQuery (s : State) (k : Nat) : (s.count k).lastQuery = s.lastQuery := rfl
@[simp] theorem State.count_verdictLog (s : State) (k : Nat) : (s.count k).verdictLog = s.verdictLog := rfl
@[simp] theorem State.count_last64 (s : State) (k : Nat) : (s.count k).last64 = s.last64 := rfl
@[simp] theorem State.count_wosUndo (s : State) (k : Nat) : (s.count k).wosUndo = s.wosUndo := rfl
@[simp] theorem State.count_tree (s : State) (k : Nat) : (s.count k).tree = s.tree := rfl
@[simp] theorem State.count_sched (s : State) (k : Nat) : (s.count k).sched = s.sched := rfl
@[simp] theorem State.count_carve (s : State) (k : Nat) : (s.count k).carve = s.carve := rfl
@[simp] theorem State.count_marks (s : State) (k : Nat) : (s.count k).marks = s.marks := rfl
@[simp] theorem State.count_freePages (s : State) (k : Nat) : (s.count k).freePages = s.freePages := rfl
@[simp] theorem State.count_fabric (s : State) (k : Nat) : (s.count k).fabric = s.fabric := rfl
@[simp] theorem State.count_fprefix (s : State) (k : Nat) : (s.count k).fprefix = s.fprefix := rfl
@[simp] theorem State.count_hostPrefix (s : State) (k : Nat) : (s.count k).hostPrefix = s.hostPrefix := rfl
@[simp] theorem State.count_links (s : State) (k : Nat) : (s.count k).links = s.links := rfl
@[simp] theorem State.count_flows (s : State) (k : Nat) : (s.count k).flows = s.flows := rfl
@[simp] theorem State.count_portWord (s : State) (k : Nat) : (s.count k).portWord = s.portWord := rfl
@[simp] theorem State.count_comms (s : State) (k : Nat) : (s.count k).comms = s.comms := rfl
@[simp] theorem State.count_halted (s : State) (k : Nat) : (s.count k).halted = s.halted := rfl
@[simp] theorem State.count_power (s : State) (k : Nat) : (s.count k).power = s.power := rfl
@[simp] theorem State.count_board (s : State) (k : Nat) : (s.count k).board = s.board := rfl
@[simp] theorem State.count_clocks (s : State) (k : Nat) : (s.count k).clocks = s.clocks := rfl
@[simp] theorem State.count_thermalHold (s : State) (k : Nat) : (s.count k).thermalHold = s.thermalHold := rfl
@[simp] theorem State.count_boardHold (s : State) (k : Nat) : (s.count k).boardHold = s.boardHold := rfl
@[simp] theorem State.count_boardOkSince (s : State) (k : Nat) : (s.count k).boardOkSince = s.boardOkSince := rfl
@[simp] theorem State.count_limitHold (s : State) (k : Nat) : (s.count k).limitHold = s.limitHold := rfl
@[simp] theorem State.count_readings (s : State) (k : Nat) : (s.count k).readings = s.readings := rfl
@[simp] theorem State.count_replanning (s : State) (k : Nat) : (s.count k).replanning = s.replanning := rfl
@[simp] theorem State.count_plan (s : State) (k : Nat) : (s.count k).plan = s.plan := rfl
@[simp] theorem State.count_nextPlan (s : State) (k : Nat) : (s.count k).nextPlan = s.nextPlan := rfl
@[simp] theorem State.count_session (s : State) (k : Nat) : (s.count k).session = s.session := rfl
@[simp] theorem State.count_host (s : State) (k : Nat) : (s.count k).host = s.host := rfl
@[simp] theorem State.count_carried (s : State) (k : Nat) : (s.count k).carried = s.carried := rfl
@[simp] theorem State.count_nextSession (s : State) (k : Nat) : (s.count k).nextSession = s.nextSession := rfl
@[simp] theorem State.count_containers (s : State) (k : Nat) : (s.count k).containers = s.containers := rfl
@[simp] theorem State.count_launches (s : State) (k : Nat) : (s.count k).launches = s.launches := rfl
@[simp] theorem State.count_nextLaunch (s : State) (k : Nat) : (s.count k).nextLaunch = s.nextLaunch := rfl
@[simp] theorem State.count_queueStamp (s : State) (k : Nat) : (s.count k).queueStamp = s.queueStamp := rfl
@[simp] theorem State.count_units (s : State) (k : Nat) : (s.count k).units = s.units := rfl
@[simp] theorem State.count_runs (s : State) (k : Nat) : (s.count k).runs = s.runs := rfl
@[simp] theorem State.count_gathers (s : State) (k : Nat) : (s.count k).gathers = s.gathers := rfl
@[simp] theorem State.count_remote (s : State) (k : Nat) : (s.count k).remote = s.remote := rfl
@[simp] theorem State.count_bulk (s : State) (k : Nat) : (s.count k).bulk = s.bulk := rfl
@[simp] theorem State.count_nextRemote (s : State) (k : Nat) : (s.count k).nextRemote = s.nextRemote := rfl
@[simp] theorem State.count_ctl (s : State) (k : Nat) : (s.count k).ctl = s.ctl := rfl
@[simp] theorem State.count_ctlQueue (s : State) (k : Nat) : (s.count k).ctlQueue = s.ctlQueue := rfl
@[simp] theorem State.count_fw (s : State) (k : Nat) : (s.count k).fw = s.fw := rfl
@[simp] theorem State.count_time (s : State) (k : Nat) : (s.count k).time = s.time := rfl
@[simp] theorem State.count_bootAt (s : State) (k : Nat) : (s.count k).bootAt = s.bootAt := rfl
@[simp] theorem State.count_lastPush (s : State) (k : Nat) : (s.count k).lastPush = s.lastPush := rfl
@[simp] theorem State.count_lastRepeat (s : State) (k : Nat) : (s.count k).lastRepeat = s.lastRepeat := rfl
@[simp] theorem State.count_lastDecay (s : State) (k : Nat) : (s.count k).lastDecay = s.lastDecay := rfl
@[simp] theorem State.count_lastTick (s : State) (k : Nat) : (s.count k).lastTick = s.lastTick := rfl
@[simp] theorem State.count_lastPlan (s : State) (k : Nat) : (s.count k).lastPlan = s.lastPlan := rfl
@[simp] theorem State.count_out (s : State) (k : Nat) : (s.count k).out = s.out := rfl
@[simp] theorem State.count_turns (s : State) (k : Nat) : (s.count k).turns = s.turns := rfl
@[simp] theorem State.count_cur (s : State) (k : Nat) : (s.count k).cur = s.cur := rfl
@[simp] theorem State.count_curUnit (s : State) (k : Nat) : (s.count k).curUnit = s.curUnit := rfl
@[simp] theorem State.count_seq (s : State) (k : Nat) : (s.count k).seq = s.seq := rfl
@[simp] theorem State.count_fresh (s : State) (k : Nat) : (s.count k).fresh = s.fresh := rfl
@[simp] theorem State.countN_cores (s : State) (k n : Nat) : (s.countN k n).cores = s.cores := rfl
@[simp] theorem State.countN_deviceId (s : State) (k n : Nat) : (s.countN k n).deviceId = s.deviceId := rfl
@[simp] theorem State.countN_fenced (s : State) (k n : Nat) : (s.countN k n).fenced = s.fenced := rfl
@[simp] theorem State.countN_mem0 (s : State) (k n : Nat) : (s.countN k n).mem0 = s.mem0 := rfl
@[simp] theorem State.countN_mem1 (s : State) (k n : Nat) : (s.countN k n).mem1 = s.mem1 := rfl
@[simp] theorem State.countN_slotMeta (s : State) (k n : Nat) : (s.countN k n).slotMeta = s.slotMeta := rfl
@[simp] theorem State.countN_written (s : State) (k n : Nat) : (s.countN k n).written = s.written := rfl
@[simp] theorem State.countN_l2 (s : State) (k n : Nat) : (s.countN k n).l2 = s.l2 := rfl
@[simp] theorem State.countN_cached (s : State) (k n : Nat) : (s.countN k n).cached = s.cached := rfl
@[simp] theorem State.countN_llc (s : State) (k n : Nat) : (s.countN k n).llc = s.llc := rfl
@[simp] theorem State.countN_tlb (s : State) (k n : Nat) : (s.countN k n).tlb = s.tlb := rfl
@[simp] theorem State.countN_roots (s : State) (k n : Nat) : (s.countN k n).roots = s.roots := rfl
@[simp] theorem State.countN_dirs (s : State) (k n : Nat) : (s.countN k n).dirs = s.dirs := rfl
@[simp] theorem State.countN_tableTop (s : State) (k n : Nat) : (s.countN k n).tableTop = s.tableTop := rfl
@[simp] theorem State.countN_leaves (s : State) (k n : Nat) : (s.countN k n).leaves = s.leaves := rfl
@[simp] theorem State.countN_bigLeaves (s : State) (k n : Nat) : (s.countN k n).bigLeaves = s.bigLeaves := rfl
@[simp] theorem State.countN_waiting (s : State) (k n : Nat) : (s.countN k n).waiting = s.waiting := rfl
@[simp] theorem State.countN_wants (s : State) (k n : Nat) : (s.countN k n).wants = s.wants := rfl
@[simp] theorem State.countN_bitFix (s : State) (k n : Nat) : (s.countN k n).bitFix = s.bitFix := rfl
@[simp] theorem State.countN_frames (s : State) (k n : Nat) : (s.countN k n).frames = s.frames := rfl
@[simp] theorem State.countN_nextFrame (s : State) (k n : Nat) : (s.countN k n).nextFrame = s.nextFrame := rfl
@[simp] theorem State.countN_transfers (s : State) (k n : Nat) : (s.countN k n).transfers = s.transfers := rfl
@[simp] theorem State.countN_nextTransfer (s : State) (k n : Nat) : (s.countN k n).nextTransfer = s.nextTransfer := rfl
@[simp] theorem State.countN_moves (s : State) (k n : Nat) : (s.countN k n).moves = s.moves := rfl
@[simp] theorem State.countN_lost (s : State) (k n : Nat) : (s.countN k n).lost = s.lost := rfl
@[simp] theorem State.countN_shoots (s : State) (k n : Nat) : (s.countN k n).shoots = s.shoots := rfl
@[simp] theorem State.countN_held (s : State) (k n : Nat) : (s.countN k n).held = s.held := rfl
@[simp] theorem State.countN_commitBits (s : State) (k n : Nat) : (s.countN k n).commitBits = s.commitBits := rfl
@[simp] theorem State.countN_commitDue (s : State) (k n : Nat) : (s.countN k n).commitDue = s.commitDue := rfl
@[simp] theorem State.countN_stepState (s : State) (k n : Nat) : (s.countN k n).stepState = s.stepState := rfl
@[simp] theorem State.countN_attempt (s : State) (k n : Nat) : (s.countN k n).attempt = s.attempt := rfl
@[simp] theorem State.countN_last (s : State) (k n : Nat) : (s.countN k n).last = s.last := rfl
@[simp] theorem State.countN_lastCommitted (s : State) (k n : Nat) : (s.countN k n).lastCommitted = s.lastCommitted := rfl
@[simp] theorem State.countN_ownWord (s : State) (k n : Nat) : (s.countN k n).ownWord = s.ownWord := rfl
@[simp] theorem State.countN_mergedWord (s : State) (k n : Nat) : (s.countN k n).mergedWord = s.mergedWord := rfl
@[simp] theorem State.countN_verdict (s : State) (k n : Nat) : (s.countN k n).verdict = s.verdict := rfl
@[simp] theorem State.countN_scb (s : State) (k n : Nat) : (s.countN k n).scb = s.scb := rfl
@[simp] theorem State.countN_snap (s : State) (k n : Nat) : (s.countN k n).snap = s.snap := rfl
@[simp] theorem State.countN_openWait (s : State) (k n : Nat) : (s.countN k n).openWait = s.openWait := rfl
@[simp] theorem State.countN_abortWait (s : State) (k n : Nat) : (s.countN k n).abortWait = s.abortWait := rfl
@[simp] theorem State.countN_voteReady (s : State) (k n : Nat) : (s.countN k n).voteReady = s.voteReady := rfl
@[simp] theorem State.countN_childVotes (s : State) (k n : Nat) : (s.countN k n).childVotes = s.childVotes := rfl
@[simp] theorem State.countN_silenceAt (s : State) (k n : Nat) : (s.countN k n).silenceAt = s.silenceAt := rfl
@[simp] theorem State.countN_votedAt (s : State) (k n : Nat) : (s.countN k n).votedAt = s.votedAt := rfl
@[simp] theorem State.countN_lastQuery (s : State) (k n : Nat) : (s.countN k n).lastQuery = s.lastQuery := rfl
@[simp] theorem State.countN_verdictLog (s : State) (k n : Nat) : (s.countN k n).verdictLog = s.verdictLog := rfl
@[simp] theorem State.countN_last64 (s : State) (k n : Nat) : (s.countN k n).last64 = s.last64 := rfl
@[simp] theorem State.countN_wosUndo (s : State) (k n : Nat) : (s.countN k n).wosUndo = s.wosUndo := rfl
@[simp] theorem State.countN_tree (s : State) (k n : Nat) : (s.countN k n).tree = s.tree := rfl
@[simp] theorem State.countN_sched (s : State) (k n : Nat) : (s.countN k n).sched = s.sched := rfl
@[simp] theorem State.countN_carve (s : State) (k n : Nat) : (s.countN k n).carve = s.carve := rfl
@[simp] theorem State.countN_marks (s : State) (k n : Nat) : (s.countN k n).marks = s.marks := rfl
@[simp] theorem State.countN_freePages (s : State) (k n : Nat) : (s.countN k n).freePages = s.freePages := rfl
@[simp] theorem State.countN_fabric (s : State) (k n : Nat) : (s.countN k n).fabric = s.fabric := rfl
@[simp] theorem State.countN_fprefix (s : State) (k n : Nat) : (s.countN k n).fprefix = s.fprefix := rfl
@[simp] theorem State.countN_hostPrefix (s : State) (k n : Nat) : (s.countN k n).hostPrefix = s.hostPrefix := rfl
@[simp] theorem State.countN_links (s : State) (k n : Nat) : (s.countN k n).links = s.links := rfl
@[simp] theorem State.countN_flows (s : State) (k n : Nat) : (s.countN k n).flows = s.flows := rfl
@[simp] theorem State.countN_portWord (s : State) (k n : Nat) : (s.countN k n).portWord = s.portWord := rfl
@[simp] theorem State.countN_comms (s : State) (k n : Nat) : (s.countN k n).comms = s.comms := rfl
@[simp] theorem State.countN_halted (s : State) (k n : Nat) : (s.countN k n).halted = s.halted := rfl
@[simp] theorem State.countN_power (s : State) (k n : Nat) : (s.countN k n).power = s.power := rfl
@[simp] theorem State.countN_board (s : State) (k n : Nat) : (s.countN k n).board = s.board := rfl
@[simp] theorem State.countN_clocks (s : State) (k n : Nat) : (s.countN k n).clocks = s.clocks := rfl
@[simp] theorem State.countN_thermalHold (s : State) (k n : Nat) : (s.countN k n).thermalHold = s.thermalHold := rfl
@[simp] theorem State.countN_boardHold (s : State) (k n : Nat) : (s.countN k n).boardHold = s.boardHold := rfl
@[simp] theorem State.countN_boardOkSince (s : State) (k n : Nat) : (s.countN k n).boardOkSince = s.boardOkSince := rfl
@[simp] theorem State.countN_limitHold (s : State) (k n : Nat) : (s.countN k n).limitHold = s.limitHold := rfl
@[simp] theorem State.countN_readings (s : State) (k n : Nat) : (s.countN k n).readings = s.readings := rfl
@[simp] theorem State.countN_replanning (s : State) (k n : Nat) : (s.countN k n).replanning = s.replanning := rfl
@[simp] theorem State.countN_plan (s : State) (k n : Nat) : (s.countN k n).plan = s.plan := rfl
@[simp] theorem State.countN_nextPlan (s : State) (k n : Nat) : (s.countN k n).nextPlan = s.nextPlan := rfl
@[simp] theorem State.countN_session (s : State) (k n : Nat) : (s.countN k n).session = s.session := rfl
@[simp] theorem State.countN_host (s : State) (k n : Nat) : (s.countN k n).host = s.host := rfl
@[simp] theorem State.countN_carried (s : State) (k n : Nat) : (s.countN k n).carried = s.carried := rfl
@[simp] theorem State.countN_nextSession (s : State) (k n : Nat) : (s.countN k n).nextSession = s.nextSession := rfl
@[simp] theorem State.countN_containers (s : State) (k n : Nat) : (s.countN k n).containers = s.containers := rfl
@[simp] theorem State.countN_launches (s : State) (k n : Nat) : (s.countN k n).launches = s.launches := rfl
@[simp] theorem State.countN_nextLaunch (s : State) (k n : Nat) : (s.countN k n).nextLaunch = s.nextLaunch := rfl
@[simp] theorem State.countN_queueStamp (s : State) (k n : Nat) : (s.countN k n).queueStamp = s.queueStamp := rfl
@[simp] theorem State.countN_units (s : State) (k n : Nat) : (s.countN k n).units = s.units := rfl
@[simp] theorem State.countN_runs (s : State) (k n : Nat) : (s.countN k n).runs = s.runs := rfl
@[simp] theorem State.countN_gathers (s : State) (k n : Nat) : (s.countN k n).gathers = s.gathers := rfl
@[simp] theorem State.countN_remote (s : State) (k n : Nat) : (s.countN k n).remote = s.remote := rfl
@[simp] theorem State.countN_bulk (s : State) (k n : Nat) : (s.countN k n).bulk = s.bulk := rfl
@[simp] theorem State.countN_nextRemote (s : State) (k n : Nat) : (s.countN k n).nextRemote = s.nextRemote := rfl
@[simp] theorem State.countN_ctl (s : State) (k n : Nat) : (s.countN k n).ctl = s.ctl := rfl
@[simp] theorem State.countN_ctlQueue (s : State) (k n : Nat) : (s.countN k n).ctlQueue = s.ctlQueue := rfl
@[simp] theorem State.countN_fw (s : State) (k n : Nat) : (s.countN k n).fw = s.fw := rfl
@[simp] theorem State.countN_time (s : State) (k n : Nat) : (s.countN k n).time = s.time := rfl
@[simp] theorem State.countN_bootAt (s : State) (k n : Nat) : (s.countN k n).bootAt = s.bootAt := rfl
@[simp] theorem State.countN_lastPush (s : State) (k n : Nat) : (s.countN k n).lastPush = s.lastPush := rfl
@[simp] theorem State.countN_lastRepeat (s : State) (k n : Nat) : (s.countN k n).lastRepeat = s.lastRepeat := rfl
@[simp] theorem State.countN_lastDecay (s : State) (k n : Nat) : (s.countN k n).lastDecay = s.lastDecay := rfl
@[simp] theorem State.countN_lastTick (s : State) (k n : Nat) : (s.countN k n).lastTick = s.lastTick := rfl
@[simp] theorem State.countN_lastPlan (s : State) (k n : Nat) : (s.countN k n).lastPlan = s.lastPlan := rfl
@[simp] theorem State.countN_out (s : State) (k n : Nat) : (s.countN k n).out = s.out := rfl
@[simp] theorem State.countN_turns (s : State) (k n : Nat) : (s.countN k n).turns = s.turns := rfl
@[simp] theorem State.countN_cur (s : State) (k n : Nat) : (s.countN k n).cur = s.cur := rfl
@[simp] theorem State.countN_curUnit (s : State) (k n : Nat) : (s.countN k n).curUnit = s.curUnit := rfl
@[simp] theorem State.countN_seq (s : State) (k n : Nat) : (s.countN k n).seq = s.seq := rfl
@[simp] theorem State.countN_fresh (s : State) (k n : Nat) : (s.countN k n).fresh = s.fresh := rfl

/-! A core's own updates. -/

@[simp] theorem Core.frozen_s (k : Core) (cause : Nat) (own : List Nat) (time : Nat) : (k.frozen cause own time).s = k.s := rfl
@[simp] theorem Core.frozen_v (k : Core) (cause : Nat) (own : List Nat) (time : Nat) : (k.frozen cause own time).v = k.v := rfl
@[simp] theorem Core.frozen_p (k : Core) (cause : Nat) (own : List Nat) (time : Nat) : (k.frozen cause own time).p = k.p := rfl
@[simp] theorem Core.frozen_acc (k : Core) (cause : Nat) (own : List Nat) (time : Nat) : (k.frozen cause own time).acc = k.acc := rfl
@[simp] theorem Core.frozen_atag (k : Core) (cause : Nat) (own : List Nat) (time : Nat) : (k.frozen cause own time).atag = k.atag := rfl
@[simp] theorem Core.frozen_accBad (k : Core) (cause : Nat) (own : List Nat) (time : Nat) : (k.frozen cause own time).accBad = k.accBad := rfl
@[simp] theorem Core.frozen_j (k : Core) (cause : Nat) (own : List Nat) (time : Nat) : (k.frozen cause own time).j = k.j := rfl
@[simp] theorem Core.frozen_vrot (k : Core) (cause : Nat) (own : List Nat) (time : Nat) : (k.frozen cause own time).vrot = k.vrot := rfl
@[simp] theorem Core.frozen_prot (k : Core) (cause : Nat) (own : List Nat) (time : Nat) : (k.frozen cause own time).prot = k.prot := rfl
@[simp] theorem Core.frozen_layer (k : Core) (cause : Nat) (own : List Nat) (time : Nat) : (k.frozen cause own time).layer = k.layer := rfl
@[simp] theorem Core.frozen_pc (k : Core) (cause : Nat) (own : List Nat) (time : Nat) : (k.frozen cause own time).pc = k.pc := rfl
@[simp] theorem Core.frozen_isTarget (k : Core) (cause : Nat) (own : List Nat) (time : Nat) : (k.frozen cause own time).isTarget = k.isTarget := rfl
@[simp] theorem Core.frozen_delay (k : Core) (cause : Nat) (own : List Nat) (time : Nat) : (k.frozen cause own time).delay = k.delay := rfl
@[simp] theorem Core.frozen_loop (k : Core) (cause : Nat) (own : List Nat) (time : Nat) : (k.frozen cause own time).loop = k.loop := rfl
@[simp] theorem Core.frozen_now (k : Core) (cause : Nat) (own : List Nat) (time : Nat) : (k.frozen cause own time).now = k.now := rfl
@[simp] theorem Core.frozen_ccCount (k : Core) (cause : Nat) (own : List Nat) (time : Nat) : (k.frozen cause own time).ccCount = k.ccCount := rfl
@[simp] theorem Core.frozen_pend (k : Core) (cause : Nat) (own : List Nat) (time : Nat) : (k.frozen cause own time).pend = k.pend := rfl
@[simp] theorem Core.frozen_peeks (k : Core) (cause : Nat) (own : List Nat) (time : Nat) : (k.frozen cause own time).peeks = k.peeks := rfl
@[simp] theorem Core.frozen_land (k : Core) (cause : Nat) (own : List Nat) (time : Nat) : (k.frozen cause own time).land = k.land := rfl
@[simp] theorem Core.frozen_lsWords (k : Core) (cause : Nat) (own : List Nat) (time : Nat) : (k.frozen cause own time).lsWords = k.lsWords := rfl
@[simp] theorem Core.frozen_fences (k : Core) (cause : Nat) (own : List Nat) (time : Nat) : (k.frozen cause own time).fences = k.fences := rfl
@[simp] theorem Core.frozen_barq (k : Core) (cause : Nat) (own : List Nat) (time : Nat) : (k.frozen cause own time).barq = k.barq := rfl
@[simp] theorem Core.frozen_busyC (k : Core) (cause : Nat) (own : List Nat) (time : Nat) : (k.frozen cause own time).busyC = k.busyC := rfl
@[simp] theorem Core.frozen_busyD (k : Core) (cause : Nat) (own : List Nat) (time : Nat) : (k.frozen cause own time).busyD = k.busyD := rfl
@[simp] theorem Core.frozen_mx (k : Core) (cause : Nat) (own : List Nat) (time : Nat) : (k.frozen cause own time).mx = k.mx := rfl
@[simp] theorem Core.frozen_mxReads (k : Core) (cause : Nat) (own : List Nat) (time : Nat) : (k.frozen cause own time).mxReads = k.mxReads := rfl
@[simp] theorem Core.frozen_drains (k : Core) (cause : Nat) (own : List Nat) (time : Nat) : (k.frozen cause own time).drains = k.drains := rfl
@[simp] theorem Core.frozen_reex (k : Core) (cause : Nat) (own : List Nat) (time : Nat) : (k.frozen cause own time).reex = k.reex := rfl
@[simp] theorem Core.frozen_second (k : Core) (cause : Nat) (own : List Nat) (time : Nat) : (k.frozen cause own time).second = k.second := rfl
@[simp] theorem Core.frozen_tt (k : Core) (cause : Nat) (own : List Nat) (time : Nat) : (k.frozen cause own time).tt = k.tt := rfl
@[simp] theorem Core.frozen_rg (k : Core) (cause : Nat) (own : List Nat) (time : Nat) : (k.frozen cause own time).rg = k.rg := rfl
@[simp] theorem Core.frozen_shA (k : Core) (cause : Nat) (own : List Nat) (time : Nat) : (k.frozen cause own time).shA = k.shA := rfl
@[simp] theorem Core.frozen_shB (k : Core) (cause : Nat) (own : List Nat) (time : Nat) : (k.frozen cause own time).shB = k.shB := rfl
@[simp] theorem Core.frozen_engA (k : Core) (cause : Nat) (own : List Nat) (time : Nat) : (k.frozen cause own time).engA = k.engA := rfl
@[simp] theorem Core.frozen_engB (k : Core) (cause : Nat) (own : List Nat) (time : Nat) : (k.frozen cause own time).engB = k.engB := rfl
@[simp] theorem Core.frozen_score (k : Core) (cause : Nat) (own : List Nat) (time : Nat) : (k.frozen cause own time).score = k.score := rfl
@[simp] theorem Core.frozen_lq (k : Core) (cause : Nat) (own : List Nat) (time : Nat) : (k.frozen cause own time).lq = k.lq := rfl
@[simp] theorem Core.frozen_credits (k : Core) (cause : Nat) (own : List Nat) (time : Nat) : (k.frozen cause own time).credits = k.credits := rfl
@[simp] theorem Core.frozen_lqSent (k : Core) (cause : Nat) (own : List Nat) (time : Nat) : (k.frozen cause own time).lqSent = k.lqSent := rfl
@[simp] theorem Core.frozen_lqHeld (k : Core) (cause : Nat) (own : List Nat) (time : Nat) : (k.frozen cause own time).lqHeld = k.lqHeld := rfl
@[simp] theorem Core.frozen_sp (k : Core) (cause : Nat) (own : List Nat) (time : Nat) : (k.frozen cause own time).sp = k.sp := rfl
@[simp] theorem Core.frozen_ls (k : Core) (cause : Nat) (own : List Nat) (time : Nat) : (k.frozen cause own time).ls = k.ls := rfl
@[simp] theorem Core.frozen_ds (k : Core) (cause : Nat) (own : List Nat) (time : Nat) : (k.frozen cause own time).ds = k.ds := rfl
@[simp] theorem Core.frozen_nmRuns (k : Core) (cause : Nat) (own : List Nat) (time : Nat) : (k.frozen cause own time).nmRuns = k.nmRuns := rfl
@[simp] theorem Core.frozen_colls (k : Core) (cause : Nat) (own : List Nat) (time : Nat) : (k.frozen cause own time).colls = k.colls := rfl
@[simp] theorem Core.frozen_ended (k : Core) (cause : Nat) (own : List Nat) (time : Nat) : (k.frozen cause own time).ended = k.ended := rfl
@[simp] theorem Core.frozen_begun (k : Core) (cause : Nat) (own : List Nat) (time : Nat) : (k.frozen cause own time).begun = k.begun := rfl
@[simp] theorem Core.frozen_stopped (k : Core) (cause : Nat) (own : List Nat) (time : Nat) : (k.frozen cause own time).stopped = k.stopped := rfl
@[simp] theorem Core.frozen_killed (k : Core) (cause : Nat) (own : List Nat) (time : Nat) : (k.frozen cause own time).killed = k.killed := rfl
@[simp] theorem Core.frozen_fatal (k : Core) (cause : Nat) (own : List Nat) (time : Nat) : (k.frozen cause own time).fatal = k.fatal := rfl
@[simp] theorem Core.frozen_trap (k : Core) (cause : Nat) (own : List Nat) (time : Nat) : (k.frozen cause own time).trap = k.trap := rfl
@[simp] theorem Core.frozen_faults (k : Core) (cause : Nat) (own : List Nat) (time : Nat) : (k.frozen cause own time).faults = k.faults := rfl
@[simp] theorem Core.frozen_resend (k : Core) (cause : Nat) (own : List Nat) (time : Nat) : (k.frozen cause own time).resend = k.resend := rfl
@[simp] theorem Core.frozen_shadow (k : Core) (cause : Nat) (own : List Nat) (time : Nat) : (k.frozen cause own time).shadow = k.shadow := rfl
@[simp] theorem Core.frozen_occ (k : Core) (cause : Nat) (own : List Nat) (time : Nat) : (k.frozen cause own time).occ = k.occ := rfl
@[simp] theorem Core.frozen_slots (k : Core) (cause : Nat) (own : List Nat) (time : Nat) : (k.frozen cause own time).slots = k.slots := rfl
@[simp] theorem Core.frozen_fzTotal (k : Core) (cause : Nat) (own : List Nat) (time : Nat) : (k.frozen cause own time).fzTotal = k.fzTotal + 1 := rfl
@[simp] theorem Core.setS_v (k : Core) (n : Nat) (v : Word) : (k.setS n v).v = k.v := by
  unfold Core.setS; split <;> rfl
@[simp] theorem Core.setS_p (k : Core) (n : Nat) (v : Word) : (k.setS n v).p = k.p := by
  unfold Core.setS; split <;> rfl
@[simp] theorem Core.setS_acc (k : Core) (n : Nat) (v : Word) : (k.setS n v).acc = k.acc := by
  unfold Core.setS; split <;> rfl
@[simp] theorem Core.setS_atag (k : Core) (n : Nat) (v : Word) : (k.setS n v).atag = k.atag := by
  unfold Core.setS; split <;> rfl
@[simp] theorem Core.setS_accBad (k : Core) (n : Nat) (v : Word) : (k.setS n v).accBad = k.accBad := by
  unfold Core.setS; split <;> rfl
@[simp] theorem Core.setS_j (k : Core) (n : Nat) (v : Word) : (k.setS n v).j = k.j := by
  unfold Core.setS; split <;> rfl
@[simp] theorem Core.setS_vrot (k : Core) (n : Nat) (v : Word) : (k.setS n v).vrot = k.vrot := by
  unfold Core.setS; split <;> rfl
@[simp] theorem Core.setS_prot (k : Core) (n : Nat) (v : Word) : (k.setS n v).prot = k.prot := by
  unfold Core.setS; split <;> rfl
@[simp] theorem Core.setS_layer (k : Core) (n : Nat) (v : Word) : (k.setS n v).layer = k.layer := by
  unfold Core.setS; split <;> rfl
@[simp] theorem Core.setS_pc (k : Core) (n : Nat) (v : Word) : (k.setS n v).pc = k.pc := by
  unfold Core.setS; split <;> rfl
@[simp] theorem Core.setS_isTarget (k : Core) (n : Nat) (v : Word) : (k.setS n v).isTarget = k.isTarget := by
  unfold Core.setS; split <;> rfl
@[simp] theorem Core.setS_delay (k : Core) (n : Nat) (v : Word) : (k.setS n v).delay = k.delay := by
  unfold Core.setS; split <;> rfl
@[simp] theorem Core.setS_loop (k : Core) (n : Nat) (v : Word) : (k.setS n v).loop = k.loop := by
  unfold Core.setS; split <;> rfl
@[simp] theorem Core.setS_now (k : Core) (n : Nat) (v : Word) : (k.setS n v).now = k.now := by
  unfold Core.setS; split <;> rfl
@[simp] theorem Core.setS_ccCount (k : Core) (n : Nat) (v : Word) : (k.setS n v).ccCount = k.ccCount := by
  unfold Core.setS; split <;> rfl
@[simp] theorem Core.setS_fzTotal (k : Core) (n : Nat) (v : Word) : (k.setS n v).fzTotal = k.fzTotal := by
  unfold Core.setS; split <;> rfl
@[simp] theorem Core.setS_fzBy (k : Core) (n : Nat) (v : Word) : (k.setS n v).fzBy = k.fzBy := by
  unfold Core.setS; split <;> rfl
@[simp] theorem Core.setS_pend (k : Core) (n : Nat) (v : Word) : (k.setS n v).pend = k.pend := by
  unfold Core.setS; split <;> rfl
@[simp] theorem Core.setS_peeks (k : Core) (n : Nat) (v : Word) : (k.setS n v).peeks = k.peeks := by
  unfold Core.setS; split <;> rfl
@[simp] theorem Core.setS_land (k : Core) (n : Nat) (v : Word) : (k.setS n v).land = k.land := by
  unfold Core.setS; split <;> rfl
@[simp] theorem Core.setS_lsWords (k : Core) (n : Nat) (v : Word) : (k.setS n v).lsWords = k.lsWords := by
  unfold Core.setS; split <;> rfl
@[simp] theorem Core.setS_fences (k : Core) (n : Nat) (v : Word) : (k.setS n v).fences = k.fences := by
  unfold Core.setS; split <;> rfl
@[simp] theorem Core.setS_barq (k : Core) (n : Nat) (v : Word) : (k.setS n v).barq = k.barq := by
  unfold Core.setS; split <;> rfl
@[simp] theorem Core.setS_busyC (k : Core) (n : Nat) (v : Word) : (k.setS n v).busyC = k.busyC := by
  unfold Core.setS; split <;> rfl
@[simp] theorem Core.setS_busyD (k : Core) (n : Nat) (v : Word) : (k.setS n v).busyD = k.busyD := by
  unfold Core.setS; split <;> rfl
@[simp] theorem Core.setS_mx (k : Core) (n : Nat) (v : Word) : (k.setS n v).mx = k.mx := by
  unfold Core.setS; split <;> rfl
@[simp] theorem Core.setS_mxReads (k : Core) (n : Nat) (v : Word) : (k.setS n v).mxReads = k.mxReads := by
  unfold Core.setS; split <;> rfl
@[simp] theorem Core.setS_drains (k : Core) (n : Nat) (v : Word) : (k.setS n v).drains = k.drains := by
  unfold Core.setS; split <;> rfl
@[simp] theorem Core.setS_reex (k : Core) (n : Nat) (v : Word) : (k.setS n v).reex = k.reex := by
  unfold Core.setS; split <;> rfl
@[simp] theorem Core.setS_second (k : Core) (n : Nat) (v : Word) : (k.setS n v).second = k.second := by
  unfold Core.setS; split <;> rfl
@[simp] theorem Core.setS_tt (k : Core) (n : Nat) (v : Word) : (k.setS n v).tt = k.tt := by
  unfold Core.setS; split <;> rfl
@[simp] theorem Core.setS_rg (k : Core) (n : Nat) (v : Word) : (k.setS n v).rg = k.rg := by
  unfold Core.setS; split <;> rfl
@[simp] theorem Core.setS_shA (k : Core) (n : Nat) (v : Word) : (k.setS n v).shA = k.shA := by
  unfold Core.setS; split <;> rfl
@[simp] theorem Core.setS_shB (k : Core) (n : Nat) (v : Word) : (k.setS n v).shB = k.shB := by
  unfold Core.setS; split <;> rfl
@[simp] theorem Core.setS_engA (k : Core) (n : Nat) (v : Word) : (k.setS n v).engA = k.engA := by
  unfold Core.setS; split <;> rfl
@[simp] theorem Core.setS_engB (k : Core) (n : Nat) (v : Word) : (k.setS n v).engB = k.engB := by
  unfold Core.setS; split <;> rfl
@[simp] theorem Core.setS_score (k : Core) (n : Nat) (v : Word) : (k.setS n v).score = k.score := by
  unfold Core.setS; split <;> rfl
@[simp] theorem Core.setS_lq (k : Core) (n : Nat) (v : Word) : (k.setS n v).lq = k.lq := by
  unfold Core.setS; split <;> rfl
@[simp] theorem Core.setS_credits (k : Core) (n : Nat) (v : Word) : (k.setS n v).credits = k.credits := by
  unfold Core.setS; split <;> rfl
@[simp] theorem Core.setS_lqSent (k : Core) (n : Nat) (v : Word) : (k.setS n v).lqSent = k.lqSent := by
  unfold Core.setS; split <;> rfl
@[simp] theorem Core.setS_lqHeld (k : Core) (n : Nat) (v : Word) : (k.setS n v).lqHeld = k.lqHeld := by
  unfold Core.setS; split <;> rfl
@[simp] theorem Core.setS_waits (k : Core) (n : Nat) (v : Word) : (k.setS n v).waits = k.waits := by
  unfold Core.setS; split <;> rfl
@[simp] theorem Core.setS_sp (k : Core) (n : Nat) (v : Word) : (k.setS n v).sp = k.sp := by
  unfold Core.setS; split <;> rfl
@[simp] theorem Core.setS_ls (k : Core) (n : Nat) (v : Word) : (k.setS n v).ls = k.ls := by
  unfold Core.setS; split <;> rfl
@[simp] theorem Core.setS_ds (k : Core) (n : Nat) (v : Word) : (k.setS n v).ds = k.ds := by
  unfold Core.setS; split <;> rfl
@[simp] theorem Core.setS_nmRuns (k : Core) (n : Nat) (v : Word) : (k.setS n v).nmRuns = k.nmRuns := by
  unfold Core.setS; split <;> rfl
@[simp] theorem Core.setS_colls (k : Core) (n : Nat) (v : Word) : (k.setS n v).colls = k.colls := by
  unfold Core.setS; split <;> rfl
@[simp] theorem Core.setS_ended (k : Core) (n : Nat) (v : Word) : (k.setS n v).ended = k.ended := by
  unfold Core.setS; split <;> rfl
@[simp] theorem Core.setS_begun (k : Core) (n : Nat) (v : Word) : (k.setS n v).begun = k.begun := by
  unfold Core.setS; split <;> rfl
@[simp] theorem Core.setS_stopped (k : Core) (n : Nat) (v : Word) : (k.setS n v).stopped = k.stopped := by
  unfold Core.setS; split <;> rfl
@[simp] theorem Core.setS_killed (k : Core) (n : Nat) (v : Word) : (k.setS n v).killed = k.killed := by
  unfold Core.setS; split <;> rfl
@[simp] theorem Core.setS_fatal (k : Core) (n : Nat) (v : Word) : (k.setS n v).fatal = k.fatal := by
  unfold Core.setS; split <;> rfl
@[simp] theorem Core.setS_trap (k : Core) (n : Nat) (v : Word) : (k.setS n v).trap = k.trap := by
  unfold Core.setS; split <;> rfl
@[simp] theorem Core.setS_faults (k : Core) (n : Nat) (v : Word) : (k.setS n v).faults = k.faults := by
  unfold Core.setS; split <;> rfl
@[simp] theorem Core.setS_resend (k : Core) (n : Nat) (v : Word) : (k.setS n v).resend = k.resend := by
  unfold Core.setS; split <;> rfl
@[simp] theorem Core.setS_shadow (k : Core) (n : Nat) (v : Word) : (k.setS n v).shadow = k.shadow := by
  unfold Core.setS; split <;> rfl
@[simp] theorem Core.setS_occ (k : Core) (n : Nat) (v : Word) : (k.setS n v).occ = k.occ := by
  unfold Core.setS; split <;> rfl
@[simp] theorem Core.setS_slots (k : Core) (n : Nat) (v : Word) : (k.setS n v).slots = k.slots := by
  unfold Core.setS; split <;> rfl
@[simp] theorem Core.post_s (k : Core) (lat ord : Nat) (e : Eff) : (k.post lat ord e).s = k.s := by
  unfold Core.post; split <;> rfl
@[simp] theorem Core.post_v (k : Core) (lat ord : Nat) (e : Eff) : (k.post lat ord e).v = k.v := by
  unfold Core.post; split <;> rfl
@[simp] theorem Core.post_p (k : Core) (lat ord : Nat) (e : Eff) : (k.post lat ord e).p = k.p := by
  unfold Core.post; split <;> rfl
@[simp] theorem Core.post_acc (k : Core) (lat ord : Nat) (e : Eff) : (k.post lat ord e).acc = k.acc := by
  unfold Core.post; split <;> rfl
@[simp] theorem Core.post_atag (k : Core) (lat ord : Nat) (e : Eff) : (k.post lat ord e).atag = k.atag := by
  unfold Core.post; split <;> rfl
@[simp] theorem Core.post_accBad (k : Core) (lat ord : Nat) (e : Eff) : (k.post lat ord e).accBad = k.accBad := by
  unfold Core.post; split <;> rfl
@[simp] theorem Core.post_j (k : Core) (lat ord : Nat) (e : Eff) : (k.post lat ord e).j = k.j := by
  unfold Core.post; split <;> rfl
@[simp] theorem Core.post_vrot (k : Core) (lat ord : Nat) (e : Eff) : (k.post lat ord e).vrot = k.vrot := by
  unfold Core.post; split <;> rfl
@[simp] theorem Core.post_prot (k : Core) (lat ord : Nat) (e : Eff) : (k.post lat ord e).prot = k.prot := by
  unfold Core.post; split <;> rfl
@[simp] theorem Core.post_layer (k : Core) (lat ord : Nat) (e : Eff) : (k.post lat ord e).layer = k.layer := by
  unfold Core.post; split <;> rfl
@[simp] theorem Core.post_pc (k : Core) (lat ord : Nat) (e : Eff) : (k.post lat ord e).pc = k.pc := by
  unfold Core.post; split <;> rfl
@[simp] theorem Core.post_isTarget (k : Core) (lat ord : Nat) (e : Eff) : (k.post lat ord e).isTarget = k.isTarget := by
  unfold Core.post; split <;> rfl
@[simp] theorem Core.post_delay (k : Core) (lat ord : Nat) (e : Eff) : (k.post lat ord e).delay = k.delay := by
  unfold Core.post; split <;> rfl
@[simp] theorem Core.post_loop (k : Core) (lat ord : Nat) (e : Eff) : (k.post lat ord e).loop = k.loop := by
  unfold Core.post; split <;> rfl
@[simp] theorem Core.post_now (k : Core) (lat ord : Nat) (e : Eff) : (k.post lat ord e).now = k.now := by
  unfold Core.post; split <;> rfl
@[simp] theorem Core.post_ccCount (k : Core) (lat ord : Nat) (e : Eff) : (k.post lat ord e).ccCount = k.ccCount := by
  unfold Core.post; split <;> rfl
@[simp] theorem Core.post_fzTotal (k : Core) (lat ord : Nat) (e : Eff) : (k.post lat ord e).fzTotal = k.fzTotal := by
  unfold Core.post; split <;> rfl
@[simp] theorem Core.post_fzBy (k : Core) (lat ord : Nat) (e : Eff) : (k.post lat ord e).fzBy = k.fzBy := by
  unfold Core.post; split <;> rfl
@[simp] theorem Core.post_peeks (k : Core) (lat ord : Nat) (e : Eff) : (k.post lat ord e).peeks = k.peeks := by
  unfold Core.post; split <;> rfl
@[simp] theorem Core.post_land (k : Core) (lat ord : Nat) (e : Eff) : (k.post lat ord e).land = k.land := by
  unfold Core.post; split <;> rfl
@[simp] theorem Core.post_lsWords (k : Core) (lat ord : Nat) (e : Eff) : (k.post lat ord e).lsWords = k.lsWords := by
  unfold Core.post; split <;> rfl
@[simp] theorem Core.post_fences (k : Core) (lat ord : Nat) (e : Eff) : (k.post lat ord e).fences = k.fences := by
  unfold Core.post; split <;> rfl
@[simp] theorem Core.post_barq (k : Core) (lat ord : Nat) (e : Eff) : (k.post lat ord e).barq = k.barq := by
  unfold Core.post; split <;> rfl
@[simp] theorem Core.post_busyC (k : Core) (lat ord : Nat) (e : Eff) : (k.post lat ord e).busyC = k.busyC := by
  unfold Core.post; split <;> rfl
@[simp] theorem Core.post_busyD (k : Core) (lat ord : Nat) (e : Eff) : (k.post lat ord e).busyD = k.busyD := by
  unfold Core.post; split <;> rfl
@[simp] theorem Core.post_mx (k : Core) (lat ord : Nat) (e : Eff) : (k.post lat ord e).mx = k.mx := by
  unfold Core.post; split <;> rfl
@[simp] theorem Core.post_mxReads (k : Core) (lat ord : Nat) (e : Eff) : (k.post lat ord e).mxReads = k.mxReads := by
  unfold Core.post; split <;> rfl
@[simp] theorem Core.post_drains (k : Core) (lat ord : Nat) (e : Eff) : (k.post lat ord e).drains = k.drains := by
  unfold Core.post; split <;> rfl
@[simp] theorem Core.post_reex (k : Core) (lat ord : Nat) (e : Eff) : (k.post lat ord e).reex = k.reex := by
  unfold Core.post; split <;> rfl
@[simp] theorem Core.post_second (k : Core) (lat ord : Nat) (e : Eff) : (k.post lat ord e).second = k.second := by
  unfold Core.post; split <;> rfl
@[simp] theorem Core.post_tt (k : Core) (lat ord : Nat) (e : Eff) : (k.post lat ord e).tt = k.tt := by
  unfold Core.post; split <;> rfl
@[simp] theorem Core.post_rg (k : Core) (lat ord : Nat) (e : Eff) : (k.post lat ord e).rg = k.rg := by
  unfold Core.post; split <;> rfl
@[simp] theorem Core.post_shA (k : Core) (lat ord : Nat) (e : Eff) : (k.post lat ord e).shA = k.shA := by
  unfold Core.post; split <;> rfl
@[simp] theorem Core.post_shB (k : Core) (lat ord : Nat) (e : Eff) : (k.post lat ord e).shB = k.shB := by
  unfold Core.post; split <;> rfl
@[simp] theorem Core.post_engA (k : Core) (lat ord : Nat) (e : Eff) : (k.post lat ord e).engA = k.engA := by
  unfold Core.post; split <;> rfl
@[simp] theorem Core.post_engB (k : Core) (lat ord : Nat) (e : Eff) : (k.post lat ord e).engB = k.engB := by
  unfold Core.post; split <;> rfl
@[simp] theorem Core.post_score (k : Core) (lat ord : Nat) (e : Eff) : (k.post lat ord e).score = k.score := by
  unfold Core.post; split <;> rfl
@[simp] theorem Core.post_lq (k : Core) (lat ord : Nat) (e : Eff) : (k.post lat ord e).lq = k.lq := by
  unfold Core.post; split <;> rfl
@[simp] theorem Core.post_credits (k : Core) (lat ord : Nat) (e : Eff) : (k.post lat ord e).credits = k.credits := by
  unfold Core.post; split <;> rfl
@[simp] theorem Core.post_lqSent (k : Core) (lat ord : Nat) (e : Eff) : (k.post lat ord e).lqSent = k.lqSent := by
  unfold Core.post; split <;> rfl
@[simp] theorem Core.post_lqHeld (k : Core) (lat ord : Nat) (e : Eff) : (k.post lat ord e).lqHeld = k.lqHeld := by
  unfold Core.post; split <;> rfl
@[simp] theorem Core.post_waits (k : Core) (lat ord : Nat) (e : Eff) : (k.post lat ord e).waits = k.waits := by
  unfold Core.post; split <;> rfl
@[simp] theorem Core.post_sp (k : Core) (lat ord : Nat) (e : Eff) : (k.post lat ord e).sp = k.sp := by
  unfold Core.post; split <;> rfl
@[simp] theorem Core.post_ls (k : Core) (lat ord : Nat) (e : Eff) : (k.post lat ord e).ls = k.ls := by
  unfold Core.post; split <;> rfl
@[simp] theorem Core.post_ds (k : Core) (lat ord : Nat) (e : Eff) : (k.post lat ord e).ds = k.ds := by
  unfold Core.post; split <;> rfl
@[simp] theorem Core.post_nmRuns (k : Core) (lat ord : Nat) (e : Eff) : (k.post lat ord e).nmRuns = k.nmRuns := by
  unfold Core.post; split <;> rfl
@[simp] theorem Core.post_colls (k : Core) (lat ord : Nat) (e : Eff) : (k.post lat ord e).colls = k.colls := by
  unfold Core.post; split <;> rfl
@[simp] theorem Core.post_ended (k : Core) (lat ord : Nat) (e : Eff) : (k.post lat ord e).ended = k.ended := by
  unfold Core.post; split <;> rfl
@[simp] theorem Core.post_begun (k : Core) (lat ord : Nat) (e : Eff) : (k.post lat ord e).begun = k.begun := by
  unfold Core.post; split <;> rfl
@[simp] theorem Core.post_stopped (k : Core) (lat ord : Nat) (e : Eff) : (k.post lat ord e).stopped = k.stopped := by
  unfold Core.post; split <;> rfl
@[simp] theorem Core.post_killed (k : Core) (lat ord : Nat) (e : Eff) : (k.post lat ord e).killed = k.killed := by
  unfold Core.post; split <;> rfl
@[simp] theorem Core.post_fatal (k : Core) (lat ord : Nat) (e : Eff) : (k.post lat ord e).fatal = k.fatal := by
  unfold Core.post; split <;> rfl
@[simp] theorem Core.post_trap (k : Core) (lat ord : Nat) (e : Eff) : (k.post lat ord e).trap = k.trap := by
  unfold Core.post; split <;> rfl
@[simp] theorem Core.post_faults (k : Core) (lat ord : Nat) (e : Eff) : (k.post lat ord e).faults = k.faults := by
  unfold Core.post; split <;> rfl
@[simp] theorem Core.post_resend (k : Core) (lat ord : Nat) (e : Eff) : (k.post lat ord e).resend = k.resend := by
  unfold Core.post; split <;> rfl
@[simp] theorem Core.post_occ (k : Core) (lat ord : Nat) (e : Eff) : (k.post lat ord e).occ = k.occ := by
  unfold Core.post; split <;> rfl
@[simp] theorem Core.post_slots (k : Core) (lat ord : Nat) (e : Eff) : (k.post lat ord e).slots = k.slots := by
  unfold Core.post; split <;> rfl

end Sys2Proof.Machine
end

