-- ==== Sys2Proof/Laws/Tab.lean ====
section
/-! SUPPORT. Laws of tables and byte memories: a read after a write, and the canonical form that every memory operation
keeps. -/

namespace Sys2Proof.Machine

/-! Tables. -/

@[simp] theorem Tab.find_nil {α : Type} (n : Nat) : Tab.find ([] : Tab α) n = none := rfl

theorem Tab.find_cons {α : Type} (k : Nat) (v : α) (r : Tab α) (n : Nat) :
    Tab.find ((k, v) :: r) n = if k = n then some v else Tab.find r n := rfl

theorem Tab.find_del {α : Type} (t : Tab α) (n m : Nat) :
    Tab.find (Tab.del t n) m = if m = n then none else Tab.find t m := by
  induction t with
  | nil => simp [Tab.del]
  | cons e r ih =>
    obtain ⟨k, v⟩ := e
    unfold Tab.del at ih ⊢
    by_cases hk : k = n
    · subst hk
      rw [List.filter_cons_of_neg (by simp), ih]
      by_cases h : m = k
      · simp [h]
      · simp [h, Tab.find_cons, Ne.symm h]
    · rw [List.filter_cons_of_pos (by simpa using hk), Tab.find_cons, Tab.find_cons, ih]
      by_cases h : m = n
      · subst h; simp [hk]
      · simp [h]

theorem Tab.find_ins {α : Type} (t : Tab α) (n : Nat) (v : α) (m : Nat) (h : Tab.find t n = none) :
    Tab.find (Tab.ins n v t) m = if m = n then some v else Tab.find t m := by
  induction t with
  | nil => simp [Tab.ins, Tab.find_cons, eq_comm]
  | cons e r ih =>
    obtain ⟨k, w⟩ := e
    rw [Tab.find_cons] at h
    split at h
    · simp at h
    · rename_i hk
      unfold Tab.ins
      split
      · simp only [Tab.find_cons, eq_comm]
      · rw [Tab.find_cons, Tab.find_cons, ih h]
        by_cases hm : m = n
        · subst hm; simp [hk]
        · simp [hm]

/-- A table read after a write. -/
theorem Tab.find_set {α : Type} (t : Tab α) (n : Nat) (v : α) (m : Nat) :
    Tab.find (Tab.set t n v) m = if m = n then some v else Tab.find t m := by
  unfold Tab.set
  rw [Tab.find_ins _ _ _ _ (by simp [Tab.find_del]), Tab.find_del]
  split <;> rfl

@[simp] theorem Tab.find_set_same {α : Type} (t : Tab α) (n : Nat) (v : α) : Tab.find (Tab.set t n v) n = some v := by
  simp [Tab.find_set]

theorem Tab.get_set {α : Type} (d : α) (t : Tab α) (n : Nat) (v : α) (m : Nat) :
    Tab.get d (Tab.set t n v) m = if m = n then v else Tab.get d t m := by
  unfold Tab.get
  rw [Tab.find_set]
  split <;> rfl

@[simp] theorem Tab.get_set_same {α : Type} (d : α) (t : Tab α) (n : Nat) (v : α) : Tab.get d (Tab.set t n v) n = v := by
  simp [Tab.get_set]

@[simp] theorem Tab.get_set_ne {α : Type} (d : α) (t : Tab α) (n : Nat) (v : α) (m : Nat) (h : m ≠ n) :
    Tab.get d (Tab.set t n v) m = Tab.get d t m := by
  simp [Tab.get_set, h]

/-! Cores of a state. -/

theorem State.core_setCore (s : State) (c : Nat) (k : Core) (d : Nat) :
    (s.setCore c k).core d = if d = c then k else s.core d := Tab.get_set ..

@[simp] theorem State.core_setCore_same (s : State) (c : Nat) (k : Core) : (s.setCore c k).core c = k := by
  simp [State.core_setCore]

theorem State.core_modCore (s : State) (c : Nat) (f : Core → Core) (d : Nat) :
    (s.modCore c f).core d = if d = c then f (s.core c) else s.core d := State.core_setCore ..

@[simp] theorem State.core_modCore_same (s : State) (c : Nat) (f : Core → Core) : (s.modCore c f).core c = f (s.core c) := by
  simp [State.core_modCore]

@[simp] theorem State.me_modMe (s : State) (f : Core → Core) : (s.modMe f).me = f s.me := State.core_modCore_same ..

theorem State.core_modMe (s : State) (f : Core → Core) (d : Nat) :
    (s.modMe f).core d = if d = s.cur then f s.me else s.core d := State.core_modCore ..

@[simp] theorem State.me_post (s : State) (lat : Nat) (e : Eff) : (s.post lat e).me = s.me.post lat s.seq e :=
  State.me_modMe ..

/-- A change of a list of cores: each of them once, when the list repeats none. -/
theorem State.core_modCores (f : Core → Core) (l : List Nat) (hl : l.Nodup) (s : State) (d : Nat) :
    (s.modCores f l).core d = if d ∈ l then f (s.core d) else s.core d := by
  induction l generalizing s with
  | nil => simp [State.modCores]
  | cons c r ih =>
    obtain ⟨hc, hr⟩ := List.nodup_cons.mp hl
    rw [State.modCores, ih hr, State.core_modCore]
    by_cases h : d = c
    · subst h; simp [hc]
    · simp [h]

/-! Byte memories: reading. -/

/-- A byte read after a byte written. -/
theorem Mem.read_write (m : Mem) (a : Nat) (b : Byte) (c : Nat) :
    (m.write a b).read c = if c = a then b else m.read c := by
  unfold Mem.write Mem.read Tab.get
  split
  · rename_i h
    rw [Tab.find_del]
    split <;> simp_all
  · rw [Tab.find_set]
    split <;> simp_all

theorem Mem.read_writes (l : List Byte) (m : Mem) (a c : Nat) :
    (m.writes a l).read c = if h : a ≤ c ∧ c < a + l.length then l[c - a]'(by omega) else m.read c := by
  induction l generalizing m a with
  | nil => simp [Mem.writes]
  | cons b r ih =>
    rw [Mem.writes, ih, Mem.read_write]
    by_cases h : c = a
    · subst h; simp
    · by_cases h2 : a + 1 ≤ c ∧ c < a + 1 + r.length
      · rw [dif_pos h2, dif_pos (by simp; omega)]
        obtain ⟨k, rfl⟩ : ∃ k, c = a + 1 + k := ⟨c - (a + 1), by omega⟩
        have h3 : a + 1 + k - a = k + 1 := by omega
        simp [h3]
      · rw [dif_neg h2, dif_neg (by simp; omega), if_neg h]

/-- Bytes that a list of cells does not name read as before. -/
theorem Mem.read_applyCells_ne (cs : List Host.Cell) (m : Mem) (a : Nat) (h : ∀ e ∈ cs, e.1 ≠ a) :
    (applyCells m cs).read a = m.read a := by
  unfold applyCells
  induction cs generalizing m with
  | nil => rfl
  | cons e r ih =>
    rw [List.foldl_cons, ih _ (fun x hx => h x (List.mem_cons_of_mem _ hx)), Mem.read_write,
      if_neg (fun hc => h e List.mem_cons_self hc.symm)]

/-- A byte that the last of the cells naming its address gives. -/
theorem Mem.read_applyCells (cs rest : List Host.Cell) (m : Mem) (a : Nat) (b : Byte) (h : ∀ e ∈ rest, e.1 ≠ a) :
    (applyCells m (cs ++ (a, b) :: rest)).read a = b := by
  have := Mem.read_applyCells_ne rest ((applyCells m cs).write a b) a h
  unfold applyCells at this ⊢
  rw [List.foldl_append, List.foldl_cons, this, Mem.read_write, if_pos rfl]

theorem Mem.read_clear (m : Mem) (lo n a : Nat) :
    (m.clear lo n).read a = if lo ≤ a ∧ a < lo + n then 0 else m.read a := by
  unfold Mem.clear Mem.read Tab.get
  induction m with
  | nil => simp
  | cons e r ih =>
    obtain ⟨k, v⟩ := e
    rw [List.filter_cons]
    by_cases hk : k < lo ∨ lo + n ≤ k
    · rw [if_pos (by simpa using hk), Tab.find_cons, Tab.find_cons]
      by_cases h : k = a
      · subst h; rw [if_neg (by omega : ¬(lo ≤ k ∧ k < lo + n))]; simp
      · simpa [h] using ih
    · rw [if_neg (by simpa using hk), ih, Tab.find_cons]
      by_cases h : k = a
      · subst h; rw [if_pos (by omega), if_pos (by omega)]
      · simp [h]

@[simp] theorem Mem.length_reads (m : Mem) (a n : Nat) : (m.reads a n).length = n := by simp [Mem.reads]

/-! Byte memories: the canonical form. -/

/-- The canonical form: strictly rising addresses, no listed zero. -/
theorem Mem.wf_iff (m : Mem) : m.wf = true ↔ m.Pairwise (fun x y => x.1 < y.1) ∧ ∀ e ∈ m, e.2 ≠ 0 := by
  induction m with
  | nil => simp [Mem.wf]
  | cons e r ih =>
    obtain ⟨a, b⟩ := e
    cases r with
    | nil => simp [Mem.wf]
    | cons f q =>
      obtain ⟨a2, b2⟩ := f
      rw [Mem.wf, Bool.and_eq_true, Bool.and_eq_true, ih]
      constructor
      · rintro ⟨⟨hb, ha⟩, hp, hz⟩
        have ha : a < a2 := by simpa using ha
        refine ⟨List.Pairwise.cons ?_ hp, ?_⟩
        · intro x hx
          rcases List.mem_cons.mp hx with rfl | hx
          · exact ha
          · exact lt_trans ha ((List.pairwise_cons.mp hp).1 x hx)
        · intro x hx
          rcases List.mem_cons.mp hx with rfl | hx
          · simpa using hb
          · exact hz x hx
      · rintro ⟨hp, hz⟩
        obtain ⟨h1, h2⟩ := List.pairwise_cons.mp hp
        exact ⟨⟨by simpa using hz (a, b) List.mem_cons_self, by simpa using h1 (a2, b2) List.mem_cons_self⟩, h2,
          fun x hx => hz x (List.mem_cons_of_mem _ hx)⟩

/-- Any part of a canonical memory is canonical. -/
theorem Mem.wf_filter (m : Mem) (f : Host.Cell → Bool) (h : m.wf) : Mem.wf (m.filter f) := by
  rw [Mem.wf_iff] at h ⊢
  exact ⟨h.1.filter _, fun e he => h.2 e (List.mem_of_mem_filter he)⟩

theorem Mem.wf_ins (a : Nat) (b : Byte) (m : Mem) (hb : b ≠ 0) (h : m.wf) (hn : ∀ e ∈ m, e.1 ≠ a) :
    Mem.wf (Tab.ins a b m) := by
  rw [Mem.wf_iff] at h ⊢
  obtain ⟨hp, hz⟩ := h
  have mem : ∀ (m : Mem) e, e ∈ Tab.ins a b m → e = (a, b) ∨ e ∈ m := by
    intro m
    induction m with
    | nil => simp [Tab.ins]
    | cons f r ih =>
      intro e he
      unfold Tab.ins at he
      split at he
      · simpa using he
      · rcases List.mem_cons.mp he with rfl | he
        · simp
        · rcases ih e he with h | h <;> simp [h]
  refine ⟨?_, fun e he => ?_⟩
  · clear hz
    induction m with
    | nil => simp [Tab.ins]
    | cons f r ih =>
      obtain ⟨k, w⟩ := f
      obtain ⟨h1, h2⟩ := List.pairwise_cons.mp hp
      have hk : k ≠ a := hn (k, w) List.mem_cons_self
      unfold Tab.ins
      split
      · refine List.Pairwise.cons (fun x hx => ?_) hp
        rcases List.mem_cons.mp hx with rfl | hx
        · assumption
        · have := h1 x hx; simp at this ⊢; omega
      · refine List.Pairwise.cons (fun x hx => ?_) (ih (fun e he => hn e (List.mem_cons_of_mem _ he)) h2)
        rcases mem r x hx with rfl | hx
        · simp; omega
        · exact h1 x hx
  · rcases mem m e he with rfl | he
    · exact hb
    · exact hz e he

/-- Writing a byte keeps the canonical form. -/
theorem Mem.wf_write (m : Mem) (a : Nat) (b : Byte) (h : m.wf) : Mem.wf (m.write a b) := by
  unfold Mem.write
  split
  · exact Mem.wf_filter m _ h
  · rename_i hb
    refine Mem.wf_ins a b _ hb (Mem.wf_filter m _ h) (fun e he => ?_)
    simpa using (List.mem_filter.mp he).2

theorem Mem.wf_writes (l : List Byte) (m : Mem) (a : Nat) (h : m.wf) : Mem.wf (m.writes a l) := by
  induction l generalizing m a with
  | nil => exact h
  | cons b r ih => exact ih _ _ (Mem.wf_write m a b h)

theorem Mem.wf_applyCells (cs : List Host.Cell) (m : Mem) (h : m.wf) : Mem.wf (applyCells m cs) := by
  unfold applyCells
  induction cs generalizing m with
  | nil => exact h
  | cons e r ih => exact ih _ (Mem.wf_write m e.1 e.2 h)

theorem Mem.wf_clear (m : Mem) (lo n : Nat) (h : m.wf) : Mem.wf (m.clear lo n) := Mem.wf_filter m _ h

@[simp] theorem Mem.wf_nil : Mem.wf [] = true := rfl

/-- Two canonical memories that read alike are the same data. -/
theorem Mem.ext_of_wf (m n : Mem) (hm : m.wf) (hn : n.wf) (h : ∀ a, m.read a = n.read a) : m = n := by
  have key : ∀ (m : Mem), m.wf → ∀ a b, (a, b) ∈ m ↔ (b ≠ 0 ∧ m.read a = b) := by
    intro m hm a b
    rw [Mem.wf_iff] at hm
    obtain ⟨hp, hz⟩ := hm
    induction m with
    | nil => simp [Mem.read, Tab.get]; intro h; exact fun h2 => h h2.symm
    | cons e r ih =>
      obtain ⟨k, v⟩ := e
      obtain ⟨h1, h2⟩ := List.pairwise_cons.mp hp
      have ih := ih h2 (fun e he => hz e (List.mem_cons_of_mem _ he))
      have hv := hz (k, v) List.mem_cons_self
      by_cases hk : k = a
      · subst hk
        have : (k, b) ∉ r := fun hc => by have := h1 _ hc; simp at this
        simp only [List.mem_cons, Prod.mk.injEq, this, or_false, Mem.read, Tab.get, Tab.find_cons, if_true, Option.getD_some]
        constructor
        · rintro ⟨-, rfl⟩; exact ⟨hv, rfl⟩
        · rintro ⟨-, rfl⟩; simp
      · have hr : Mem.read ((k, v) :: r) a = Mem.read r a := by simp [Mem.read, Tab.get, Tab.find_cons, hk]
        rw [hr, ← ih]
        simp [Ne.symm hk]
  have same : ∀ e, e ∈ m ↔ e ∈ n := fun e => by rw [key m hm e.1 e.2, key n hn e.1 e.2, h]
  have pm := ((Mem.wf_iff m).mp hm).1
  have pn := ((Mem.wf_iff n).mp hn).1
  refine List.Perm.eq_of_pairwise (le := fun x y => x.1 < y.1) (fun a b _ _ h1 h2 => by omega) pm pn ?_
  rw [List.perm_ext_iff_of_nodup (pm.imp (fun h => by intro hc; subst hc; omega)) (pn.imp (fun h => by intro hc; subst hc; omega))]
  exact same

end Sys2Proof.Machine
end

