-- ==== Sys2Proof/Laws/Syl.lean ====
section
/-! SUPPORT. What a syllable and a near-memory microinstruction can do, and what the results that they put in flight are. -/

namespace Sys2Proof.Machine

theorem failIf_eq_none (b : Bool) (code slot : Nat) (addr : Word) : failIf b code slot addr = none ↔ b = false := by
  cases b <;> simp [failIf]

theorem ctxFault_eq_none (k : Core) (sl : Slot) (i : Instr) : ctxFault k sl i = none ↔ ctxBad k i = false :=
  failIf_eq_none ..

/-- A syllable that issues has its effect, and the issue number advances. -/
theorem syl_issues (sl : Slot) (i : Instr) (s : State) (body : State → State) (h : s.issues sl i) :
    syl sl i s body = .next (body s).issued := by
  obtain ⟨hc, hx, ho, hw⟩ := h
  have hf : firstOf [ctxFault s.me sl i, s.operandFault s.cur sl i] = none := by
    rw [(ctxFault_eq_none _ _ _).mpr hx, ho]; rfl
  exact syl_ok sl i s body hc hf hw

/-- Everything that a syllable can do: it takes an exception, it freezes its core for a period, or it has its effect. -/
theorem syl_next (sl : Slot) (i : Instr) (s t : State) (body : State → State) (h : syl sl i s body = .next t) :
    s.cur ≤ 255 ∧ ((∃ f, firstOf [ctxFault s.me sl i, s.operandFault s.cur sl i] = some f ∧ t = s.takeFault s.cur f) ∨
      (∃ cause, s.waitCause s.cur (entriesOf s.me i) i = some cause ∧ t = s.freeze s.cur cause (fun m => if m = s.cur then [cause] else [])) ∨
      (s.issues sl i ∧ t = (body s).issued)) := by
  unfold syl at h
  split at h
  · cases h
  · rename_i hc
    refine ⟨by omega, ?_⟩
    simp only at h
    split at h
    · rename_i f hf
      exact .inl ⟨f, hf, by cases h; rfl⟩
    · rename_i hf
      split at h
      · rename_i cause hw
        exact .inr (.inl ⟨cause, hw, by cases h; rfl⟩)
      · rename_i hw
        refine .inr (.inr ⟨⟨by omega, ?_, ?_, hw⟩, by cases h; rfl⟩)
        · rw [← ctxFault_eq_none s.me sl i]
          cases hx : ctxFault s.me sl i with
          | none => rfl
          | some f => rw [hx] at hf; simp [firstOf] at hf
        · cases ho : s.operandFault s.cur sl i with
          | none => rfl
          | some f => cases hx : ctxFault s.me sl i <;> rw [hx, ho] at hf <;> simp [firstOf] at hf

/-- A syllable that issues answers the state that its body gives. -/
theorem gives_of (s : State) (sl : Slot) (i : Instr) (body : State → State) (t : State)
    (he : exec i s = syl sl i s body) (hb : body s = t) : s.gives sl i t := fun hi => by
  rw [he, syl_issues sl i s body hi, hb]

/-- A syllable on a core that exists answers a next state. -/
theorem syl_answers (sl : Slot) (i : Instr) (s : State) (body : State → State) (hc : s.cur ≤ 255) :
    ∃ t, syl sl i s body = .next t := by
  unfold syl
  rw [if_neg (by omega)]
  simp only
  split
  · exact ⟨_, rfl⟩
  · split <;> exact ⟨_, rfl⟩

/-! The state after a syllable. -/

@[simp] theorem State.issued_seq (s : State) : s.issued.seq = s.seq + 1 := rfl
@[simp] theorem State.issued_cores (s : State) : s.issued.cores = s.cores := rfl
@[simp] theorem State.issued_mem0 (s : State) : s.issued.mem0 = s.mem0 := rfl
@[simp] theorem State.issued_mem1 (s : State) : s.issued.mem1 = s.mem1 := rfl
@[simp] theorem State.issued_core (s : State) (c : Nat) : s.issued.core c = s.core c := rfl
@[simp] theorem State.issued_cur (s : State) : s.issued.cur = s.cur := rfl
@[simp] theorem State.issued_scb (s : State) : s.issued.scb = s.scb := rfl
@[simp] theorem State.issued_me (s : State) : s.issued.me = s.me := rfl

/-! Results in flight. -/

/-- A result of the core's task goes among its results in flight, at its place in issue order. -/
theorem Core.post_pend (k : Core) (lat ord : Nat) (e : Eff) (h : k.shadow = none) :
    (k.post lat ord e).pend = pendIns ⟨k.now + lat, ord, e⟩ k.pend := by simp [Core.post, h]

theorem mem_pendIns (p q : Pend) (l : List Pend) : q ∈ pendIns p l ↔ q = p ∨ q ∈ l := by
  induction l with
  | nil => simp [pendIns]
  | cons x r ih =>
    unfold pendIns
    split
    · simp
    · simp only [List.mem_cons, ih]; tauto

/-- A result younger than all in flight goes last. -/
theorem pendIns_last (p : Pend) (l : List Pend) (h : ∀ x ∈ l, x.ord ≤ p.ord) : pendIns p l = l ++ [p] := by
  induction l with
  | nil => rfl
  | cons x r ih =>
    have hx := h x List.mem_cons_self
    rw [pendIns, if_neg (by omega), ih (fun y hy => h y (List.mem_cons_of_mem _ hy)), List.cons_append]

/-- `postOvf` with no overflow is nothing. -/
@[simp] theorem State.postOvf_false (s : State) (lat : Nat) : s.postOvf lat false = s := by simp [State.postOvf]

end Sys2Proof.Machine
end

