-- ==== Sys2Proof/Laws/Vector.lean ====
section
/-! SUPPORT. Elements of vector registers, masks of elements, and what a vector result does when it lands (08 R154, R156). -/

namespace Sys2Proof.Machine

/-! Digits. -/

/-- A digit of a number written from its digits. -/
theorem digit_foldr (B : Nat) (hB : 0 < B) (l : List Nat) (e : Nat) :
    l.foldr (fun x acc => x % B + acc * B) 0 / B ^ e % B = l.getD e 0 % B := by
  induction l generalizing e with
  | nil => simp
  | cons x r ih =>
    rw [List.foldr_cons]
    cases e with
    | zero => simp
    | succ e =>
      rw [Nat.pow_succ', ← Nat.div_div_eq_div_mul, Nat.add_mul_div_right _ _ hB, Nat.div_eq_of_lt (Nat.mod_lt _ hB),
        Nat.zero_add, ih]
      simp

theorem foldr_lt (B : Nat) (hB : 0 < B) (l : List Nat) : l.foldr (fun x acc => x % B + acc * B) 0 < B ^ l.length := by
  induction l with
  | nil => simp
  | cons x r ih =>
    rw [List.foldr_cons, List.length_cons, Nat.pow_succ]
    have := Nat.mod_lt x hB
    calc _ < B + r.foldr (fun x acc => x % B + acc * B) 0 * B := by omega
      _ = (r.foldr (fun x acc => x % B + acc * B) 0 + 1) * B := by ring
      _ ≤ _ := Nat.mul_le_mul_right _ ih

/-- A bit of a number written from its digits. -/
theorem testBit_foldr (w : Nat) (hw : 0 < w) (l : List Nat) (i : Nat) :
    (l.foldr (fun x acc => x % 2 ^ w + acc * 2 ^ w) 0).testBit i = (l.getD (i / w) 0).testBit (i % w) := by
  have hb : i % w < w := Nat.mod_lt _ hw
  have hd := congrArg (fun n => n.testBit (i % w)) (digit_foldr (2 ^ w) (by positivity) l (i / w))
  simp only [Nat.testBit_mod_two_pow, hb, decide_true, Bool.true_and, ← Nat.pow_mul, Nat.testBit_div_two_pow] at hd
  rw [← hd]
  congr 1
  exact (Nat.mod_add_div i w).symm

theorem allOnes_bit (n i : Nat) (h : i < n) : (BitVec.allOnes n).getLsbD i = true := by
  rw [BitVec.getLsbD_allOnes]; exact decide_eq_true h

/-! Elements. -/

theorem lane_lt (w : Nat) (v : VReg) (e : Nat) : lane w v e < 2 ^ (8 * w) := Nat.mod_lt _ (by positivity)

theorem lanes_getD (w : Nat) (v : VReg) (e : Nat) (h : e < 512 / w) : (lanes w v).getD e 0 = lane w v e := by
  simp [lanes, lane, List.getD, h]

theorem els_getD (s : State) (w n e : Nat) (h : e < 512 / w) : (s.els w n).getD e 0 = lane w (s.me.vr n) e :=
  lanes_getD w _ e h

/-- An element of a register built from a list. -/
theorem lane_joinLanes (w : Nat) (l : List Nat) (e : Nat) (hw : w * l.length ≤ 512) :
    lane w (joinLanes w l) e = l.getD e 0 % 2 ^ (8 * w) := by
  unfold lane joinLanes
  have hlt := foldr_lt (2 ^ (8 * w)) (by positivity) l
  rw [← Nat.pow_mul] at hlt
  rw [BitVec.toNat_ofNat, Nat.mod_eq_of_lt (lt_of_lt_of_le hlt (Nat.pow_le_pow_right (by decide) (by nlinarith : 8 * w * l.length ≤ 4096))),
    Nat.shiftRight_eq_div_pow, Nat.pow_mul 2 (8 * w) e, digit_foldr _ (by positivity)]

/-- A bit of an element. -/
theorem lane_testBit (w : Nat) (v : VReg) (e b : Nat) (hb : b < 8 * w) :
    (lane w v e).testBit b = v.getLsbD (8 * w * e + b) := by
  unfold lane
  rw [Nat.testBit_mod_two_pow, Nat.testBit_shiftRight]
  simp [hb, BitVec.getLsbD]

/-- Registers whose elements agree in a place agree there bit by bit. -/
theorem lane_eq_of_bits (w : Nat) (v u : VReg) (e : Nat)
    (h : ∀ b, b < 8 * w → v.getLsbD (8 * w * e + b) = u.getLsbD (8 * w * e + b)) : lane w v e = lane w u e := by
  apply Nat.eq_of_testBit_eq
  intro b
  by_cases hb : b < 8 * w
  · rw [lane_testBit w v e b hb, lane_testBit w u e b hb, h b hb]
  · rw [Nat.testBit_lt_two_pow (lt_of_lt_of_le (lane_lt w v e) (Nat.pow_le_pow_right (by norm_num) (by omega))),
      Nat.testBit_lt_two_pow (lt_of_lt_of_le (lane_lt w u e) (Nat.pow_le_pow_right (by norm_num) (by omega)))]

/-! Masks. -/

theorem elemMask_foldr (w : Nat) (f : Nat → Bool) (l : List Nat) :
    l.foldr (fun e acc => (if f e then 2 ^ w - 1 else 0) + acc * 2 ^ w) 0 =
      (l.map (fun e => if f e then 2 ^ w - 1 else 0)).foldr (fun x acc => x % 2 ^ w + acc * 2 ^ w) 0 := by
  induction l with
  | nil => rfl
  | cons x r ih =>
    rw [List.foldr_cons, ih, List.map_cons, List.foldr_cons]
    have : (if f x then 2 ^ w - 1 else 0) < 2 ^ w := by
      have : 0 < 2 ^ w := by positivity
      split <;> omega
    rw [Nat.mod_eq_of_lt this]

/-- A bit of the mask of the elements that a test selects. -/
theorem elemMask_bit (w : Nat) (f : Nat → Bool) (i : Nat) (hw : 0 < w) (hi : i < w * (512 / w)) :
    (elemMask w f).getLsbD i = f (i / w) := by
  have h512 : w * (512 / w) ≤ 512 := Nat.mul_div_le 512 w
  have hq : i / w < 512 / w := (Nat.div_lt_iff_lt_mul hw).mpr (by rw [Nat.mul_comm]; exact hi)
  have hb : i % w < w := Nat.mod_lt _ hw
  have hi' : i < 512 := by omega
  unfold elemMask
  rw [elemMask_foldr, BitVec.getLsbD_ofNat, testBit_foldr w hw, decide_eq_true hi', Bool.true_and]
  have hget : ((List.range (512 / w)).map (fun e => if f e then 2 ^ w - 1 else 0)).getD (i / w) 0 =
      if f (i / w) then 2 ^ w - 1 else 0 := by simp [List.getD, hq]
  rw [hget]
  cases f (i / w)
  · simp
  · rw [if_pos rfl, Nat.testBit_two_pow_sub_one]
    exact decide_eq_true hb

theorem byteMask_foldr_eq (p : PReg) (l : List Nat) :
    l.foldr (fun b acc => acc * 256 + (if p.getLsbD b then 255 else 0)) 0 =
      (l.map (fun b => if p.getLsbD b then 255 else 0)).foldr (fun x acc => x % 2 ^ 8 + acc * 2 ^ 8) 0 := by
  induction l with
  | nil => rfl
  | cons x r ih => rw [List.foldr_cons, ih, List.map_cons, List.foldr_cons]; split <;> omega

/-- A bit of the 4,096-bit mask of a predicate's bytes. -/
theorem byteMask_bit (p : PReg) (i : Nat) (hi : i < 4096) : (byteMask p).getLsbD i = p.getLsbD (i / 8) := by
  have hq : i / 8 < 512 := by omega
  have hb : i % 8 < 8 := Nat.mod_lt _ (by norm_num)
  unfold byteMask
  split
  · rename_i h
    rw [h, allOnes_bit _ _ hi, allOnes_bit _ _ hq]
  · rw [byteMask_foldr_eq, BitVec.getLsbD_ofNat, testBit_foldr 8 (by norm_num), decide_eq_true hi, Bool.true_and]
    have hget : ((List.range 512).map (fun b => if p.getLsbD b then 255 else 0)).getD (i / 8) 0 =
        if p.getLsbD (i / 8) then 255 else 0 := by
      rw [List.getD_eq_getElem?_getD, List.getElem?_map, List.getElem?_range hq]
      rfl
    rw [hget]
    cases p.getLsbD (i / 8)
    · simp
    · rw [if_pos rfl, show 255 = 2 ^ 8 - 1 by norm_num, Nat.testBit_two_pow_sub_one]
      exact decide_eq_true hb

theorem mergeBits_bit {w : Nat} (old mask v : BitVec w) (i : Nat) (hi : i < w) :
    (mergeBits old mask v).getLsbD i = if mask.getLsbD i then v.getLsbD i else old.getLsbD i := by
  unfold mergeBits
  rw [BitVec.getLsbD_or, BitVec.getLsbD_and, BitVec.getLsbD_and, BitVec.getLsbD_not]
  cases mask.getLsbD i <;> simp [hi]

/-- An element of a register after a result lands: the new one where the mask names all its bytes, the old one where it
names none. -/
theorem lane_landedV (w : Nat) (mask : PReg) (v old : VReg) (e : Nat) (b : Bool) (hw : w * (e + 1) ≤ 512)
    (h : ∀ i, i < w → mask.getLsbD (w * e + i) = b) :
    lane w (landedV mask v old) e = if b then lane w v e else lane w old e := by
  have key : ∀ i, i < 8 * w → (landedV mask v old).getLsbD (8 * w * e + i) =
      if b then v.getLsbD (8 * w * e + i) else old.getLsbD (8 * w * e + i) := by
    intro i hi
    have h1 : 8 * w * e + i < 4096 := by nlinarith
    have h2 : (8 * w * e + i) / 8 = w * e + i / 8 := by
      rw [show 8 * w * e = 8 * (w * e) by ring, Nat.mul_add_div (by norm_num)]
    unfold landedV
    rw [mergeBits_bit _ _ _ _ h1, byteMask_bit _ _ h1, h2, h _ (by omega)]
  cases b
  · exact lane_eq_of_bits w _ _ e (fun i hi => by simpa using key i hi)
  · exact lane_eq_of_bits w _ _ e (fun i hi => by simpa using key i hi)

/-! Results. -/

/-- Element widths (08 R154). -/
def widthOk (w : Nat) : Prop := w = 1 ∨ w = 2 ∨ w = 4 ∨ w = 8

theorem width_ok (t : ETy) : widthOk t.width := by cases t <;> simp [widthOk, ETy.width]

theorem widthOk.pos {w : Nat} (h : widthOk w) : 0 < w := by rcases h with rfl | rfl | rfl | rfl <;> norm_num
theorem widthOk.mul {w : Nat} (h : widthOk w) : w * (512 / w) = 512 := by rcases h with rfl | rfl | rfl | rfl <;> norm_num

/-- What `postV` puts in flight, for every element width. -/
theorem postV_effect (s : State) (lat w vd pg : Nat) (z : Bool) (only : Nat → Bool) (f : Nat → FRes) (hw : widthOk w) :
    ∃ e, s.postV lat w vd pg z only f =
        (s.post lat e).postOvf lat ((List.range (512 / w)).any (fun n => only n && activeAt (s.me.pr pg) w n && (f n).ovf)) ∧
      VecEffect s.me w vd pg z only (fun n => (f n).code) e := by
  refine ⟨.vector (physV s.me.vrot vd)
      (if z then BitVec.allOnes 512 else elemMask w (fun e => only e && activeAt (s.me.pr pg) w e))
      (joinLanes w (((List.range (512 / w)).map (fun e => if only e && activeAt (s.me.pr pg) w e then some (f e) else none)).map
        (fun r => match r with | some x => x.code | none => 0))), ?_, _, _, rfl, ?_⟩
  · unfold State.postV
    simp only
    congr 1
    rw [List.any_map]
    congr 1
    funext n
    simp only [Function.comp]
    cases only n && activeAt (s.me.pr pg) w n <;> simp
  · intro old n hn
    have hmul := hw.mul
    have hle : w * (n + 1) ≤ 512 := by
      rw [← hmul]; exact Nat.mul_le_mul_left _ hn
    have hlen : w * ((List.range (512 / w)).map (fun e => if only e && activeAt (s.me.pr pg) w e then some (f e) else none) |>.map
        (fun r => match r with | some x => x.code | none => 0)).length ≤ 512 := by simp [hmul]
    by_cases ha : (only n && activeAt (s.me.pr pg) w n) = true
    · rw [lane_landedV w _ _ _ n true hle]
      · rw [if_pos rfl, lane_joinLanes _ _ _ hlen]
        simp only [List.getD_eq_getElem?_getD, List.getElem?_map, List.getElem?_range hn, Option.map_some, if_pos ha,
          Option.getD_some]
      · intro i hi
        have hi2 : w * n + i < w * (512 / w) := by rw [hmul]; nlinarith
        have hdiv : (w * n + i) / w = n := by rw [Nat.mul_add_div hw.pos, Nat.div_eq_of_lt hi, Nat.add_zero]
        split
        · exact allOnes_bit _ _ (by omega)
        · rw [elemMask_bit _ _ _ hw.pos hi2, hdiv, ha]
    · rw [if_neg ha]
      rw [lane_landedV w _ _ _ n z hle]
      · cases z
        · simp
        · rw [if_pos rfl, if_pos rfl, lane_joinLanes _ _ _ hlen]
          simp only [List.getD_eq_getElem?_getD, List.getElem?_map, List.getElem?_range hn, Option.map_some, if_neg ha,
            Option.getD_some, Nat.zero_mod]
      · intro i hi
        have hi2 : w * n + i < w * (512 / w) := by rw [hmul]; nlinarith
        have hdiv : (w * n + i) / w = n := by rw [Nat.mul_add_div hw.pos, Nat.div_eq_of_lt hi, Nat.add_zero]
        cases z
        · rw [if_neg (by simp), elemMask_bit _ _ _ hw.pos hi2, hdiv]; simpa using ha
        · exact allOnes_bit _ _ (by omega)

/-- What `postVec` puts in flight. -/
theorem postVec_effect (s : State) (lat w vd pg : Nat) (z : Bool) (f : Nat → Nat) (hw : widthOk w) :
    ∃ e, s.postVec lat w vd pg z f = s.post lat e ∧ VecEffect s.me w vd pg z (fun _ => true) f e := by
  obtain ⟨e, h1, h2⟩ := postV_effect s lat w vd pg z (fun _ => true) (fun n => ⟨f n, false⟩) hw
  refine ⟨e, ?_, h2⟩
  unfold State.postVec
  rw [h1]
  simp [State.postOvf]

/-- What a vector compare puts in flight (08 R165). -/
theorem postVP_effect (s : State) (lat w pd pg : Nat) (z : Bool) (f : Nat → Bool) (hw : widthOk w) :
    ∃ e, s.postVP lat w pd pg z f = s.post lat e ∧ PredEffect s.me w pd pg z f e := by
  refine ⟨_, rfl, _, _, rfl, ?_⟩
  intro old i hi
  have hi2 : i < w * (512 / w) := by rw [hw.mul]; exact hi
  have ha : ∀ g : Nat → Bool, (elemMask w g).getLsbD i = g (i / w) := fun g => elemMask_bit _ _ _ hw.pos hi2
  rw [mergeBits_bit _ _ _ _ hi, ha]
  unfold writeMask
  by_cases hz : (z || s.me.pr pg == BitVec.allOnes 512) = true
  · rw [if_pos hz, allOnes_bit _ _ hi, if_pos rfl]
    rcases Bool.or_eq_true _ _ ▸ hz with hz | hp
    · cases h : activeAt (s.me.pr pg) w (i / w) <;> simp [hz]
    · have hp : s.me.pr pg = BitVec.allOnes 512 := by simpa using hp
      have : activeAt (s.me.pr pg) w (i / w) = true := by
        unfold activeAt
        rw [hp]
        exact allOnes_bit _ _ (lt_of_le_of_lt (Nat.div_mul_le_self i w) hi)
      simp [this]
  · rw [if_neg hz, ha]
    have hz' : z = false := by cases z <;> simp_all
    cases h : activeAt (s.me.pr pg) w (i / w) <;> simp [hz']

/-- Values that agree modulo the width, at the elements that exist, make the same result. -/
theorem VecEffect.congr {k : Core} {w vd pg : Nat} {z : Bool} {only : Nat → Bool} {val val' : Nat → Nat} {e : Eff}
    (h : VecEffect k w vd pg z only val e) (hv : ∀ n, n < 512 / w → val n % 2 ^ (8 * w) = val' n % 2 ^ (8 * w)) :
    VecEffect k w vd pg z only val' e := by
  obtain ⟨mask, v, he, h⟩ := h
  exact ⟨mask, v, he, fun old n hn => by rw [h old n hn, hv n hn]⟩

theorem PredEffect.congr {k : Core} {w pd pg : Nat} {z : Bool} {val val' : Nat → Bool} {e : Eff} (hw : widthOk w)
    (h : PredEffect k w pd pg z val e) (hv : ∀ n, n < 512 / w → val n = val' n) : PredEffect k w pd pg z val' e := by
  obtain ⟨mask, v, he, h⟩ := h
  refine ⟨mask, v, he, fun old i hi => ?_⟩
  rw [h old i hi, hv (i / w) ((Nat.div_lt_iff_lt_mul hw.pos).mpr (by rw [Nat.mul_comm, hw.mul]; exact hi))]

/-- A syllable whose body is one vector result. -/
theorem givesV_of (s : State) (lat : Nat) (ty : ETy) (vd pg : Nat) (z : Bool) (f val : Nat → Nat) (i : Instr)
    (body : State → State) (he : exec i s = syl .va i s body) (hb : body s = s.postVec lat ty.width vd pg z f)
    (hv : ∀ n, n < 512 / ty.width → f n % 2 ^ (8 * ty.width) = val n % 2 ^ (8 * ty.width)) :
    s.givesV lat ty vd pg z val i := by
  obtain ⟨e, h1, h2⟩ := postVec_effect s lat ty.width vd pg z f (width_ok ty)
  exact ⟨e, h2.congr hv, fun hi => by rw [he, syl_issues _ _ _ _ hi, hb, h1]⟩

end Sys2Proof.Machine
end

