-- ==== Sys2Proof/Machine/Slots.lean ====
section
/-! DEFINITION. The bytes of a save slot (19 R366, R367): the layout of what `Saved` holds by its fields. -/

namespace Sys2Proof.Machine

/-- The fields of a save header (19 R366): the lowest bit, the width and the value of each; every other bit is zero. -/
def Saved.fields (v : Saved) : List (Nat × Nat × Nat) :=
  let b (x : Bool) : Nat := if x then 1 else 0
  [(0, 64, v.pc.toNat), (64, 32, v.launch), (96, 16, v.node), (112, 3, v.member), (115, 4, v.gang), (120, 9, v.vrot), (129, 4, v.prot),
   (133, 10, v.layer.toNat), (143, 1, b v.loop.active), (144, 3, v.loop.depth), (147, 1, b v.loop.rot)] ++
  (List.range 6).map (fun k => (148 + 32 * k, 32, v.loop.count.getD k 0)) ++
  (List.range 6).map (fun k => (340 + 32 * k, 32, (v.j.getD k 0).toNat)) ++
  [(532, 32, v.loop.real0)] ++
  (List.range 8).map (fun n => (564 + 2 * n, 2, Tab.get 0 v.atag n)) ++
  [(580, 8, v.reex), (588, 8, v.second), (596, 64, v.recA.toNat), (660, 64, v.recB.toNat), (724, 64, v.failA.toNat),
   (788, 64, v.failB.toNat), (852, 16, v.seqA), (868, 16, v.seqB)] ++
  (List.range 6).map (fun n => (884 + 10 * n, 10, (Tab.get [] v.lq n).length)) ++
  [(944, 4, v.ways), (1024, 64, v.smap.toNat), (1088, 32, v.pmap.toNat), (1120, 8, v.amap.toNat), (1128, 1536, v.vmap.toNat)]

/-- The save header as one number. -/
def Saved.header (v : Saved) : Nat := v.fields.foldl (fun n f => n + f.2.2 % 2 ^ f.2.1 * 2 ^ f.1) 0

/-- The number of the vector register, as written, that a physical one stands for under the saved base (06 R113). -/
def Saved.named (v : Saved) (n : Nat) : Nat := if n < 1024 then n else 1024 + (n - 1024 + 512 - v.vrot) % 512

/-- The byte of a save slot at an offset (19 R366); none where the save writes nothing: reserved bytes, registers that are not live, and
slots past a queue's end (R367). -/
def Saved.byte (v : Saved) (a : Nat) : Option Byte :=
  let at' (n i : Nat) : Byte := BitVec.ofNat 8 (n / 2 ^ (8 * i))
  if a < 0x1000 then some (at' v.header a)
  else if a < 0x1200 then
    let n := (a - 0x1000) / 8
    if v.smap.getLsbD n then some (at' (Tab.get 0 v.s n).toNat (a % 8)) else none
  else if a < 0x1A00 then
    let n := (a - 0x1200) / 64
    let p : PReg := if n = 0 then BitVec.allOnes 512 else Tab.get 0 v.p (physP v.prot n)
    if v.pmap.getLsbD n then some (at' p.toNat (a % 64)) else none
  else if a < 0x2200 then
    let n := (a - 0x1A00) / 64
    some (at' (if n < 16 then Tab.get 0 v.shA n else Tab.get 0 v.shB (n - 16)).toNat (a % 64))
  else if a < 0x6200 then some (at' (Tab.get 0 v.tt ((a - 0x2200) / 64)).toNat (a % 64))
  else if a < 0xC200 then
    ((Tab.get [] v.lq ((a - 0x6200) / 4096))[(a - 0x6200) % 4096 / 8]?).map (fun w => at' w.toNat (a % 8))
  else if a < 0x10000 then none
  else if a < 0x50000 then
    let n := (a - 0x10000) / 32768
    if v.amap.getLsbD n then some (at' ((Tab.get [] v.acc n).getD ((a - 0x10000) % 32768 / 8) 0).toNat (a % 8)) else none
  else if a < 0x110000 then
    let n := (a - 0x50000) / 512
    if v.vmap.getLsbD (v.named n) then some (at' (Tab.get 0 v.v n).toNat (a % 512)) else none
  else if a < 0x508000 then some (v.sp.read (a - 0x110000))
  else if a < 0x588000 then some (v.ls.read (a - 0x508000))
  else if a < 0x708000 then (if a - 0x588000 < v.ways * 131072 then some (v.ds.read (a - 0x588000)) else none)
  else none

end Sys2Proof.Machine
end

