-- ==== Sys2Proof/Tests/Slice0.lean ====
section
/-! SUPPORT. Tests of decoding against words assembled from the layouts of the spec, ill-formed terms for each check, one-step
tests whose values come from the spec, and witnesses of the hypotheses of the statements. -/

namespace Sys2Proof.Tests

open Sys2Proof Sys2Proof.Machine

set_option Elab.async false

/-! Decoding: words assembled by hand from 05 R91 to R100 and from each instruction's own fields. -/

theorem test_decode_s_integer : ∀ e ∈ [
      (0xf42fc0, Instr.add 61 2 63), (0x1f42fc0, .sub 61 2 63), (0x2f42fc0, .mul 61 2 63), 
      (0x3f42fc0, .mulh 61 2 63), (0x4f42fc0, .mulhu 61 2 63), (0x5f42fc0, .div 61 2 63), 
      (0x6f42fc0, .divu 61 2 63), (0x7f42fc0, .rem 61 2 63), (0x8f42fc0, .remu 61 2 63), 
      (0x9f42fc0, .and 61 2 63), (0xaf42fc0, .or 61 2 63), (0xbf42fc0, .xor 61 2 63), (0xcf42fc0, .shl 61 2 63), 
      (0xdf42fc0, .shr 61 2 63), (0xef42fc0, .sar 61 2 63), (0xf1c825f, .sel 7 8 9 31), 
      (0x10146800, .addi 5 6 (-2048)), (0x11146801, .andi 5 6 (-2047)), (0x12146802, .ori 5 6 (-2046)), 
      (0x13146803, .xori 5 6 (-2045)), (0x1414603f, .shli 5 6 63), (0x1514603e, .shri 5 6 62), 
      (0x1614603d, .sari 5 6 61), (0x1707e0c0, .min 1 62 3), (0x1807e0c0, .max 1 62 3), 
      (0x1907e0c0, .minu 1 62 3), (0x1a07e0c0, .maxu 1 62 3), (0x1b07e000, .clz 1 62), (0x1c07e000, .popc 1 62), 
      (0x1d245000, .movj 9 5), (0x1e25f000, .movp 9 31), (0x1f7c4149, .cmpCc .gtu 31 4 5), 
      (0x1f7c4144, .cmpCc .ltu 31 4 5), (0x200c47ff, .cmpiCc .eq 3 4 2047), (0x290c4fff, .cmpiCc .gtu 3 4 (-1)), 
      (0x2afe0000, .li 63 (-131072)), (0x2bffffff, .lih 63 262143)],
    decodeSyl .s e.1 = .ok e.2 := by decide +kernel

theorem test_decode_s_float_and_control : ∀ e ∈ [
      (0x300420c0, Instr.fadd false 1 2 3), (0x310420c1, .fsub true 1 2 3), (0x320420c0, .fmul false 1 2 3), 
      (0x330420c1, .ffma true 1 2 3), (0x340420c0, .fdiv false 1 2 3), (0x35042001, .fsqrt true 1 2), 
      (0x361020d7, .fcmpCc .ord true 4 2 3), (0x361020c4, .fcmpCc .lt false 4 2 3), 
      (0x37042017, .fcvt .i32 .bf16 1 2), (0x37042031, .fcvt .f16 .n64 1 2), (0x3704201c, .fcvt .n32 .f64 1 2), 
      (0x37042005, .fcvt .i64 .f32 1 2), (0x40800000, .br (-8388608)), (0x41fe0000, .brc 31 true (-131072)), 
      (0x4109ffff, .brc 1 false 131071), (0x42011000, .jr 17), (0x437fffff, .call 8388607), (0x44000000, .ret), 
      (0x45dd7fff, .loop 6 58 true 16383), (0x453f8000, .loop 1 63 false 0), 
      (0x46207fff, .loopx 1 0 true 16383), (0x46dd8001, .loopx 6 59 false 1)],
    decodeSyl .s e.1 = .ok e.2 := by decide +kernel

theorem test_decode_v_integer : ∀ e ∈ [
      (0x1dff57800040, Instr.vadd ⟨.i8, 3, 1535, .reg 700, 2, false⟩), 
      (0x6ff801001007e7, .vsub ⟨.n8, 1535, 1, .imm (-1023), 31, true⟩), 
      (0x801dff57800048, .vmul ⟨.i16, 3, 1535, .reg 700, 2, false⟩), 
      (0xeff80100100fed, .vmulh ⟨.n16, 1535, 1, .imm (-1021), 31, false⟩), 
      (0x41001dff57800040, .vmac ⟨.i32, 3, 1535, .reg 700, 2, false⟩), 
      (0x41eff801001017e7, .vmin ⟨.n32, 1535, 1, .imm (-1019), 31, true⟩), 
      (0x82001dff57800040, .vmax ⟨.i64, 3, 1535, .reg 700, 2, false⟩), 
      (0x826ff80100101fe5, .vand ⟨.n64, 1535, 1, .imm (-1017), 31, false⟩), 
      (0x2801dff57800040, .vor ⟨.i8, 3, 1535, .reg 700, 2, false⟩), 
      (0x2eff801001027e7, .vxor ⟨.n8, 1535, 1, .imm (-1015), 31, true⟩), 
      (0x3001dff57800048, .vshl ⟨.i16, 3, 1535, .reg 700, 2, false⟩), 
      (0x36ff80100102fed, .vshr ⟨.n16, 1535, 1, .imm (-1013), 31, false⟩), 
      (0x43c01dff57800040, .vadds ⟨.i32, 3, 1535, .reg 700, 2, false⟩), 
      (0x442ff801001037e7, .vsubs ⟨.n32, 1535, 1, .imm (-1011), 31, true⟩), 
      (0x84401dff57800040, .vavg ⟨.i64, 3, 1535, .reg 700, 2, false⟩), 
      (0x43801804000014c3, .vsar ⟨.i32, 3, 4, .imm 5, 6, true⟩), 
      (0x8140480a00000162, .vabs ⟨.i64, 9, 10, 11, true⟩), (0x4180480a00000166, .vneg ⟨.n32, 9, 10, 11, true⟩), 
      (0x480480a0000016e, .vclz ⟨.n16, 9, 10, 11, true⟩), (0x4c0480a00000162, .vpopc ⟨.i8, 9, 10, 11, true⟩), 
      (0xc00480a0000017e, .vmov ⟨.f64, 9, 10, 11, true⟩), 
      (0x8500f80400a024c4, .vcmpCc ⟨.n64, .gtu, 31, 4, 5, 6, false⟩), 
      (0x4540180400a07cc2, .vsel ⟨.i32, 3, 4, 5, 31, 6, true⟩)],
    decodeSyl .va e.1 = .ok e.2 := by decide +kernel

theorem test_decode_v_float : ∀ e ∈ [
      (0x800180400a000d2, Instr.vfadd ⟨.bf16, 3, 4, 5, 0, 6, true⟩), 
      (0x840180400a000d6, .vfsub ⟨.f16, 3, 4, 5, 0, 6, true⟩), 
      (0x880180400a000da, .vfmul ⟨.f32, 3, 4, 5, 0, 6, true⟩), 
      (0x940180400a000de, .vfmin ⟨.f64, 3, 4, 5, 0, 6, true⟩), 
      (0x980180400a000d2, .vfmax ⟨.bf16, 3, 4, 5, 0, 6, true⟩), 
      (0x1400180400a000d6, .vfdiv ⟨.f16, 3, 4, 5, 0, 6, true⟩), 
      (0x8c0180400a01cd8, .vfma ⟨.f32, 3, 4, 5, 7, 6, false⟩), 
      (0x900180400a01cdc, .vfnma ⟨.f64, 3, 4, 5, 7, 6, false⟩), 
      (0x9c01804000000d0, .vfabs ⟨.bf16, 3, 4, 6, false⟩), (0xa001804000000d4, .vfneg ⟨.f16, 3, 4, 6, false⟩), 
      (0xa401804000000d8, .vfclass ⟨.f32, 3, 4, 6, false⟩), 
      (0x10401804000000dc, .vnanpay ⟨.f64, 3, 4, 6, false⟩), 
      (0x10801804000000d0, .vnanmk ⟨.bf16, 3, 4, 6, false⟩), 
      (0x14401804000000d4, .vfsqrt ⟨.f16, 3, 4, 6, false⟩), (0x14801804000000d8, .vfrcp ⟨.f32, 3, 4, 6, false⟩), 
      (0x14c01804000000dc, .vfrsq ⟨.f64, 3, 4, 6, false⟩), 
      (0x15001804000000d0, .vfexp2 ⟨.bf16, 3, 4, 6, false⟩), 
      (0x15401804000000d4, .vflog2 ⟨.f16, 3, 4, 6, false⟩), 
      (0x15801804000000d8, .vfsinpi ⟨.f32, 3, 4, 6, false⟩), 
      (0x15c01804000000dc, .vfcospi ⟨.f64, 3, 4, 6, false⟩), 
      (0x18c01804000000d8, .vfrsum ⟨.f32, 3, 4, 6, false⟩), 
      (0x19001804000000d0, .vfrmax ⟨.bf16, 3, 4, 6, false⟩), 
      (0xa80f80400a028d6, .vfcmpCc ⟨.f16, .un, 31, 4, 5, 6, true⟩)],
    decodeSyl .vb e.1 = .ok e.2 := by decide +kernel

theorem test_decode_v_permute_convert : ∀ e ∈ [
      (0x4c40183f000000c6, Instr.vbcast ⟨.n32, 3, 63, 6, true⟩), (0xc81f80407dffc00, .vext .i8 63 4 62 2047), 
      (0x8cc0203f07dffc00, .vins .i64 4 63 62 2047), (0xd00180400a000d4, .vperm ⟨.f16, 3, 4, 5, 0, 6, false⟩), 
      (0xd401804000390da, .vshuf ⟨.f32, 3, 4, 6, true⟩ 0xE4), 
      (0xd80180407e000c0, .vrot ⟨.i8, 3, 4, 63, 0, 6, false⟩), 
      (0xdc0180400a004cc, .vzip ⟨.n16, 3, 4, 5, 1, 6, false⟩), 
      (0x4e00180400a000c0, .vunzip ⟨.i32, 3, 4, 5, 0, 6, false⟩), 
      (0x8e40180407f7fcc2, .vslide ⟨.i64, 3, 4, 63, 1535, 6, true⟩), 
      (0x10001804010020d0, .vcvt ⟨.bf16, .i32, 3, 4, 0, true, 6, false⟩), 
      (0x1000180400c00cc6, .vcvt ⟨.n8, .f32, 3, 4, 3, false, 6, true⟩), 
      (0x90001804022000c0, .vcvt ⟨.i64, .n64, 3, 4, 0, false, 6, false⟩), 
      (0x1200180407c3fcd8, .vnarrowT ⟨.f32, 3, 4, 62, 255, 6, false⟩), 
      (0x124018040003f8d2, .vwidenT ⟨.bf16, 3, 4, 0, 254, 6, true⟩), 
      (0x1280180407c3f4dc, .vscaleT ⟨.f64, 3, 4, 62, 253, 6, false⟩), 
      (0x58001804000000c0, .vrsum ⟨.i32, 3, 4, 6, false⟩), (0x18401804000000c4, .vrmax ⟨.n8, 3, 4, 6, false⟩), 
      (0x98801804000000c4, .vrmin ⟨.n64, 3, 4, 6, false⟩), 
      (0x1c00183d07c0fcda, .vrngu ⟨.f32, 3, 61, 62, 63, 6, true⟩), 
      (0x1c40183d07c0fcd8, .vrngn ⟨.f32, 3, 61, 62, 63, 6, false⟩), 
      (0x1c80f83d0000fcd6, .vrngb ⟨.f16, 31, 61, 0, 63, 6, true⟩), 
      (0x1cc0180407c0fcd0, .vdrop ⟨.bf16, 3, 4, 62, 63, 6, false⟩)],
    decodeSyl .va e.1 = .ok e.2 := by decide +kernel

theorem test_decode_mx : ∀ e ∈ [
      (0xe0000000000000, Instr.mzero 7), 
      (0x1ffffdfffdef980, .mma ⟨7, 255, 254, 15, 63, 62, 61, 60, true, true⟩), 
      (0x220406828c39040, .mmau ⟨1, 2, 3, 4, 5, 6, 7, 8, false, false⟩ 4), 
      (0x320190028c01003, .mdrain 1 200 8 5 6 3), (0x439000028c48000, .mload 1 200 9 5 6), 
      (0x5c7e00000000000, .mcksum 6 63), (0x6c7e00000000000, .mstat 6 63)],
    decodeSyl .mx e.1 = .ok e.2 := by decide +kernel

theorem test_decode_ld : ∀ e ∈ [
      (0x7ff7b0001ff83, Instr.ld ⟨63, 62, 61, -32768, 1023, 0, 3⟩), 
      (0x1bfe106fffe02fc, .vld ⟨1535, 2, 3, 32767, 5, 31, 0⟩), 
      (0x2bfe106000002fd, .vlds ⟨1535, 2, 3, 0, 5, 31, 1⟩), 
      (0x3bfe106000002fe, .vgath ⟨1535, 2, 3, 0, 5, 31, 2⟩), (0x507e28000000000, .lqpop false 63 5), 
      (0x5bfe00000000001, .lqpop true 1535 0), (0x8000107fffe0000, .pref ⟨2, 3, -1⟩), 
      (0x10002107fff80300, .aadd ⟨1, 2, 3, -4, 6, .gang⟩), (0x11002107fff80301, .amin ⟨1, 2, 3, -4, 6, .die⟩), 
      (0x12002107fff80302, .amax ⟨1, 2, 3, -4, 6, .dev⟩), (0x13002107fff80303, .aand ⟨1, 2, 3, -4, 6, .grp⟩), 
      (0x14002107fff80300, .aor ⟨1, 2, 3, -4, 6, .gang⟩), (0x15002107fff80301, .axor ⟨1, 2, 3, -4, 6, .die⟩), 
      (0x16002107fff80302, .aswap ⟨1, 2, 3, -4, 6, .dev⟩), (0x17002107fff80303, .acas ⟨1, 2, 3, -4, 6, .grp⟩), 
      (0x18002107fff80300, .afadd ⟨1, 2, 3, -4, 6, .gang⟩), 
      (0x20002107fff80000, .aaddNr ⟨1, 2, 3, -4, 0, .gang⟩), 
      (0x21002107fff80001, .aminNr ⟨1, 2, 3, -4, 0, .die⟩), 
      (0x22002107fff80002, .amaxNr ⟨1, 2, 3, -4, 0, .dev⟩), 
      (0x23002107fff80003, .aandNr ⟨1, 2, 3, -4, 0, .grp⟩), 
      (0x24002107fff80000, .aorNr ⟨1, 2, 3, -4, 0, .gang⟩), 
      (0x25002107fff80001, .axorNr ⟨1, 2, 3, -4, 0, .die⟩), 
      (0x26002107fff80002, .aswapNr ⟨1, 2, 3, -4, 0, .dev⟩), 
      (0x28002107fff80000, .afaddNr ⟨1, 2, 3, -4, 0, .gang⟩), 
      (0x4bfe1060010007e, .lsld ⟨1535, 2, 3, 8, 0, 31, 2⟩)],
    decodeSyl .ld e.1 = .ok e.2 := by decide +kernel

theorem test_decode_st : ∀ e ∈ [
      (0x7ff7bfffe0002, Instr.st ⟨63, 62, 61, -1, 0, 0, 2⟩), 
      (0x1bfe1060000007f, .vst ⟨1535, 2, 3, 0, 0, 31, 3⟩), (0x2bfe1060000007d, .vsts ⟨1535, 2, 3, 0, 0, 31, 1⟩), 
      (0x3bfc1060000007e, .vscat ⟨1534, 2, 3, 0, 0, 31, 2⟩), (0x507e28000000000, .lqpsh false 63 5), 
      (0x5bfe20000000001, .lqpsh true 1535 4), (0x8000106000e0000, .flush ⟨2, 3, 7⟩), 
      (0x9000106000e0000, .discard ⟨2, 3, 7⟩), (0xa000106000e0000, .rearm ⟨2, 3, 7⟩), 
      (0x4bfc1060010007e, .lsst ⟨1534, 2, 3, 8, 0, 31, 2⟩)],
    decodeSyl .st e.1 = .ok e.2 := by decide +kernel

theorem test_decode_copy : ∀ e ∈ [
      (0x3ffffbf, Instr.copy ⟨.a, 15, 255, 254, 63⟩), (0x7ffffbf, .copyt ⟨.a, 15, 255, 254, 63⟩), 
      (0xbffffbf, .copy2 ⟨.a, 15, 255, 254, 63⟩), (0xfffffbf, .copyr ⟨.a, 15, 255, 254, 63⟩), 
      (0x13ffffbf, .gathc ⟨.a, 15, 255, 254, 63⟩), (0x17ffffbf, .copyx ⟨.a, 15, 255, 254, 63⟩)],
    decodeSyl .ca e.1 = .ok e.2 := by decide +kernel

theorem test_decode_k : ∀ e ∈ [
      (0x0, Instr.endTask), (0x10003ff, .layer 1023), (0x23f1c00, .sysrd 63 0x1C), (0x37c20c0, .pand 31 2 3), 
      (0x47c20c0, .por 31 2 3), (0x57c20c0, .pxor 31 2 3), (0x67c2000, .pnot 31 2), (0x77ff0c0, .pset 31 63 3), 
      (0x12ff3c0f, .ttw 255 60 0x0F), (0x133fff07, .ttr 63 255 7), (0x27fc0000, .clock 63), 
      (0x250c1000, .fence 3 1), (0x40fdd000, .steprd 63 29), (0x4163f000, .stepwr 24 63), 
      (0x43fcf000, .seqnext 63 15), (0x101f3c09, .shw .b 15 60 0x09), (0x113f1f07, .kShr 63 .b 15 7), 
      (0x113f1009, .kShr 63 .b 0 9), (0x22240200, .barrive 9 (.const 512)), 
      (0x20501000, .binit 20 (.const 4096)), (0x21fe003e, .bexpect 63 (.reg 62)), (0x23ffef40, .bwait 63 62 61), 
      (0x24ffe000, .btoken 63 62), (0x250c3000, .fence 3 3), (0x26001000, .fencex 0 1), 
      (0x303f3eff, .nmrun 63 62 255), (0x313f3e0f, .coll 63 62 15), (0x40219000, .steprd 8 25), 
      (0x41049000, .stepwr 1 9), (0x42100180, .curadv 4 0 6), (0x431c3000, .seqnext 7 3), 
      (0x44085000, .losschk 2 5), (0x45000003, .pennon 3 false), (0x450001ff, .pennon 255 true), 
      (0x46000000, .stepend)],
    decodeSyl .k e.1 = .ok e.2 := by decide +kernel

theorem test_decode_k_handler : ∀ e ∈ [
      (0xf00f4400, Instr.hrd 15 0x44), (0xf13f0f00, .hwr 63 15), (0xf20f0e01, .hpage 15 14 1), 
      (0xf30f0000, .hfreeze 15), (0xf4000000, .eret), (0xf500ffff, .trap 65535)],
    decodeSyl .k e.1 = .ok e.2 := by decide +kernel

theorem test_decode_near_memory : ∀ e ∈ [
      (0xfc000000000007, Instr.nld 63 7), (0x100200000000001, .nst 1 2), (0x2fc00000000001f, .nparam 63 31), 
      (0x100420c020000000, .nadd ⟨1, 2, 3, 0, true⟩), (0x11042fc000000000, .nsub ⟨1, 2, 63, 0, false⟩), 
      (0x12fc20c020000000, .nmul ⟨63, 2, 3, 0, true⟩), (0x1310108300000000, .nfma ⟨4, 1, 2, 3, false⟩), 
      (0x140420c000000000, .ndiv ⟨1, 2, 3, 0, false⟩), (0x1507f00000000000, .nsqrt ⟨1, 63, 0, 0, false⟩), 
      (0x1607f00000000000, .nrsq ⟨1, 63, 0, 0, false⟩), (0x170420c000000000, .nmax ⟨1, 2, 3, 0, false⟩), 
      (0x180420c020000000, .nmin ⟨1, 2, 3, 0, true⟩), (0x1904200020000000, .nabs ⟨1, 2, 0, 0, true⟩), 
      (0x1a0420c020000009, .ncmp ⟨1, 2, 3, 0, true⟩ .gtu), (0x1a0420c00000000b, .ncmp ⟨1, 2, 3, 0, false⟩ .ord), 
      (0x1b0420ff00000000, .nsel ⟨1, 2, 3, 63, false⟩), (0x1c0420c420000000, .nclamp ⟨1, 2, 3, 4, true⟩), 
      (0x1d04200040000000, .ncvt 2 1 2), (0x1d04200000000000, .ncvt 0 1 2), (0x20000000000003ff, .nloop 1023), 
      (0x2100000000000000, .nend)],
    decodeNM e.1 = .ok e.2 := by decide +kernel

/-! Ill-formed terms: one for each check of `Instr.wf`, beside a term that passes it. -/

theorem test_wf_s_integer : ∀ i ∈ [Instr.add 63 63 63, .sel 63 63 63 31, .addi 63 63 (-2048), .shli 63 63 63, .clz 63 63,
    .movj 63 5, .movp 63 31, .cmpCc .gtu 31 63 63, .cmpiCc .gtu 31 63 2047, .li 63 (-131072), .lih 63 262143, .nop false false 31],
    i.wf = true := by decide +kernel

theorem test_ill_s_integer : ∀ i ∈ [Instr.add 64 0 0, .add 0 64 0, .add 0 0 64, .sel 64 0 0 0, .sel 0 64 0 0, .sel 0 0 64 0,
    .sel 0 0 0 32, .addi 64 0 0, .addi 0 64 0, .addi 0 0 (-2049), .addi 0 0 2048, .shli 64 0 0, .shli 0 64 0, .shli 0 0 64,
    .clz 64 0, .clz 0 64, .movj 64 0, .movj 0 6, .movp 64 0, .movp 0 32, .cmpCc .un 0 0 0, .cmpCc .eq 32 0 0, .cmpCc .eq 0 64 0,
    .cmpCc .eq 0 0 64, .cmpiCc .ord 0 0 0, .cmpiCc .eq 32 0 0, .cmpiCc .eq 0 64 0, .cmpiCc .eq 0 0 2048, .li 64 0,
    .li 0 131072, .li 0 (-131073), .lih 64 0, .lih 0 262144, .nop false false 32], i.wf = false := by decide +kernel

theorem test_wf_s_float_and_control : ∀ i ∈ [Instr.fadd true 63 63 63, .fsqrt true 63 63, .fcmpCc .ord true 31 63 63, .fcvt .bf16 .i64 63 63,
    .br (-8388608), .call 8388607, .brc 31 true 131071, .jr 63, .loop 6 58 true 16383, .loop 1 63 false 0, .loopx 1 0 true 16383,
    .loopx 6 59 false 1], i.wf = true := by decide +kernel

theorem test_ill_s_float_and_control : ∀ i ∈ [Instr.fadd true 64 0 0, .fadd true 0 64 0, .fadd true 0 0 64, .fsqrt true 64 0, .fsqrt true 0 64,
    .fcmpCc .gtu true 0 0 0, .fcmpCc .eq true 32 0 0, .fcmpCc .eq true 0 64 0, .fcmpCc .eq true 0 0 64, .fcvt .i8 .f32 0 0,
    .fcvt .f32 .n16 0 0, .fcvt .f32 .f64 64 0, .fcvt .f32 .f64 0 64, .br 8388608, .call (-8388609), .brc 32 true 0,
    .brc 0 true 131072, .jr 64, .loop 0 0 false 0, .loop 7 0 false 0, .loop 2 63 false 0, .loop 1 0 true 16384, .loop 1 0 false 1,
    .loopx 0 0 false 1, .loopx 7 0 false 1, .loopx 1 0 false 0, .loopx 1 0 false 16384, .loopx 1 1 false 1, .loopx 3 63 false 1],
    i.wf = false := by decide +kernel

theorem test_wf_v_integer : ∀ i ∈ [Instr.vadd ⟨.i8, 1535, 1535, .reg 1535, 31, true⟩, .vadd ⟨.n64, 0, 0, .imm (-1024), 0, false⟩,
    .vsar ⟨.i16, 0, 0, .imm 1023, 0, false⟩, .vabs ⟨.i64, 1535, 1535, 31, true⟩, .vneg ⟨.n8, 0, 0, 0, false⟩,
    .vcmpCc ⟨.i8, .gtu, 31, 1535, 1535, 31, false⟩, .vsel ⟨.f64, 1535, 1535, 1535, 31, 31, true⟩], i.wf = true := by decide +kernel

theorem test_ill_v_integer : ∀ i ∈ [Instr.vadd ⟨.f32, 0, 0, .reg 0, 0, false⟩, .vadd ⟨.i8, 1536, 0, .reg 0, 0, false⟩,
    .vadd ⟨.i8, 0, 1536, .reg 0, 0, false⟩, .vadd ⟨.i8, 0, 0, .reg 1536, 0, false⟩, .vadd ⟨.i8, 0, 0, .imm 1024, 0, false⟩,
    .vadd ⟨.i8, 0, 0, .imm (-1025), 0, false⟩, .vadd ⟨.i8, 0, 0, .reg 0, 32, false⟩, .vsar ⟨.n16, 0, 0, .reg 0, 0, false⟩,
    .vsar ⟨.i16, 1536, 0, .reg 0, 0, false⟩, .vabs ⟨.n8, 0, 0, 0, false⟩, .vabs ⟨.i8, 1536, 0, 0, false⟩, .vabs ⟨.i8, 0, 1536, 0, false⟩,
    .vabs ⟨.i8, 0, 0, 32, false⟩, .vneg ⟨.f16, 0, 0, 0, false⟩, .vneg ⟨.i8, 1536, 0, 0, false⟩, .vcmpCc ⟨.f32, .eq, 0, 0, 0, 0, false⟩,
    .vcmpCc ⟨.i8, .un, 0, 0, 0, 0, false⟩, .vcmpCc ⟨.i8, .eq, 32, 0, 0, 0, false⟩, .vcmpCc ⟨.i8, .eq, 0, 1536, 0, 0, false⟩,
    .vcmpCc ⟨.i8, .eq, 0, 0, 1536, 0, false⟩, .vcmpCc ⟨.i8, .eq, 0, 0, 0, 32, false⟩, .vsel ⟨.i8, 1536, 0, 0, 0, 0, false⟩,
    .vsel ⟨.i8, 0, 1536, 0, 0, 0, false⟩, .vsel ⟨.i8, 0, 0, 1536, 0, 0, false⟩, .vsel ⟨.i8, 0, 0, 0, 32, 0, false⟩,
    .vsel ⟨.i8, 0, 0, 0, 0, 32, false⟩], i.wf = false := by decide +kernel

theorem test_wf_v_float : ∀ i ∈ [Instr.vfadd ⟨.bf16, 1535, 1535, 1535, 0, 31, true⟩, .vfma ⟨.f64, 1535, 1535, 1535, 1535, 31, false⟩,
    .vfabs ⟨.f32, 1535, 1535, 31, false⟩, .vfcmpCc ⟨.f16, .ord, 31, 1535, 1535, 31, true⟩, .vmov ⟨.i8, 1535, 1535, 31, true⟩,
    .vbcast ⟨.f32, 1535, 63, 31, false⟩, .vext .n64 63 1535 63 2047, .vins .n64 1535 63 63 2047, .vperm ⟨.i8, 1535, 1535, 1535, 0, 31, true⟩,
    .vshuf ⟨.i8, 0, 0, 0, false⟩ 0xFF, .vrot ⟨.i8, 1535, 1535, 63, 0, 31, true⟩, .vzip ⟨.i8, 1535, 1535, 1535, 1, 31, true⟩,
    .vslide ⟨.i8, 1535, 1535, 63, 1535, 31, true⟩], i.wf = true := by decide +kernel

theorem test_ill_v_float : ∀ i ∈ [Instr.vfadd ⟨.i16, 0, 0, 0, 0, 0, false⟩, .vfadd ⟨.f16, 1536, 0, 0, 0, 0, false⟩,
    .vfadd ⟨.f16, 0, 1536, 0, 0, 0, false⟩, .vfadd ⟨.f16, 0, 0, 1536, 0, 0, false⟩, .vfadd ⟨.f16, 0, 0, 0, 1, 0, false⟩,
    .vfadd ⟨.f16, 0, 0, 0, 0, 32, false⟩, .vfma ⟨.n8, 0, 0, 0, 0, 0, false⟩, .vfma ⟨.f16, 0, 0, 0, 1536, 0, false⟩,
    .vfabs ⟨.i32, 0, 0, 0, false⟩, .vfabs ⟨.f32, 1536, 0, 0, false⟩, .vfcmpCc ⟨.i8, .eq, 0, 0, 0, 0, false⟩,
    .vfcmpCc ⟨.f16, .leu, 0, 0, 0, 0, false⟩, .vfcmpCc ⟨.f16, .eq, 32, 0, 0, 0, false⟩, .vmov ⟨.i8, 1536, 0, 0, false⟩,
    .vbcast ⟨.i8, 1536, 0, 0, false⟩, .vbcast ⟨.i8, 0, 64, 0, false⟩, .vbcast ⟨.i8, 0, 0, 32, false⟩, .vext .i8 64 0 0 0,
    .vext .i8 0 1536 0 0, .vext .i8 0 0 64 0, .vext .i8 0 0 0 2048, .vins .i8 1536 0 0 0, .vins .i8 0 64 0 0, .vins .i8 0 0 64 0,
    .vins .i8 0 0 0 2048, .vperm ⟨.i8, 0, 0, 0, 1, 0, false⟩, .vshuf ⟨.i8, 1536, 0, 0, false⟩ 0, .vrot ⟨.i8, 1536, 0, 0, 0, 0, false⟩,
    .vrot ⟨.i8, 0, 1536, 0, 0, 0, false⟩, .vrot ⟨.i8, 0, 0, 64, 0, 0, false⟩, .vrot ⟨.i8, 0, 0, 0, 1, 0, false⟩,
    .vrot ⟨.i8, 0, 0, 0, 0, 32, false⟩, .vzip ⟨.i8, 0, 0, 0, 2, 0, false⟩, .vzip ⟨.i8, 1536, 0, 0, 0, 0, false⟩,
    .vzip ⟨.i8, 0, 1536, 0, 0, 0, false⟩, .vzip ⟨.i8, 0, 0, 1536, 0, 0, false⟩, .vzip ⟨.i8, 0, 0, 0, 0, 32, false⟩,
    .vslide ⟨.i8, 1536, 0, 0, 0, 0, false⟩, .vslide ⟨.i8, 0, 1536, 0, 0, 0, false⟩, .vslide ⟨.i8, 0, 0, 64, 0, 0, false⟩,
    .vslide ⟨.i8, 0, 0, 0, 1536, 0, false⟩, .vslide ⟨.i8, 0, 0, 0, 0, 32, false⟩], i.wf = false := by decide +kernel

theorem test_wf_v_convert : ∀ i ∈ [Instr.vcvt ⟨.i8, .f64, 1535, 1535, 7, true, 31, true⟩, .vcvt ⟨.f16, .i16, 0, 0, 0, true, 0, false⟩,
    .vnarrowT ⟨.f32, 1535, 1535, 63, 255, 31, false⟩, .vwidenT ⟨.i16, 1535, 1535, 0, 255, 31, true⟩, .vrsum ⟨.n64, 1535, 1535, 31, false⟩,
    .vfrsum ⟨.f16, 1535, 1535, 31, false⟩, .vrngu ⟨.f32, 1535, 63, 63, 63, 31, true⟩, .vrngb ⟨.f64, 31, 63, 0, 63, 31, true⟩,
    .vdrop ⟨.bf16, 1535, 1535, 63, 63, 31, true⟩], i.wf = true := by decide +kernel

theorem test_ill_v_convert : ∀ i ∈ [Instr.vcvt ⟨.i8, .f64, 1536, 0, 0, false, 0, false⟩, .vcvt ⟨.i8, .f64, 0, 1536, 0, false, 0, false⟩,
    .vcvt ⟨.i8, .f64, 0, 0, 8, false, 0, false⟩, .vcvt ⟨.i8, .f64, 0, 0, 0, false, 32, false⟩, .vcvt ⟨.i8, .n64, 0, 0, 0, true, 0, false⟩,
    .vcvt ⟨.f64, .i32, 0, 0, 0, true, 0, false⟩, .vcvt ⟨.f32, .n16, 0, 0, 0, true, 0, false⟩, .vcvt ⟨.bf16, .n8, 0, 0, 0, true, 0, false⟩,
    .vnarrowT ⟨.i16, 0, 0, 0, 0, 0, false⟩, .vnarrowT ⟨.f32, 0, 0, 0, 0, 0, true⟩, .vnarrowT ⟨.f32, 1536, 0, 0, 0, 0, false⟩,
    .vnarrowT ⟨.f32, 0, 1536, 0, 0, 0, false⟩, .vnarrowT ⟨.f32, 0, 0, 64, 0, 0, false⟩, .vnarrowT ⟨.f32, 0, 0, 0, 256, 0, false⟩,
    .vnarrowT ⟨.f32, 0, 0, 0, 0, 32, false⟩, .vwidenT ⟨.i32, 0, 0, 0, 0, 0, false⟩, .vwidenT ⟨.f32, 1536, 0, 0, 0, 0, false⟩,
    .vwidenT ⟨.f32, 0, 1536, 0, 0, 0, false⟩, .vwidenT ⟨.f32, 0, 0, 1, 0, 0, false⟩, .vwidenT ⟨.f32, 0, 0, 0, 256, 0, false⟩,
    .vwidenT ⟨.f32, 0, 0, 0, 0, 32, false⟩, .vrsum ⟨.f32, 0, 0, 0, false⟩, .vrsum ⟨.i32, 0, 0, 0, true⟩, .vrsum ⟨.i32, 1536, 0, 0, false⟩,
    .vfrsum ⟨.i16, 0, 0, 0, false⟩, .vfrsum ⟨.f16, 0, 0, 0, true⟩, .vfrsum ⟨.f16, 0, 1536, 0, false⟩, .vrngu ⟨.f64, 0, 0, 0, 0, 0, false⟩,
    .vrngu ⟨.f32, 1536, 0, 0, 0, 0, false⟩, .vrngu ⟨.f32, 0, 64, 0, 0, 0, false⟩, .vrngu ⟨.f32, 0, 0, 64, 0, 0, false⟩,
    .vrngu ⟨.f32, 0, 0, 0, 64, 0, false⟩, .vrngu ⟨.f32, 0, 0, 0, 0, 32, false⟩, .vrngb ⟨.i64, 0, 0, 0, 0, 0, false⟩,
    .vrngb ⟨.f32, 32, 0, 0, 0, 0, false⟩, .vrngb ⟨.f32, 0, 64, 0, 0, 0, false⟩, .vrngb ⟨.f32, 0, 0, 1, 0, 0, false⟩,
    .vrngb ⟨.f32, 0, 0, 0, 64, 0, false⟩, .vrngb ⟨.f32, 0, 0, 0, 0, 32, false⟩, .vdrop ⟨.i8, 0, 0, 0, 0, 0, false⟩,
    .vdrop ⟨.f32, 1536, 0, 0, 0, 0, false⟩, .vdrop ⟨.f32, 0, 1536, 0, 0, 0, false⟩, .vdrop ⟨.f32, 0, 0, 64, 0, 0, false⟩,
    .vdrop ⟨.f32, 0, 0, 0, 64, 0, false⟩, .vdrop ⟨.f32, 0, 0, 0, 0, 32, false⟩], i.wf = false := by decide +kernel

theorem test_wf_mx : ∀ i ∈ [Instr.mzero 7, .mma ⟨7, 255, 255, 15, 63, 63, 63, 63, true, true⟩, .mmau ⟨0, 0, 0, 0, 0, 0, 62, 0, false, false⟩ 4,
    .mdrain 7 255 63 63 63 3, .mload 7 255 63 63 63, .mcksum 7 63], i.wf = true := by decide +kernel

theorem test_ill_mx : ∀ i ∈ [Instr.mzero 8, .mma ⟨8, 0, 0, 0, 0, 0, 0, 0, false, false⟩, .mma ⟨0, 256, 0, 0, 0, 0, 0, 0, false, false⟩,
    .mma ⟨0, 0, 256, 0, 0, 0, 0, 0, false, false⟩, .mma ⟨0, 0, 0, 16, 0, 0, 0, 0, false, false⟩, .mma ⟨0, 0, 0, 0, 64, 0, 0, 0, false, false⟩,
    .mma ⟨0, 0, 0, 0, 1, 64, 0, 0, false, false⟩, .mma ⟨0, 0, 0, 0, 0, 0, 64, 0, false, false⟩, .mma ⟨0, 0, 0, 0, 0, 0, 0, 64, false, false⟩,
    .mma ⟨0, 0, 0, 0, 0, 1, 0, 0, false, false⟩, .mmau ⟨8, 0, 0, 0, 0, 0, 1, 0, false, false⟩ 1, .mmau ⟨0, 0, 0, 0, 0, 0, 1, 0, false, false⟩ 0,
    .mmau ⟨0, 0, 0, 0, 0, 0, 1, 0, false, false⟩ 5, .mmau ⟨0, 0, 0, 0, 0, 0, 0, 0, false, false⟩ 1, .mmau ⟨0, 0, 0, 0, 0, 0, 63, 0, false, false⟩ 1,
    .mdrain 8 0 0 0 0 0, .mdrain 0 256 0 0 0 0, .mdrain 0 0 64 0 0 0, .mdrain 0 0 0 64 0 0, .mdrain 0 0 0 1 64 0, .mdrain 0 0 0 0 1 0,
    .mdrain 0 0 0 0 0 4, .mload 8 0 0 0 0, .mload 0 256 0 0 0, .mload 0 0 64 0 0, .mload 0 0 0 0 1, .mcksum 8 0, .mcksum 0 64],
    i.wf = false := by decide +kernel

theorem test_wf_ls : ∀ i ∈ [Instr.ld ⟨63, 63, 63, -32768, 1023, 0, 3⟩, .vld ⟨1535, 63, 63, 32767, 1023, 31, 3⟩, .vgath ⟨0, 0, 0, 0, 0, 0, 2⟩,
    .lsld ⟨0, 0, 0, 0, 0, 0, 2⟩, .lqpop true 1535 5, .lqpsh false 63 5, .pref ⟨63, 63, 0⟩, .aadd ⟨63, 63, 63, 0, 1023, .grp⟩,
    .aaddNr ⟨63, 63, 63, 0, 0, .grp⟩, .st ⟨63, 0, 0, 0, 0, 0, 0⟩, .vst ⟨1535, 0, 0, 0, 0, 0, 0⟩, .vscat ⟨1534, 0, 0, 0, 0, 0, 2⟩,
    .lsst ⟨1534, 0, 0, 0, 0, 0, 2⟩, .copy ⟨.a, 15, 255, 255, 63⟩], i.wf = true := by decide +kernel

theorem test_ill_ls : ∀ i ∈ [Instr.ld ⟨64, 0, 0, 0, 0, 0, 0⟩, .ld ⟨0, 64, 0, 0, 0, 0, 0⟩, .ld ⟨0, 0, 64, 0, 0, 0, 0⟩, .ld ⟨0, 0, 0, 32768, 0, 0, 0⟩,
    .ld ⟨0, 0, 0, 0, 1024, 0, 0⟩, .ld ⟨0, 0, 0, 0, 0, 1, 0⟩, .ld ⟨0, 0, 0, 0, 0, 0, 4⟩, .vld ⟨1536, 0, 0, 0, 0, 0, 0⟩,
    .vld ⟨0, 0, 0, 0, 0, 32, 0⟩, .vld ⟨0, 64, 0, 0, 0, 0, 0⟩, .vld ⟨0, 0, 0, 0, 0, 0, 4⟩, .vgath ⟨0, 0, 0, 0, 0, 0, 1⟩, .vgath ⟨1536, 0, 0, 0, 0, 0, 2⟩,
    .lsld ⟨0, 0, 0, 0, 0, 0, 3⟩, .lsld ⟨0, 0, 0, 0, 1, 0, 2⟩, .lsld ⟨1536, 0, 0, 0, 0, 0, 2⟩, .lqpop true 1536 0, .lqpop false 64 0, .lqpop true 0 6,
    .pref ⟨64, 0, 0⟩, .pref ⟨0, 64, 0⟩, .pref ⟨0, 0, 32768⟩, .aadd ⟨64, 0, 0, 0, 0, .gang⟩, .aadd ⟨0, 64, 0, 0, 0, .gang⟩,
    .aadd ⟨0, 0, 64, 0, 0, .gang⟩, .aadd ⟨0, 0, 0, -32769, 0, .gang⟩, .aadd ⟨0, 0, 0, 0, 1024, .gang⟩, .aaddNr ⟨64, 0, 0, 0, 0, .gang⟩,
    .aaddNr ⟨0, 0, 0, 0, 1, .gang⟩, .st ⟨64, 0, 0, 0, 0, 0, 0⟩, .st ⟨0, 0, 0, 0, 1, 0, 0⟩, .vst ⟨1536, 0, 0, 0, 0, 0, 0⟩, .vst ⟨0, 0, 0, 0, 1, 0, 0⟩,
    .vscat ⟨1535, 0, 0, 0, 0, 0, 2⟩, .vscat ⟨0, 0, 0, 0, 1, 0, 2⟩, .vscat ⟨0, 0, 0, 0, 0, 0, 1⟩, .vscat ⟨0, 64, 0, 0, 0, 0, 2⟩,
    .lsst ⟨1535, 0, 0, 0, 0, 0, 2⟩, .lsst ⟨0, 0, 0, 0, 1, 0, 2⟩, .lsst ⟨0, 0, 0, 0, 0, 0, 3⟩, .lsst ⟨0, 64, 0, 0, 0, 0, 2⟩,
    .copy ⟨.a, 16, 0, 0, 0⟩, .copy ⟨.a, 0, 256, 0, 0⟩, .copy ⟨.a, 0, 0, 256, 0⟩, .copy ⟨.a, 0, 0, 0, 64⟩], i.wf = false := by decide +kernel

theorem test_wf_k : ∀ i ∈ [Instr.layer 1023, .sysrd 63 0x1C, .pand 31 31 31, .pnot 31 31, .pset 31 63 3, .shw .b 15 56 0xFF,
    .kShr 63 .b 15 7, .kShr 63 .b 0 9, .ttw 255 56 0xFF, .ttr 63 255 7, .binit 63 (.const 131071), .bwait 63 63 63, .btoken 63 63,
    .fence 3 3, .fencex 6 6, .clock 63, .nmrun 63 63 255, .coll 63 63 15, .steprd 63 29, .stepwr 24 63, .curadv 63 7 63, .seqnext 63 15,
    .losschk 31 63, .pennon 255 true, .hrd 15 0x44, .hwr 63 15, .hpage 15 15 1, .hfreeze 15, .trap 65535], i.wf = true := by decide +kernel

theorem test_ill_k : ∀ i ∈ [Instr.layer 1024, .sysrd 64 0, .sysrd 0 9, .sysrd 0 0x1D, .pand 32 0 0, .pand 0 32 0, .pand 0 0 32, .pnot 32 0, .pnot 0 32,
    .pset 32 0 0, .pset 0 64 0, .pset 0 0 4, .shw .a 16 0 1, .shw .a 0 64 1, .shw .a 0 57 0x80, .shw .a 0 0 0, .shw .a 0 0 256, .kShr 64 .a 0 0,
    .kShr 0 .a 16 0, .kShr 0 .a 0 10, .kShr 0 .a 1 8, .ttw 256 0 1, .ttw 0 64 1, .ttw 0 57 0x80, .ttw 0 0 0, .ttw 0 0 256, .ttr 64 0 0,
    .ttr 0 256 0, .ttr 0 0 8, .binit 64 (.const 0), .binit 0 (.const 131072), .binit 0 (.reg 64), .bwait 64 0 0, .bwait 0 64 0,
    .bwait 0 0 64, .btoken 64 0, .btoken 0 64, .fence 0 1, .fence 4 1, .fence 1 0, .fence 1 4, .fencex 7 0, .fencex 0 7, .fencex 0 3,
    .clock 64, .nmrun 64 0 0, .nmrun 0 64 0, .nmrun 0 0 256, .coll 64 0 0, .coll 0 64 0, .coll 0 0 16, .steprd 64 0, .steprd 0 30,
    .stepwr 0 0, .stepwr 25 0, .stepwr 1 64, .curadv 64 0 0, .curadv 0 8 0, .curadv 0 0 64, .seqnext 64 0, .seqnext 0 16, .losschk 32 0,
    .losschk 0 64, .pennon 256 false, .hrd 16 0, .hrd 0 0x45, .hwr 64 0, .hwr 0 16, .hpage 16 0 0, .hpage 0 16 0, .hpage 0 0 2, .hfreeze 16,
    .trap 65536], i.wf = false := by decide +kernel

theorem test_wf_near_memory : ∀ i ∈ [Instr.nld 63 7, .nst 7 63, .nparam 63 31, .nadd ⟨63, 63, 63, 0, true⟩, .nfma ⟨63, 63, 63, 63, false⟩,
    .ndiv ⟨63, 63, 63, 0, false⟩, .nsqrt ⟨63, 63, 0, 0, false⟩, .nabs ⟨63, 63, 0, 0, true⟩, .ncmp ⟨63, 63, 63, 0, true⟩ .gtu,
    .ncmp ⟨63, 63, 63, 0, false⟩ .ord, .nclamp ⟨63, 63, 63, 63, true⟩, .ncvt 2 63 63, .nloop 1023], i.wf = true := by decide +kernel

theorem test_ill_near_memory : ∀ i ∈ [Instr.nld 64 0, .nld 0 8, .nst 8 0, .nst 0 64, .nparam 64 0, .nparam 0 32, .nadd ⟨64, 0, 0, 0, false⟩,
    .nadd ⟨0, 64, 0, 0, false⟩, .nadd ⟨0, 0, 64, 0, false⟩, .nadd ⟨0, 0, 0, 1, false⟩, .nfma ⟨0, 0, 0, 64, false⟩, .nfma ⟨0, 0, 0, 0, true⟩,
    .ndiv ⟨0, 0, 0, 1, false⟩, .ndiv ⟨0, 0, 0, 0, true⟩, .nsqrt ⟨0, 0, 1, 0, false⟩, .nsqrt ⟨0, 0, 0, 1, false⟩, .nsqrt ⟨0, 0, 0, 0, true⟩,
    .nabs ⟨0, 0, 1, 0, false⟩, .ncmp ⟨0, 0, 0, 1, false⟩ .eq, .ncmp ⟨0, 0, 0, 0, true⟩ .un, .ncmp ⟨0, 0, 0, 0, false⟩ .ltu,
    .nclamp ⟨0, 0, 0, 64, false⟩, .ncvt 3 0 0, .ncvt 0 64 0, .ncvt 0 0 64, .nloop 1024], i.wf = false := by decide +kernel

/-! Encodings that the maps leave empty or that set a reserved bit are refused (05 R90, R98). -/

theorem test_decode_refuses : ∀ e ∈ [(Slot.s, 0x50000000), (.s, 0x38000000), (.s, 0x00000001), (.s, 0x1B000040), (.s, 0x14000040),
    (.s, 0x1F00000A), (.s, 0x45000000), (.s, 0x44001000), (.va, 0x0580000000000000), (.va, 0x0030000000000000),
    (.va, 0x0000000000200001), (.va, 0xC000000000000000), (.va, 0x4800000000000000), (.va, 0x0B00000000000001), (.mx, 0x0700000000000000),
    (.mx, 0x0000000000000001), (.mx, 0x0300000000000004), (.mx, 0x0200000000000050), (.ld, 0x0600000000000000), (.ld, 0x2700000000000000),
    (.ld, 0x0008000000000000), (.ld, 0x0300000000000000), (.ld, 0x0500010000000002), (.ld, 0x0500030000000000), (.st, 0x0B00000000000000),
    (.st, 0x0000000000000080), (.st, 0x04BFE00000000002), (.ca, 0x18000000), (.k, 0x08000000), (.k, 0xD0000000), (.k, 0x00000001), (.k, 0x01040000),
    (.k, 0x02000009), (.k, 0x06000040), (.k, 0x10200001), (.k, 0x11010808), (.k, 0x02600000), (.k, 0x45000200), (.k, 0x46040000), (.k, 0xF4000001),
    (.k, 0xF1000040)], (decodeSyl e.1 e.2).toOption = none := by decide +kernel

theorem test_decode_near_memory_refuses : ∀ w ∈ [0x0300000000000000, 0x1E00000000000000, 0x1000000060000000, 0x1000000000000001,
    0x1000000000010000, 0x1310000020000000, 0x1A0000000000000C, 0x2000000000000400, 0x2100000000000001, 0x0000000000000008],
    (decodeNM w).toOption = none := by decide +kernel

theorem test_header_refuses : ∀ w ∈ [0xC0000000, 0xD0000001, 0xD0000800], (decodeHeader w).toOption = none := by decide +kernel
/-! One step each, on small states. The expected values are the spec's worked examples, or calculated from its rules by
hand. -/

/-- The step task of the tests: node 0 of launch 1, alone on core 0. -/
def task : Occ :=
  { launch := 1, node := 0, member := 0, gang := 1, first := 0, step := true, terminal := true, handle := 0 }

/-- A machine whose core 0 runs the task, in step state 2, on a core with some registers. -/
def demo (f : Core → Core) : State :=
  { State.reset with
    cores := [(0, f { Core.reset with occ := some task, begun := true, pc := 0x100 })], stepState := 2,
    launches := [(1, { handle := 0, graphSec := 0, step := true, nodes := [], stepend := false })] }

def demoS (l : Tab Word) : State := demo (fun k => { k with s := l })
def demoV (v : Tab VReg) (p : Tab PReg) (s : Tab Word) : State := demo (fun k => { k with v := v, p := p, s := s })

/-- What an instruction answers, or the state itself where it stops. -/
def ran (i : Instr) (s : State) : State :=
  match exec i s with
  | .next t => t
  | _ => s

/-- What an instruction puts in flight on the core that runs it, with the cycles from issue to landing. -/
def puts (i : Instr) (s : State) : List (Nat × Eff) := (ran i s).me.pend.map (fun p => (p.due - s.me.now, p.eff))

/-- The first n elements of a vector result over an old value, as one number. -/
def laid (w n : Nat) (old : VReg) (i : Instr) (s : State) : Nat :=
  match puts i s with
  | (_, .vector _ m v) :: _ => (landedV m v old).toNat % 2 ^ (8 * w * n)
  | _ => 0

def pack (w : Nat) (l : List Nat) : Nat := l.foldr (fun x a => x + a * 2 ^ (8 * w)) 0

def regs : State :=
  demoS [(1, 0xFFFFFFFFFFFFFFFF), (2, 0x8000000000000000), (3, 7), (4, 64), (5, 0x0000010000400000), (6, 5), (10, 0x10)]

theorem test_scalar_integer : ∀ e ∈ [(Instr.add 9 1 3, (6 : Word)), (.sub 9 0 3, 0xFFFFFFFFFFFFFFF9), (.and 9 1 3, 7), (.or 9 3 4, 71),
      (.xor 9 1 3, 0xFFFFFFFFFFFFFFF8), (.shl 9 3 4, 7), (.shr 9 1 3, 0x01FFFFFFFFFFFFFF), (.sar 9 2 3, 0xFF00000000000000),
      (.min 9 1 3, 0xFFFFFFFFFFFFFFFF), (.max 9 1 3, 7), (.minu 9 1 3, 7), (.maxu 9 1 3, 0xFFFFFFFFFFFFFFFF), (.clz 9 0, 64), (.clz 9 6, 61),
      (.popc 9 1, 64), (.addi 9 3 (-8), 0xFFFFFFFFFFFFFFFF), (.andi 9 3 (-2), 6), (.ori 9 0 (-2048), 0xFFFFFFFFFFFFF800),
      (.xori 9 1 (-1), 0), (.shli 9 3 63, 0x8000000000000000), (.shri 9 1 63, 1), (.sari 9 2 63, 0xFFFFFFFFFFFFFFFF),
      (.li 9 (-131072), 0xFFFFFFFFFFFE0000), (.movp 9 0, 0xFFFFFFFFFFFFFFFF), (.movj 9 5, 0), (.sel 9 3 4 0, 7), (.sel 9 3 4 1, 64)],
    puts e.1 regs = [(1, .scalar 9 e.2)] := by decide +kernel

/-- 06 R130's example: LIH on 0x10 gives 0x400010, and the quotient of 0x10000400000 by 64 lands 34 cycles after issue. -/
theorem test_scalar_multiply_divide : puts (.lih 10 0x10) regs = [(1, .scalar 10 0x400010)] ∧
    puts (.div 9 5 4) regs = [(34, .scalar 9 0x0000000400010000)] ∧ puts (.div 9 2 1) regs = [(34, .scalar 9 0x8000000000000000)] ∧
    puts (.div 9 3 0) regs = [(34, .scalar 9 0xFFFFFFFFFFFFFFFF)] ∧ puts (.divu 9 3 6) regs = [(34, .scalar 9 1)] ∧
    puts (.rem 9 2 1) regs = [(34, .scalar 9 0)] ∧ puts (.rem 9 3 0) regs = [(34, .scalar 9 7)] ∧
    puts (.remu 9 1 4) regs = [(34, .scalar 9 63)] ∧ puts (.mul 9 1 3) regs = [(3, .scalar 9 0xFFFFFFFFFFFFFFF9)] ∧
    puts (.mulh 9 1 3) regs = [(3, .scalar 9 0xFFFFFFFFFFFFFFFF)] ∧ puts (.mulhu 9 1 1) regs = [(3, .scalar 9 0xFFFFFFFFFFFFFFFE)] := by
  decide +kernel

theorem test_scalar_compare : ∀ e ∈ [(Instr.cmpCc .lt 4 1 3, true), (.cmpCc .ltu 4 1 3, false), (.cmpCc .ge 4 3 3, true),
      (.cmpCc .le 4 2 1, true), (.cmpCc .leu 4 2 1, true), (.cmpCc .gtu 4 2 1, false), (.cmpiCc .eq 4 1 (-1), true),
      (.cmpiCc .geu 4 3 (-1), false), (.cmpiCc .gt 4 3 (-1), true), (.cmpiCc .ne 4 3 7, false)],
    puts e.1 regs = [(1, .pred 4 (BitVec.allOnes 512) (if e.2 then BitVec.allOnes 512 else 0))] := by decide +kernel

def floats : State :=
  demoS [(1, 0x3F800800), (2, 0xBF801000), (3, 0x7FC05003), (4, 0xFFC02009), (5, 0x80000000), (6, 0x3F800000), (7, 0x4F000000),
    (8, 0xBFC00000), (11, 0x3FF0000000000000), (12, 0x3CA0000000000000), (13, 0x4000000000000000)]

/-- 07 R144's example: of the NaNs 0x7FC05003 and 0xFFC02009 the result is the second; 1 + 2^-53 ties to 1; FFMA of
1 + 2^-12 squared less 1 + 2^-11 rounds once, to 2^-24. -/
theorem test_scalar_float : ∀ e ∈ [(Instr.fadd true 9 3 4, 4, (0xFFC02009 : Word)), (.fadd false 9 11 12, 4, 0x3FF0000000000000),
      (.fsub true 9 6 6, 4, 0), (.fmul true 9 6 8, 4, 0xBFC00000), (.fsqrt false 9 13, 16, 0x3FF6A09E667F3BCD), (.fcvt .i32 .f32 9 7, 4, 0x7FFFFFFF),
      (.fcvt .i32 .f32 9 8, 4, 0xFFFFFFFFFFFFFFFE), (.fcvt .f64 .f32 9 4, 4, 0xFFF8020090000000), (.fcvt .n64 .f32 9 8, 4, 0)],
    puts e.1 floats = [(e.2.1, .scalar 9 e.2.2)] := by decide +kernel

theorem test_scalar_float_fused : puts (.ffma true 2 1 1) floats = [(4, .scalar 2 0x33800000)] := by decide +kernel

/-- A finite value divided by zero, and the root of a negative value, set OVF in a step task (07 R146). -/
theorem test_scalar_float_overflow :
    puts (.fdiv true 9 8 5) floats = [(16, .scalar 9 0x7F800000), (16, .pennon 4)] ∧
    puts (.fsqrt true 9 8) floats = [(16, .scalar 9 0x7FC00000), (16, .pennon 4)] := by decide +kernel

theorem test_scalar_float_compare : ∀ e ∈ [(Instr.fcmpCc .eq true 4 0 5, true), (.fcmpCc .lt true 4 3 6, false), (.fcmpCc .un true 4 3 6, true),
      (.fcmpCc .ne true 4 3 3, true), (.fcmpCc .ord true 4 6 6, true), (.fcmpCc .ge true 4 8 6, false)],
    puts e.1 floats = [(4, .pred 4 (BitVec.allOnes 512) (if e.2 then BitVec.allOnes 512 else 0))] := by decide +kernel

theorem test_branch : (ran (.br 3) regs).me.delay = some (some 0x10C) ∧ (ran (.brc 1 false 3) regs).me.delay = some none ∧
    (ran (.brc 1 true (-1)) regs).me.delay = some (some 0xFC) ∧ (ran (.jr 4) regs).me.delay = some (some 64) ∧
    (ran .ret regs).me.delay = some (some 0) ∧ puts (.call 3) regs = [(1, .link)] := by decide +kernel

/-- 06 R126's example: LOOP.rot 1, s8, 2 with s8 = 3 counts five iterations, three of them real. -/
theorem test_loop : (ran (.loop 1 8 true 2) (demoS [(8, 3)])).me.loop.count = [5] ∧
    (ran (.loop 1 8 true 2) (demoS [(8, 3)])).me.loop.real0 = 3 ∧ (puts (.loop 1 8 true 2) (demoS [(8, 3)])).length = 7 ∧
    (ran (.loopx 2 8 false 4) (demoS [(8, 3)])).me.loop.count = [4, 3] := by decide +kernel

def vint : State :=
  demoV [(31, joinLanes 8 [100, 0x8000000000000002, 7]), (32, joinLanes 8 [3, 64, 0x8000000000000000])] [(2, 0x01)] [(9, 3)]

/-- The old destination is all ones where p2, which governs element 0 alone, is the predicate. -/
theorem test_vector_integer : ∀ e ∈ [(Instr.vadds ⟨.i64, 30, 31, .imm (-5), 2, false⟩, [95, 0xFFFFFFFFFFFFFFFF, 0xFFFFFFFFFFFFFFFF]),
      (.vadds ⟨.i64, 30, 31, .imm (-5), 2, true⟩, [95, 0, 0]), (.vadds ⟨.i64, 30, 31, .imm (-5), 0, false⟩, [95, 0x8000000000000000, 2]),
      (.vadd ⟨.i64, 30, 31, .reg 32, 0, false⟩, [103, 0x8000000000000042, 0x8000000000000007]),
      (.vsub ⟨.n64, 30, 31, .reg 32, 0, false⟩, [97, 0x7FFFFFFFFFFFFFC2, 0x8000000000000007]),
      (.vmul ⟨.i64, 30, 31, .reg 32, 0, false⟩, [300, 0x80, 0x8000000000000000]),
      (.vmulh ⟨.i64, 30, 31, .reg 32, 0, false⟩, [0, 0xFFFFFFFFFFFFFFE0, 0xFFFFFFFFFFFFFFFC]), (.vmulh ⟨.n64, 30, 31, .reg 32, 0, false⟩, [0, 32, 3]),
      (.vmac ⟨.i64, 32, 31, .imm 2, 0, false⟩, [203, 68, 0x800000000000000E]), (.vmin ⟨.i64, 30, 31, .reg 32, 0, false⟩, [3, 0x8000000000000002, 0x8000000000000000]),
      (.vmax ⟨.n64, 30, 31, .reg 32, 0, false⟩, [100, 0x8000000000000002, 0x8000000000000000]), (.vand ⟨.n64, 30, 31, .imm 6, 0, false⟩, [4, 2, 6]),
      (.vor ⟨.n64, 30, 31, .reg 32, 0, false⟩, [103, 0x8000000000000042, 0x8000000000000007]), (.vxor ⟨.i64, 30, 31, .imm (-1), 0, false⟩, [0xFFFFFFFFFFFFFF9B, 0x7FFFFFFFFFFFFFFD, 0xFFFFFFFFFFFFFFF8]),
      (.vshl ⟨.i64, 30, 31, .reg 32, 0, false⟩, [800, 0, 0]), (.vshr ⟨.i64, 30, 31, .imm 63, 0, false⟩, [0, 1, 0]),
      (.vsar ⟨.i64, 30, 31, .reg 32, 0, false⟩, [12, 0xFFFFFFFFFFFFFFFF, 0]), (.vsubs ⟨.n64, 30, 31, .reg 32, 0, false⟩, [97, 0x7FFFFFFFFFFFFFC2, 0]),
      (.vavg ⟨.i64, 30, 31, .reg 32, 0, false⟩, [52, 0xC000000000000021, 0xC000000000000004])],
    laid 8 3 (BitVec.allOnes 4096) e.1 vint = pack 8 e.2 := by decide +kernel

theorem test_vector_unary : ∀ e ∈ [(Instr.vabs ⟨.i64, 30, 32, 0, false⟩, [3, 64, 0x8000000000000000]), (.vneg ⟨.i64, 30, 32, 0, false⟩, [0xFFFFFFFFFFFFFFFD, 0xFFFFFFFFFFFFFFC0, 0x8000000000000000]),
      (.vclz ⟨.i64, 30, 32, 0, false⟩, [62, 57, 0]), (.vpopc ⟨.n64, 30, 31, 0, false⟩, [3, 2, 3]), (.vmov ⟨.i64, 30, 31, 0, false⟩, [100, 0x8000000000000002, 7]),
      (.vbcast ⟨.i64, 30, 9, 0, false⟩, [3, 3, 3]), (.vsel ⟨.i64, 30, 31, 32, 2, 0, false⟩, [100, 64, 0x8000000000000000]),
      (.vzip ⟨.i64, 30, 31, 32, 0, 0, false⟩, [100, 3, 0x8000000000000002]), (.vunzip ⟨.i64, 30, 31, 32, 1, 0, false⟩, [0x8000000000000002, 0, 0]),
      (.vslide ⟨.i64, 30, 31, 9, 32, 0, false⟩, [0, 0, 0]), (.vperm ⟨.i64, 30, 31, 32, 0, 0, false⟩, [0, 0, 0]), (.vins .i64 30 9 0 2, [0xFFFFFFFFFFFFFFFF, 0xFFFFFFFFFFFFFFFF, 3])],
    laid 8 3 (BitVec.allOnes 4096) e.1 vint = pack 8 e.2 := by decide +kernel

theorem test_vector_extract : puts (.vext .i64 9 31 0 1) vint = [(3, .scalar 9 0x8000000000000002)] ∧ puts (.vext .i8 9 31 9 12) vint = [(3, .scalar 9 0xFFFFFFFFFFFFFF80)] ∧
    puts (.vext .n16 9 31 9 253) vint = [(3, .scalar 9 0)] := by decide +kernel

/-- The bits of a predicate result over an old value. -/
def held (n : Nat) (old : PReg) (i : Instr) (s : State) : List Bool :=
  match puts i s with
  | (_, .pred _ m v) :: _ => (List.range n).map (mergeBits old m v).getLsbD
  | _ => []

theorem test_vector_compare : (held 24 0 (.vcmpCc ⟨.i64, .lt, 4, 31, 32, 0, false⟩) vint).drop 7 = [false] ++ List.replicate 8 true ++ List.replicate 8 false ∧
    (held 24 0 (.vcmpCc ⟨.n64, .ltu, 4, 31, 32, 0, false⟩) vint).drop 7 = List.replicate 9 false ++ List.replicate 8 true ∧
    (held 24 (BitVec.allOnes 512) (.vcmpCc ⟨.i64, .eq, 4, 31, 32, 2, false⟩) vint).drop 7 = [false] ++ List.replicate 16 true := by
  decide +kernel

/-- 08's second example: VROT by 3, and VSHUF with pattern 0x1B under p5 with zeroing. -/
def perm : State := demoV [(7, joinLanes 4 ((List.range 128).map (· + 100)))] [(5, 1)] [(9, 3)]

theorem test_vector_rotate_shuffle :
    laid 4 126 0 (.vrot ⟨.i32, 8, 7, 9, 0, 0, false⟩) perm = pack 4 ((List.range 125).map (· + 103) ++ [100]) ∧
    laid 4 5 (BitVec.allOnes 4096) (.vshuf ⟨.i32, 9, 7, 5, true⟩ 0x1B) perm = 103 := by decide +kernel

def vflt : State :=
  demoV [(1, joinLanes 8 [0x4340000000000000, 0x3FF0000000000000, 0x3FF0000000000000, 0xC340000000000000]),
      (2, joinLanes 8 [0x3FF0000000000000, 0x4008000000000000, 0x8000000000000000, 0x7FF8050030000000]),
      (3, joinLanes 8 [0xFFF8020090000000, 0x8000000000002402])] [] []

/-- 2^53 + 1 ties to 2^53; 1 / -0 is -infinity; the NaN of layer 5 and step 3 goes through (07 R133, R144; 08 R161). -/
theorem test_vector_float : ∀ e ∈ [(Instr.vfadd ⟨.f64, 9, 1, 2, 0, 0, false⟩, [0x4340000000000000, 0x4010000000000000, 0x3FF0000000000000, 0x7FF8050030000000]),
      (.vfsub ⟨.f64, 9, 1, 2, 0, 0, false⟩, [0x433FFFFFFFFFFFFF, 0xC000000000000000, 0x3FF0000000000000, 0x7FF8050030000000]),
      (.vfmul ⟨.f64, 9, 1, 2, 0, 0, false⟩, [0x4340000000000000, 0x4008000000000000, 0x8000000000000000, 0x7FF8050030000000]),
      (.vfma ⟨.f64, 9, 2, 2, 1, 0, false⟩, [0x4340000000000000, 0x4024000000000000, 0x3FF0000000000000, 0x7FF8050030000000]),
      (.vfnma ⟨.f64, 9, 2, 1, 1, 0, false⟩, [0, 0xC000000000000000, 0x3FF0000000000000, 0x7FF8050030000000]),
      (.vfmin ⟨.f64, 9, 1, 2, 0, 0, false⟩, [0x3FF0000000000000, 0x3FF0000000000000, 0x8000000000000000, 0x7FF8050030000000]),
      (.vfmax ⟨.f64, 9, 1, 2, 0, 0, false⟩, [0x4340000000000000, 0x4008000000000000, 0x3FF0000000000000, 0x7FF8050030000000]),
      (.vfdiv ⟨.f64, 9, 1, 2, 0, 0, false⟩, [0x4340000000000000, 0x3FD5555555555555, 0xFFF0000000000000, 0x7FF8050030000000])],
    laid 8 4 0 e.1 vflt = pack 8 e.2 := by decide +kernel

theorem test_vector_float_unary : ∀ e ∈ [(Instr.vfabs ⟨.f64, 9, 2, 0, false⟩, [0x3FF0000000000000, 0x4008000000000000, 0, 0x7FF8050030000000]),
      (.vfneg ⟨.f64, 9, 2, 0, false⟩, [0xBFF0000000000000, 0xC008000000000000, 0, 0x7FF8050030000000]), (.vfclass ⟨.f64, 9, 2, 0, false⟩, [64, 64, 8, 512]),
      (.vfsqrt ⟨.f64, 9, 2, 0, false⟩, [0x3FF0000000000000, 0x3FFBB67AE8584CAA, 0x8000000000000000, 0x7FF8050030000000]),
      (.vfrcp ⟨.f64, 9, 2, 0, false⟩, [0x3FF0000000000000, 0x3FD5555555555555, 0xFFF0000000000000, 0x7FF8050030000000]),
      (.vfrsq ⟨.f64, 9, 2, 0, false⟩, [0x3FF0000000000000, 0x3FE279A74590331C, 0xFFF0000000000000, 0x7FF8050030000000]),
      (.vfexp2 ⟨.f64, 9, 2, 0, false⟩, [0x4000000000000000, 0x4020000000000000, 0x3FF0000000000000, 0x7FF8050030000000]),
      (.vflog2 ⟨.f64, 9, 1, 0, false⟩, [0x404A800000000000, 0, 0, 0x7FF8000000000000]),
      (.vfsinpi ⟨.f64, 9, 2, 0, false⟩, [0, 0, 0x8000000000000000, 0x7FF8050030000000]),
      (.vfcospi ⟨.f64, 9, 2, 0, false⟩, [0xBFF0000000000000, 0xBFF0000000000000, 0x3FF0000000000000, 0x7FF8050030000000]),
      (.vnanpay ⟨.f64, 9, 3, 0, false⟩, [0x8000000000002402, 0, 0, 0]), (.vnanmk ⟨.f64, 9, 3, 0, false⟩, [0x7FF8000000000000, 0x7FF8020090000000, 0x7FF8000000000000, 0x7FF8000000000000])],
    laid 8 4 0 e.1 vflt = pack 8 e.2 := by decide +kernel

/-- 09 R184's generator is reversible arithmetic on 32-bit words; the word of all zero inputs, calculated apart from its
definition here. -/
theorem test_bunting : bunting 0 0 0 0 = [0x0A5A0FE1, 0xC6E3AAA0, 0x752B3BA0, 0x2F443CC8] ∧ bunting 0x0123456789ABCDEF 7 0x100000005 9 = [0x83490289, 0xDCE1BD35, 0xD387DFCD, 0x647239A5] := by decide +kernel

/-! Matrix. -/

theorem test_mzero : ((ran (.mzero 2) (demo id)).me.tag 2, (ran (.mzero 2) (demo id)).me.busyC, (puts (.mzero 2) (demo id)).map (·.1)) = (3, 1, [14]) := by
  decide +kernel

/-- 10's example: tag FP32 and one re-execution read as 0x101. -/
theorem test_mstat : puts (.mstat 2 30) (demo (fun k => { k with atag := [(2, 1)], reex := 1 })) = [(1, .scalar 30 0x101)] := by decide +kernel

/-- 10 R190: FP32 with depth 64 takes 32 cycles in groups of 4, INT8 with depth 64 takes 4, and FP32 with BF16 is no pair. -/
theorem test_matrix_pairs : pairing 2 2 64 = some (1, 4, 32) ∧ pairing 5 6 64 = some (2, 0, 4) ∧ pairing 2 3 64 = none := by decide +kernel

/-! Loads, stores and atomics. -/

def word8 (a : Nat) (x : Nat) : Mem := Mem.writes [] a (leBytes 8 x)

def near : State :=
  demo (fun k => { k with
    s := [(4, 0xF000000000000000), (5, 256), (6, 0xF000000000020000), (7, 0x1122334455667788), (8, 0x10)],
    sp := Mem.writes (word8 0x10 0xFFFFFFFFFFFFFFFE) 0x20000 [1, 2, 3, 4] })

theorem test_near_load : puts (.ld ⟨9, 6, 0, 0, 0, 0, 2⟩) near = [(12, .scalar 9 0x04030201)] ∧
    puts (.ld ⟨9, 6, 0, 2, 0, 0, 1⟩) near = [(12, .scalar 9 0x0403)] ∧ puts (.ld ⟨9, 4, 8, 7, 0, 0, 0⟩) near = [(12, .scalar 9 0xFF)] := by
  decide +kernel

theorem test_near_store : puts (.st ⟨7, 4, 8, 4, 0, 0, 2⟩) near =
    [(12, .bytes 0 [(0x14, 0x88), (0x15, 0x77), (0x16, 0x66), (0x17, 0x55)])] := by decide +kernel

/-- 11's example: the column load of 4-byte elements 256 bytes apart meets bank 0 twice, so it lands 28 cycles after issue. -/
theorem test_near_column_load : (puts (.vlds ⟨20, 4, 5, 0, 0, 0, 2⟩) near).map (·.1) = [28] ∧ (puts (.vld ⟨21, 6, 0, 0, 0, 0, 2⟩) near).map (·.1) = [12] := by
  decide +kernel

theorem test_misaligned : (ran (.ld ⟨9, 4, 0, 3, 0, 0, 2⟩) near).me.shadow.map (fun h => ((Tab.get 0 h.h 0), Tab.get 0 h.h 2)) =
    some (0x00040208, 0xF000000000000003) := by decide +kernel

theorem test_atomic_issues : puts (.aadd ⟨5, 4, 8, 0, 0, .gang⟩) near = [(12, .atom (some 5) 0x10 .add 256 0x10 0x7FF8000000000000)] ∧
    puts (.amaxNr ⟨5, 4, 8, 0, 0, .gang⟩) near = [(12, .atom none 0x10 .max 256 0x10 0x7FF8000000000000)] := by decide +kernel

theorem test_atomic_values : ∀ e ∈ [(AtomOp.add, (0xFE : Word)), (.min, 0xFFFFFFFFFFFFFFFE), (.max, 256), (.and, 256), (.or, 0xFFFFFFFFFFFFFFFE),
      (.xor, 0xFFFFFFFFFFFFFEFE), (.swap, 256), (.cas, 0xFFFFFFFFFFFFFFFE)], (atomNew e.1 0xFFFFFFFFFFFFFFFE 256 0 0).1 = e.2 := by decide +kernel

theorem test_afadd_overflows : atomNew .fadd 0x7FEFFFFFFFFFFFFF 0x7FEFFFFFFFFFFFFF 0 0 = (0x7FF0000000000000, true) := by decide +kernel

def queued : State := demo (fun k => { k with lq := [(2, [7, 8])], v := [], s := [(1, 5)] })

theorem test_link_queue : puts (.lqpop false 9 2) queued = [(2, .scalar 9 7)] ∧ Tab.get [] (ran (.lqpop false 9 2) queued).me.lq 2 = [8] ∧
    Tab.get 512 (ran (.lqpsh false 1 2) { queued with links := [(2, { Link.reset with state := .active })] }).me.credits 2 = 511 := by decide +kernel

/-! The K slot. -/

def kregs : State := demo (fun k => { k with
  p := [(1, 0b1100), (2, 0b1010)], s := [(3, 3), (20, 0xF000000000000100), (21, 1), (5, 0x40600000)], ccCount := 40, layer := 5 })

theorem test_predicates : ∀ e ∈ [(Instr.pand 3 1 2, (8 : PReg)), (.por 3 1 2, 14), (.pxor 3 1 2, 6), (.pset 3 3 1, 0x3F), (.pset 3 0 0, 0)],
    puts e.1 kregs = [(1, .pred 3 (BitVec.allOnes 512) e.2)] := by decide +kernel

theorem test_pnot : puts (.pnot 3 0) kregs = [(1, .pred 3 (BitVec.allOnes 512) 0)] := by decide +kernel

theorem test_sysrd : ∀ e ∈ [(0, (0 : Word)), (1, 0), (2, 1), (4, 0), (5, 1), (8, 5), (0x10, 40), (0x1C, 0)],
    puts (.sysrd 9 e.1) kregs = [(1, .scalar 9 e.2)] := by decide +kernel

/-- 15's example: BINIT applies at once: EXPECT 4096, ARRIVED and PHASE 0 (15 R294: the count in bits [47:0] of word 0). -/
theorem test_binit : ((ran (.binit 20 (.const 4096)) kregs).bar ⟨0, 0x100⟩).expect = 4096 ∧
    ((ran (.binit 20 (.const 4096)) kregs).bar ⟨0, 0x100⟩).phase = 0 := by decide +kernel

def armed : State := { (ran (.binit 20 (.const 4096)) kregs) with turns := [] }

theorem test_bexpect_barrive : ((ran (.bexpect 20 (.const 96)) armed).bar ⟨0, 0x100⟩).expect = 4192 ∧
    ((ran (.barrive 20 (.const 4000)) armed).bar ⟨0, 0x100⟩).arrived = 4000 ∧ ((ran (.barrive 20 (.const 8193)) armed).bar ⟨0, 0x100⟩).phase = 2 ∧
    ((ran (.barrive 20 (.const 8193)) armed).bar ⟨0, 0x100⟩).arrived = 1 := by decide +kernel

/-- 15's example: the token is the phase to come, and the distance of phase 0 from token 1 has not passed. -/
theorem test_bwait : (ran (.bwait 22 20 21) armed).me.land.map (fun a => (a.kind, a.landAt)) = [(.bwait ⟨0, 0x100⟩ 1, some 1)] ∧
    (ran (.bwait 22 20 21) armed).barPassed ⟨0, 0x100⟩ 1 = false ∧ (ran (.btoken 21 20) armed).me.land.map (·.kind) = [.btoken ⟨0, 0x100⟩] := by
  decide +kernel

theorem test_fences : (ran (.fence 3 1) kregs).me.fences = [⟨0, 0, 0, 3, 1⟩] ∧ (ran (.fencex 0 1) kregs).me.fences = [⟨0, 0, 1, 7, 7⟩] := by
  decide +kernel

theorem test_layer_trap_end : (ran (.layer 1023) kregs).me.layer = 1023 ∧ (ran (.trap 9) kregs).me.trap = some 9 ∧ (ran .endTask kregs).me.ended = true := by
  decide +kernel

/-- 12's example: SHW with mask 0x93 takes words 0, 1, 4 and 7 from s8, s9, s12 and s15. -/
theorem test_shw_ttw : puts (.shw .a 2 8 0x93) (demoS [(8, 127), (9, 64 <<< 32), (12, 4096 <<< 32), (15, 63 <<< 32)]) =
      [(3, .shape .a 2 (BitVec.ofNat 512 ((2 ^ 128 - 1) + (2 ^ 64 - 1) * 2 ^ 256 + (2 ^ 52 - 1) * 2 ^ 448))
        (BitVec.ofNat 512 (127 + 64 * 2 ^ 96 + 4096 * 2 ^ 288 + 63 * 2 ^ 480)))] ∧
    (puts (.ttw 255 3 1) kregs).map (·.1) = [3] := by decide +kernel

theorem test_shr_ttr : puts (.kShr 9 .b 1 2) (demo (fun k => { k with shB := [(1, 7 * 2 ^ 128)] })) = [(1, .scalar 9 7)] ∧
    puts (.kShr 9 .a 0 9) (demo (fun k => { k with engA := { Engine.idle with failAddr := 3 } })) = [(1, .scalar 9 3)] ∧
    puts (.ttr 9 1 7) (demo (fun k => { k with tt := [(1, 5 * 2 ^ 448)] })) = [(1, .scalar 9 5)] := by decide +kernel

/-! The step group. -/

/-- 20's example: the loss 3.5 does not lie below the threshold 3.0, so LOSS and the predicate are written; 2.5 lies below. -/
def graded (t : BitVec 32) : State := { kregs with scb := { Scb.reset with threshold := t, cursor := [(0, 10)], seq := [(3, 0xFFFFFFFF)], step := 7 } }

theorem test_losschk : puts (.losschk 2 5) (graded 0x40400000) = [(1, .pred 2 (BitVec.allOnes 512) (BitVec.allOnes 512)), (1, .pennon 2)] ∧
    puts (.losschk 2 5) (graded 0x40800000) = [(1, .pred 2 (BitVec.allOnes 512) 0)] ∧
    puts (.losschk 2 5) (graded 0x40600000) = [(1, .pred 2 (BitVec.allOnes 512) (BitVec.allOnes 512)), (1, .pennon 2)] := by decide +kernel

theorem test_step_context : puts (.steprd 8 25) (graded 0) = [(1, .scalar 8 7)] ∧ puts (.steprd 8 28) (graded 0) = [(1, .scalar 8 2)] ∧
    puts (.curadv 4 0 3) (graded 0) = [(1, .scalar 4 10)] ∧ Tab.get 0 (ran (.curadv 4 0 3) (graded 0)).scb.cursor 0 = 13 ∧
    puts (.seqnext 7 3) (graded 0) = [(1, .scalar 7 0xFFFFFFFF)] ∧ Tab.get 0 (ran (.seqnext 7 3) (graded 0)).scb.seq 3 = 0 ∧
    Tab.get 0 (ran (.stepwr 1 3) (graded 0)).scb.cursor 0 = 3 := by decide +kernel

theorem test_pennon_stepend : puts (.pennon 3 false) kregs = [(1, .pennon 0x300)] ∧ puts (.pennon 0 true) kregs = [(1, .pennon 1)] ∧
    puts .stepend kregs = [(1, .stepend)] := by decide +kernel

/-- 20's example: the root with children 1 and 2, size 3 and the merged word 2 decides ABORT, logs it, and restores the SCB. -/
def root : State :=
  { State.reset with
    stepState := 3, attempt := 42, voteReady := true, childVotes := [⟨1, 2, 1⟩, ⟨2, 0, 1⟩], scb := { Scb.reset with seed := 9 },
    tree := BitVec.ofNat 256 (2 ^ 16 + 2 * 2 ^ 18 + 1 * 2 ^ 32 + 2 * 2 ^ 48 + 3 * 2 ^ 144 + 0x32 * 2 ^ 176) }

theorem test_root_decides : (ran .stepVote root).stepState = 7 ∧ (ran .stepVote root).mergedWord = 2 ∧ (ran .stepVote root).scb.seed = 0 ∧
    Tab.find (ran .stepVote root).verdictLog 42 = some ⟨42, false, 2⟩ := by decide +kernel

/-! Exceptions. -/

/-- 18's example: h0 is 0x00840303 for PAGE_ABSENT of a load, h2 its address and h3 its IPA. -/
theorem test_exception_record :
    let f : FaultRec := { code := 0x0303, slot := 4, data := true, addr := 0x1000, ipa := 0x244100040, access := some 0 }
    ((kregs.takeFault 0 f).me.shadow.map (fun h => [Tab.get 0 h.h 0, Tab.get 0 h.h 1, Tab.get 0 h.h 2, Tab.get 0 h.h 3])) =
      some [0x00840303, 0x100, 0x1000, 0x244100040] ∧ (kregs.takeFault 0 f).ownWord = 16 := by decide +kernel

def handling : State :=
  demo (fun k => { k with
    s := [(5, 0x77)], shadow := some ⟨[(1, 0x100), (3, 0x40)], [], 0, false, none, 0, [], [], { code := 0x0303 }, none⟩ })

theorem test_handler : ((ran (.hrd 4 5) handling).me.shadow.map (fun h => h.pend.map (·.eff))) = some [.scalar 4 0x77] ∧
    Tab.get 0 (ran (.hwr 5 1) handling).me.s 5 = 0x100 ∧ (ran .eret handling).me.shadow = none ∧
    (ran (.hpage 4 3 0) handling).me.shadow.map (fun h => h.pend.map (·.eff)) = some [.scalar 4 2] := by decide +kernel

theorem test_illegal : (ran .eret kregs).me.shadow.map (fun h => Tab.get 0 h.h 0) = some 0x00080103 ∧
    (ran (.illBundle true 0) kregs).me.shadow.map (fun h => Tab.get 0 h.h 0) = some 0x000F0102 := by decide +kernel

/-! Near-memory units: one lane operation each, read in lane 0. -/

def unitRun : NmRun :=
  { core := 0, id := 3, prog := [], block := 0, bar := none, layer := 0, stepNo := 0, step := true, started := true, stopped := false,
    streams := [⟨true, true, 0x1000, 0x10000⟩], rows := 2, params := [0x3F800000, 0x40000000], reach := [], since := 0, fault := none }

def lanesAt (a b c : Nat) : State :=
  { State.reset with
    runs := [(3, unitRun)], units := [(0, { q := [(1, BitVec.ofNat 4096 a), (2, BitVec.ofNat 4096 b), (3, BitVec.ofNat 4096 c)], run := some 3, row := 0, idx := 4, queue := [], part := [], undo := [] })] }

/-- Lane 0 of q4 and the index after a microinstruction. -/
def lane0 (i : Instr) (s : State) : Nat × Nat :=
  let u := (ran i s).unit 0
  (lane 4 (Tab.get 0 u.q 4) 0, u.idx)

theorem test_nm_lanes : ∀ e ∈ [(Instr.nadd ⟨4, 1, 2, 0, false⟩, 0x40800000), (.nadd ⟨4, 1, 2, 0, true⟩, 0x7FC00000), (.nsub ⟨4, 1, 2, 0, false⟩, 0xC0000000),
      (.nmul ⟨4, 1, 2, 0, false⟩, 0x40400000), (.nfma ⟨4, 1, 2, 3, false⟩, 0x3F800000), (.ndiv ⟨4, 1, 2, 0, false⟩, 0x3EAAAAAB),
      (.nsqrt ⟨4, 2, 0, 0, false⟩, 0x3FDDB3D7), (.nrsq ⟨4, 2, 0, 0, false⟩, 0x3F13CD3A), (.nmax ⟨4, 1, 3, 0, true⟩, 0x3F800000),
      (.nmin ⟨4, 1, 3, 0, true⟩, 0xC0000000), (.nabs ⟨4, 3, 0, 0, true⟩, 0x40000000), (.nabs ⟨4, 3, 0, 0, false⟩, 0x40000000),
      (.ncmp ⟨4, 3, 1, 0, true⟩ .lt, 0xFFFFFFFF), (.ncmp ⟨4, 3, 1, 0, true⟩ .ltu, 0), (.nsel ⟨4, 1, 2, 3, false⟩, 0x40400000),
      (.nclamp ⟨4, 3, 1, 2, false⟩, 0x3F800000), (.ncvt 0 4 2, 0x40400000), (.ncvt 1 4 2, 3), (.ncvt 2 4 3, 0xCE800000), (.nparam 4 1, 0x40000000)],
    lane0 e.1 (lanesAt 0x3F800000 0x40400000 0xC0000000) = (e.2, 5) := by decide +kernel

/-- Rows 0 and 1 of a stream lie in different units, so NLOOP on the only row goes on and NEND ends the run. -/
theorem test_nm_control : ((ran (.nloop 1) (lanesAt 0 0 0)).unit 0).idx = 5 ∧ ((ran .nend (lanesAt 0 0 0)).unit 0).run = none := by
  decide +kernel

/-! Memory and versions. -/

/-- 13's example: committed slot 1 of attempt 40, slot 0 of the struck attempt 41, attempt 42 open. The write goes to slot 0
with tag 42, step tasks read it, outside readers read slot 1, and the commit shows it to all. -/
def versions : State :=
  { State.reset with
    stepState := 2, attempt := 42, last := 42, commitBits := BitVec.ofNat 4096 (2 ^ 40), mem0 := Mem.writes [] 0x2468 [0x99, 0x98],
    mem1 := Mem.writes [] 0x2468 [0x11, 0x12], slotMeta := [(0x24, 0x029 * 4 + 1), (0x25, 0x028 * 4 + 1)] }

def written : State := versions.wrBytes true true none 0x2468 [0x22]

theorem test_versions : versions.rdBytes true true 0x2468 2 = [0x11, 0x12] ∧ written.rdBytes true true 0x2468 2 = [0x22, 0x12] ∧
    written.rdBytes true false 0x2468 2 = [0x11, 0x12] ∧ written.slotMd 0x12 0 = 0x02A * 4 + 1 ∧ written.slotMd 0x12 1 = 0x028 * 4 + 1 ∧
    { written with commitBits := BitVec.ofNat 4096 (2 ^ 40 + 2 ^ 42) }.rdBytes true false 0x2468 2 = [0x22, 0x12] := by decide +kernel

/-- 13's example: IPA 0x312002400 has its home at A0 and lies in near-memory unit 53. -/
theorem test_home : homeDie 0x312002400 = 0 ∧ nmuOf 0x312002400 = 53 := by decide +kernel

/-! The host. -/

def sess : Session :=
  { id := 1, keys := [], txSeq := 0, attested := true, highest := 3, seen := [3], replies := [], lastAt := 0, evNum := 0, unacked := [], mask := 0, period := 0 }

def head : FrameHead := { session := 1, seq := 4, reqId := 9, ack := 0, mgmt := false, tagOk := true, headOk := true, payloadOk := true }

def hosted : State := { State.reset with session := some sess, stepState := 1, attempt := 42, last := 42 }

/-- Code and status of the last reply. -/
def answered (i : Instr) (s : State) : Option (Nat × Nat × Nat) :=
  match (ran i s).out.getLast? with
  | some (.reply _ _ r _ c st _ _) => some (r, c, st)
  | _ => none

theorem test_veto : answered (.veto head 42 7) hosted = some (9, 0x09, 0) ∧ (ran (.veto head 42 7) hosted).ownWord = 0x701 ∧
    answered (.veto head 41 7) hosted = some (9, 0x09, 0x08) ∧ answered (.veto { head with seq := 3 } 42 7) hosted = none := by decide +kernel

theorem test_settings : answered (.powerSet head 0x03200FA0) hosted = some (9, 0x47, 0) ∧ answered (.powerSet head 0x03210FA0) hosted = some (9, 0x47, 1) ∧
    answered (.carveSet head 0 13) hosted = some (9, 0x41, 1) ∧ answered (.schedSet head 0x100) hosted = some (9, 0x40, 0) ∧
    answered (.fabricSet head 0 0) hosted = some (9, 0x44, 0x07) := by decide +kernel

theorem test_not_attested : answered (.powerSet head 0x03200FA0) { hosted with session := some { sess with attested := false } } = some (9, 0x47, 2) := by
  decide +kernel

theorem test_step_close_open : answered (.stepClose head 42) hosted = some (9, 0x07, 0x0A) ∧ answered (.launch head 0 0) hosted = some (9, 0x05, 4) ∧
    answered (.kill head 1 0) hosted = some (9, 0x0D, 4) := by decide +kernel

/-! Links and power. -/

/-- 17 R329: lane 3 alone leaves the group 1 of the half width; lanes 0, 4, 8 and 12 leave no group of four. -/
theorem test_lane_groups : laneGroup 0 = some (0, 0) ∧ laneGroup 0x0008 = some (1, 1) ∧ laneGroup 0x0101 = some (2, 1) ∧ laneGroup 0x1111 = none := by
  decide +kernel

theorem test_power_step : (ran (.powerManagerTick 4000001 [1, 5, 2, 2]) { State.reset with time := 100000 }).clockOf 1 = 1575 ∧
    (ran (.powerManagerTick 4000000 [1, 5, 2, 2]) { State.reset with time := 100000 }).clockOf 1 = 1600 := by decide +kernel

theorem test_thermal : (ran (.thermalHold 2 105000) State.reset).thermalHold = [2] ∧ (ran (.thermalHold 2 105000) State.reset).clockOf 2 = 800 ∧
    (ran (.thermalRelease 2 99999) (ran (.thermalHold 2 105000) State.reset)).thermalHold = [] := by decide +kernel

/-! A step fetches, decodes and runs the word that stands at the pc. -/

theorem test_step_fetches : (match step (State.reset.withFetchWord 64 0x2A0400F0D8000000) with
    | .next t => (t.core 0).pend.map (·.eff)
    | _ => []) = [.scalar 1 240] := by decide +kernel

theorem test_step_idle : (match step State.reset with
    | .next t => t.session
    | _ => some sess) = none := by decide +kernel

theorem test_decode_table : (decodeTableWord 32 0xD0000000).isSome = true ∧ (decodeTableWord 64 0x2A0400F0D8000000).isSome = true ∧ (decodeTableWord 32 0x2A0400F0).isSome = false := by decide +kernel

/-- A NaN keeps its sign and is quieted by NABS (16 R314, 08 R163). -/
theorem test_nabs_nan : lane0 (.nabs ⟨4, 3, 0, 0, false⟩) (lanesAt 0 0 0xFF802009) = (0xFFC02009, 5) := by decide +kernel

/-! Conversions, tensor formats, reductions and draws. -/

/-- 07's example: entry t5, blocks of 16 in the format s 1, e 2, m 1, bias 1; and a second entry, BF16 without blocks. -/
def t5 : Wide := BitVec.ofNat 512 (0x1000 + 0x00101150 * 2 ^ 64 + 32 * 2 ^ 96 + 2 ^ 128 + 2 ^ 160 + 2 ^ 192 + 0x1040 * 2 ^ 352)

def narrows : State :=
  demo (fun k => { k with
    tt := [(5, t5)], p := [(1, 2 ^ 128 - 1)],
    v := [(1, joinLanes 4 ([0x41400000, 0xC0A00000, 0x3F333333, 0x3E99999A] ++ List.replicate 12 0 ++ [0x40E00000, 0x7FC05003])),
      (2, BitVec.ofNat 4096 (0x01C7 + 0xFF80 * 256 ^ 480))] })

/-- The codes C7, 01, the scales 80 and FF, ORIGIN 0x7FC05003, and OVF. -/
theorem test_narrow : (laid 1 482 0 (.vnarrowT ⟨.f32, 3, 1, 0, 5, 1, false⟩) narrows) = 0x01C7 + 0xFF80 * 256 ^ 480 ∧
    ((puts (.vnarrowT ⟨.f32, 3, 1, 0, 5, 1, false⟩) narrows).drop 1).map (fun e => (e.1, match e.2 with | .origin 5 v => v.toNat | .pennon b => b.toNat | _ => 0)) =
      [(4, 0x7FC05003), (4, 4)] := by decide +kernel

/-- The later widening: 12, -4, 1 and 0; a block with scale FF gives a NaN created here. -/
theorem test_widen : laid 8 17 0 (.vwidenT ⟨.f64, 3, 2, 0, 5, 0, false⟩) narrows =
    pack 8 ([0x4028000000000000, 0xC010000000000000, 0x3FF0000000000000] ++ List.replicate 13 0 ++ [0x7FF8000000000000]) := by decide +kernel

/-- FP32 does not hold 6 × 2^127, so the widening to it is TT_INVALID (09 R176). -/
theorem test_widen_invalid : (ran (.vwidenT ⟨.f32, 3, 2, 0, 5, 0, false⟩) narrows).me.shadow.map (fun h => h.taken.code) = some 0x0201 := by
  decide +kernel

def mixed : State :=
  demoV [(1, joinLanes 4 [0x3FC00000, 0xBFC00000, 0x4F000000, 0x7F800000]), (2, joinLanes 8 [5, 0xFFFFFFFFFFFFFFFE, 0x8000000000000000]),
    (3, joinLanes 8 [0x4340000000000000, 0x3FF0000000000000, 0x3FF0000000000000, 0xC340000000000000])] [(1, 0x010101), (2, 0x01010101)] [(1, 3), (2, 5), (3, 7 + 2 ^ 55)]

/-- 1.5 and -1.5 tie to 2 and -2, 2^31 saturates, and infinity saturates and counts as a narrowing that meets one. -/
theorem test_convert : laid 4 4 0 (.vcvt ⟨.i32, .f32, 9, 1, 0, false, 0, false⟩) mixed = pack 4 [2, 0xFFFFFFFE, 0x7FFFFFFF, 0x7FFFFFFF] ∧
    laid 4 4 0 (.vcvt ⟨.i32, .f32, 9, 1, 0, true, 0, false⟩) mixed = pack 4 [1, 0xFFFFFFFF, 0x7FFFFFFF, 0x7FFFFFFF] := by decide +kernel

theorem test_reductions : laid 8 2 (BitVec.allOnes 4096) (.vrsum ⟨.i64, 9, 2, 1, false⟩) mixed = 0x8000000000000003 ∧
    laid 8 2 0 (.vrmax ⟨.i64, 9, 2, 1, false⟩) mixed = 5 ∧ laid 8 2 0 (.vrmin ⟨.n64, 9, 2, 1, false⟩) mixed = 5 ∧
    laid 8 2 0 (.vrmax ⟨.n64, 9, 2, 1, false⟩) mixed = 0xFFFFFFFFFFFFFFFE := by decide +kernel

/-- 09's example in FP64: the sum of 2^53, 1, 1 and -2^53 along the tree is 1, and the largest is 2^53. -/
theorem test_float_reductions : laid 8 2 (BitVec.allOnes 4096) (.vfrsum ⟨.f64, 9, 3, 2, false⟩) mixed = 0x3FF0000000000000 ∧
    laid 8 2 0 (.vfrmax ⟨.f64, 9, 3, 2, false⟩) mixed = 0x4340000000000000 := by decide +kernel

/-- VRNGU's element 1 is bits [31:8] of word 0 of the draw at index base + 1, times 2^-24. -/
theorem test_draw : laid 4 2 0 (.vrngu ⟨.f32, 9, 1, 2, 3, 0, false⟩) mixed / 2 ^ 32 =
    (roundArith fmt32 .rne ⟨((bunting 0 7 4 5).getD 0 0 / 256 : Nat), 1, -24, false⟩).1 := by decide +kernel

/-! Copies, near-memory runs and collectives as they issue. -/

def shape1 : Wide := BitVec.ofNat 512 (63 * 2 ^ 480)
def entry (base : Nat) : Wide := BitVec.ofNat 512 (base + 6 * 2 ^ 64 + 4096 * 2 ^ 96 + 2 ^ 128 + 2 ^ 160 + 2 ^ 192)

def copies : State :=
  demo (fun k => { k with shA := [(2, shape1)], tt := [(6, entry 0x1000), (7, entry 0x4000)], sp := Mem.writes [] 0x1000 [1, 2, 3] })

/-- One piece of 64 bytes inside the scratchpad: it joins engine A's queue, its write span enters the scoreboard. -/
theorem test_copy : ((ran (.copy ⟨.a, 2, 6, 7, 0⟩) copies).me.engA.queue.map (·.form)) = [.copy] ∧
    (ran (.copy ⟨.a, 2, 6, 7, 0⟩) copies).me.engA.next = 1 ∧
    (ran (.copy ⟨.a, 2, 6, 7, 0⟩) copies).me.score.any (fun x => x.write && x.lo == 0x4000 && x.hi == 0x4040) = true := by decide +kernel

theorem test_copy_moves : ((ran (.copyRetire 0 .a) (ran (.copy ⟨.a, 2, 6, 7, 0⟩) copies)).core 0).sp.reads 0x4000 4 = [1, 2, 3, 0] ∧
    ((ran (.copyRetire 0 .a) (ran (.copy ⟨.a, 2, 6, 7, 0⟩) copies)).core 0).engA.queue.length = 0 := by decide +kernel

def commOf : State := { kregs with comms := [(2, 0x100000020)] }

theorem test_coll : (ran (.coll 20 0 2) commOf).me.colls.map (fun x => (x.comm, x.n, x.desc)) = [(2, 0, 0xF000000000000100)] ∧
    Tab.get 0 (ran (.coll 20 0 2) commOf).scb.seq 2 = 1 := by decide +kernel

/-- Two four-bit elements of a drain that share a byte both land (10 R203). -/
theorem test_shared_byte : mergeCells [] [(5, 0x0F, 0x03), (5, 0xF0, 0x70)] = [(5, 0x73)] := by decide +kernel

/-- A byte that a copy has written before is undefined when it writes it again (12 R235): it takes a free value. -/
theorem test_written_twice :
    (let s := copies
     let q : Copy := { id := 1, num := 0, form := .copy, sh := 0, tS := 0, tD := 0, tA := 0, step := false, layer := 0, stepNo := 0,
                       bar := none, seed := 0, next := 0, early := [], emitted := 0, flight := [], asked := [], idx := [], dstT := 0,
                       outst := [], wrote := spanAdd 4 4 (spanAdd 0 4 []), origin := none, failed := false }
     q.wrote = [(0, 8)] ∧ s.freshen q [(0, 7, 2)] [1, 2] = [Config.freeByte 0, 2] ∧ s.freshen q [(0, 8, 2)] [1, 2] = [1, 2]) := by
  refine ⟨?_, ?_, ?_⟩ <;> rfl

/-! Witnesses: for every statement with hypotheses, a concrete state and operands that meet them all. -/

theorem issues_of (s : State) (sl : Slot) (i : Instr)
    (h : (decide (s.cur ≤ 255) && !ctxBad s.me i && (s.operandFault s.cur sl i).isNone && (s.waitCause s.cur (entriesOf s.me i) i).isNone) = true) :
    s.issues sl i := by
  simp only [Bool.and_eq_true, decide_eq_true_eq, Bool.not_eq_true', Option.isNone_iff_eq_none] at h
  exact ⟨h.1.1.1, h.1.1.2, h.1.2, h.2⟩

/-- Whether a syllable issues, as a test. -/
def goesOut (s : State) (sl : Slot) (i : Instr) : Bool :=
  decide (s.cur ≤ 255) && !ctxBad s.me i && (s.operandFault s.cur sl i).isNone && (s.waitCause s.cur (entriesOf s.me i) i).isNone

theorem issues_all (s : State) (sl : Slot) (l : List Instr) (h : l.all (goesOut s sl) = true) : ∀ i ∈ l, s.issues sl i :=
  fun i hi => issues_of s sl i (List.all_eq_true.mp h i hi)

theorem witness_ScalarIntegerResults : ∀ i ∈ [Instr.add 0 1 2, .sub 9 1 2, .mul 9 1 2, .mulh 9 1 2, .mulhu 9 1 2, .div 9 2 1, .divu 9 1 0, .rem 9 1 0,
    .remu 9 1 2, .and 9 1 2, .or 9 1 2, .xor 9 1 2, .shl 9 1 2, .shr 9 1 2, .sar 9 1 2, .min 9 1 2, .max 9 1 2, .minu 9 1 2, .maxu 9 1 2, .clz 9 0,
    .popc 9 1, .addi 9 1 (-2048), .andi 9 1 2047, .ori 9 1 0, .xori 9 1 0, .shli 9 1 63, .shri 9 1 0, .sari 9 1 63, .li 9 131071, .lih 9 262143],
    regs.issues .s i := issues_all _ _ _ (by decide +kernel)

theorem witness_ScalarComparesAndMoves : ∀ i ∈ [Instr.cmpCc .gtu 0 1 2, .cmpiCc .eq 4 1 (-1), .sel 9 1 2 31, .movj 9 5, .movp 9 31],
    regs.issues .s i := issues_all _ _ _ (by decide +kernel)

theorem witness_VectorIntegerResults : ∀ i ∈ [Instr.vadd ⟨.i64, 9, 31, .reg 32, 0, false⟩, .vsub ⟨.i8, 9, 31, .imm (-1024), 2, true⟩,
    .vmul ⟨.n8, 9, 31, .reg 32, 0, false⟩, .vmulh ⟨.i16, 9, 31, .reg 32, 0, false⟩, .vmac ⟨.n16, 9, 31, .reg 32, 0, false⟩, .vmin ⟨.i32, 9, 31, .reg 32, 0, false⟩,
    .vmax ⟨.n32, 9, 31, .reg 32, 0, false⟩, .vand ⟨.n64, 9, 31, .reg 32, 0, false⟩, .vor ⟨.i64, 9, 31, .reg 32, 0, false⟩, .vxor ⟨.i64, 9, 31, .reg 32, 0, false⟩,
    .vshl ⟨.i64, 9, 31, .reg 32, 0, false⟩, .vshr ⟨.i64, 9, 31, .reg 32, 0, false⟩, .vsar ⟨.i64, 9, 31, .imm 63, 0, false⟩, .vadds ⟨.i8, 9, 31, .imm 1023, 0, false⟩,
    .vsubs ⟨.n64, 9, 31, .reg 32, 0, false⟩, .vavg ⟨.i64, 1535, 1024, .reg 32, 31, false⟩, .vabs ⟨.i8, 9, 31, 0, false⟩, .vneg ⟨.n64, 9, 31, 0, false⟩,
    .vclz ⟨.i8, 9, 31, 0, false⟩, .vpopc ⟨.i8, 9, 31, 0, false⟩, .vfabs ⟨.f16, 9, 31, 0, false⟩, .vfneg ⟨.bf16, 9, 31, 0, false⟩, .vfclass ⟨.f64, 9, 31, 0, false⟩,
    .vmov ⟨.f32, 9, 31, 0, false⟩, .vnanpay ⟨.f32, 9, 31, 0, false⟩, .vnanmk ⟨.f16, 9, 31, 0, false⟩], vint.issues .va i := issues_all _ _ _ (by decide +kernel)

theorem witness_VectorCompareSelectResults : (Cond.ord ∈ [Cond.eq, .ne, .lt, .ge, .le, .gt, .un, .ord]) ∧
    ∀ i ∈ [Instr.vcmpCc ⟨.i64, .gtu, 4, 31, 32, 2, true⟩, .vfcmpCc ⟨.f64, .ord, 4, 31, 32, 0, false⟩, .vsel ⟨.i64, 9, 31, 32, 2, 0, false⟩], vint.issues .va i :=
  ⟨by decide, issues_all _ _ _ (by decide +kernel)⟩

theorem witness_VectorFloatResults : ∀ i ∈ [Instr.vfadd ⟨.f64, 9, 1, 2, 0, 0, false⟩, .vfsub ⟨.f32, 9, 1, 2, 0, 0, false⟩, .vfmul ⟨.f16, 9, 1, 2, 0, 0, false⟩,
    .vfma ⟨.bf16, 9, 1, 2, 3, 0, false⟩, .vfnma ⟨.f64, 9, 1, 2, 3, 0, false⟩, .vfdiv ⟨.f64, 9, 1, 2, 0, 0, false⟩, .vfsqrt ⟨.f64, 9, 1, 0, false⟩, .vfrcp ⟨.f64, 9, 1, 0, false⟩,
    .vfrsq ⟨.f64, 9, 1, 0, false⟩, .vfexp2 ⟨.f64, 9, 1, 0, false⟩, .vflog2 ⟨.f64, 9, 1, 0, false⟩, .vfsinpi ⟨.f64, 9, 1, 0, false⟩, .vfcospi ⟨.f64, 9, 1, 0, false⟩,
    .vfmin ⟨.f64, 9, 1, 2, 0, 0, false⟩, .vfmax ⟨.f64, 9, 1, 2, 0, 0, false⟩], vflt.issues .va i := issues_all _ _ _ (by decide +kernel)

/-- s9 holds 3: with the immediate 61 the index is the first past a register of 64 elements, with 60 the last within it. -/
theorem witness_VectorPermuteResults : (512 / ETy.i64.width ≤ (vint.me.sc 9).toNat + 61 ∧ (vint.me.sc 9).toNat + 60 < 512 / ETy.i64.width) ∧
    ∀ i ∈ [Instr.vperm ⟨.i8, 9, 31, 32, 0, 0, false⟩, .vrot ⟨.i64, 9, 31, 9, 0, 0, false⟩, .vslide ⟨.i64, 9, 31, 9, 32, 0, false⟩, .vzip ⟨.i64, 9, 31, 32, 1, 0, false⟩,
      .vunzip ⟨.i64, 9, 31, 32, 0, 0, false⟩, .vbcast ⟨.i64, 9, 9, 0, false⟩, .vshuf ⟨.i64, 9, 31, 0, true⟩ 0xFF, .vext .i64 9 31 9 61, .vext .i64 9 31 9 60,
      .vins .i64 9 9 9 61, .vins .i64 9 9 9 60], vint.issues .va i := ⟨by decide +kernel, issues_all _ _ _ (by decide +kernel)⟩

theorem witness_ConversionResults : mixed.issues .va (.vcvt ⟨.i32, .f32, 9, 1, 0, true, 0, false⟩) ∧ mixed.issues .va (.vcvt ⟨.f64, .f32, 9, 1, 1, false, 0, false⟩) ∧
    mixed.issues .s (.fcvt .i32 .f32 9 1) := ⟨issues_of _ _ _ (by decide +kernel), issues_of _ _ _ (by decide +kernel), issues_of _ _ _ (by decide +kernel)⟩

/-- The largest code of each source: an integer, a NaN, an infinity and a finite value. -/
theorem witness_ConversionValues : (2 ^ 64 - 1 < 2 ^ (8 * ETy.n64.width) ∧ ETy.n64.isInt = true ∧ ETy.i8.isInt = true ∧ ETy.i8 ≠ ETy.n64) ∧
    (2 ^ 32 - 1 < 2 ^ (8 * ETy.f32.width) ∧ ETy.f32.isFloat = true ∧ ETy.f16.isFloat = true ∧ ETy.f16 ≠ ETy.f32) ∧ (0 : Nat) < 1 ∧
    (fvOf fmt32 (2 ^ 32 - 1)).isNan = true ∧ fvOf fmt32 0x7F800000 = .inf false ∧ (fvOf fmt32 0).isFinite = true := by decide +kernel

theorem witness_NarrowingAndWidening : narrows.issues .va (.vnarrowT ⟨.f32, 3, 1, 0, 5, 1, false⟩) ∧ narrows.issues .va (.vscaleT ⟨.f32, 3, 1, 0, 5, 1, false⟩) ∧
    narrows.issues .va (.vwidenT ⟨.f64, 3, 2, 0, 5, 0, false⟩) ∧ ETy.f32.isFloat = true ∧ tBlock (Tab.get 0 narrows.me.tt 5) = 16 :=
  ⟨issues_of _ _ _ (by decide +kernel), issues_of _ _ _ (by decide +kernel), issues_of _ _ _ (by decide +kernel), rfl, by decide +kernel⟩

theorem witness_ReductionResults : ∀ i ∈ [Instr.vrsum ⟨.i64, 9, 2, 1, false⟩, .vrmax ⟨.n8, 9, 2, 0, false⟩, .vrmin ⟨.i64, 9, 2, 31, false⟩, .vfrsum ⟨.f64, 9, 3, 2, false⟩,
    .vfrmax ⟨.f64, 9, 3, 2, false⟩], mixed.issues .va i := issues_all _ _ _ (by decide +kernel)

theorem witness_RandomResults : ∀ i ∈ [Instr.vrngu ⟨.f32, 9, 1, 2, 3, 0, false⟩, .vrngn ⟨.f32, 9, 1, 2, 3, 0, false⟩, .vrngb ⟨.i8, 3, 1, 0, 3, 0, false⟩,
    .vdrop ⟨.f64, 9, 3, 1, 3, 0, false⟩], mixed.issues .va i := issues_all _ _ _ (by decide +kernel)

theorem witness_ScalarFloatResults : (Cond.un ∈ [Cond.eq, .ne, .lt, .ge, .le, .gt, .un, .ord]) ∧ ∀ i ∈ [Instr.fadd true 9 1 2, .fsub false 9 1 2, .fmul true 9 1 2,
    .ffma true 2 1 1, .fdiv true 9 8 5, .fsqrt true 9 8, .fcmpCc .un true 4 1 2], floats.issues .s i := ⟨by decide, issues_all _ _ _ (by decide +kernel)⟩

/-- 2^128 overflows FP32 and 2^128 - 2^103 does not; the code 0x7F7FFFFF is finite. -/
theorem witness_RoundingToNearest : ETy.f32.isFloat = true ∧ (roundArith fmt32 .rne ⟨1, 1, 128, false⟩).2 = true ∧
    (roundArith fmt32 .rne ⟨2 ^ 128 - 2 ^ 103 - 1, 1, 0, false⟩).2 = false ∧ (fvOf fmt32 0x7F7FFFFF).isFinite = true ∧ 0x7F7FFFFF < 2 ^ (8 * ETy.f32.width) := by
  decide +kernel

theorem witness_FloatSpecialsAndNans : ETy.f16.isFloat = true ∧ ETy.f64.isFloat = true ∧ ETy.f16 ≠ ETy.f64 ∧ (1023 : Nat) < 2 ^ 10 ∧
    ((fvOf fmt32 0x3F800000).isFinite = true ∧ (fvOf fmt32 0x3F800000).isZero = false) ∧ ((fvOf fmt32 0x80000001).isFinite = true ∧ 0x80000000 < 0x80000001) ∧
    (∀ x ∈ [0x7FC05003, 0xFFC02009], (fvOf fmt32 x).isNan = true) ∧ fvOf fmt32 0xFFFFFFFF = .nan 0xFFFFFFFF := by decide +kernel

theorem regs_gang (c : Nat) (h : c = regs.cur ∨ c ∈ regs.gang regs.cur) : c = 0 := by
  have hg : regs.gang regs.cur = [0] := by decide +kernel
  rcases h with h | h
  · exact h.trans (by decide +kernel)
  · rw [hg] at h
    simpa using h

theorem witness_BranchResults : (∀ c, c = regs.cur ∨ c ∈ regs.gang regs.cur → (regs.core c).shadow = none) ∧
    (∀ i ∈ [Instr.br (-8388608), .brc 31 true 131071, .jr 4, .call 8388607, .ret], regs.issues .s i) ∧
    (∃ h, handling.me.shadow = some h) ∧ ∀ i ∈ [Instr.br 1, .brc 1 true 0, .jr 15], handling.issues .s i :=
  ⟨fun c h => by rw [regs_gang c h]; decide +kernel, issues_all _ _ _ (by decide +kernel), ⟨_, rfl⟩, issues_all _ _ _ (by decide +kernel)⟩

/-- A loop at its last index and one before it, a count of zero, an innermost count one past the limit, and a loop in a loop. -/
def looping : Core := { regs.me with loop := { LoopSt.none with active := true, depth := 2, count := [3, 2], rot := true }, j := [(0, 2), (1, 1)] }

theorem witness_LoopResults : ((∀ c, c = regs.cur ∨ c ∈ regs.gang regs.cur → (regs.core c).shadow = none) ∧ regs.issues .s (.loop 2 3 true 16383) ∧ regs.issues .s (.loopx 1 0 false 1)) ∧
    (looping.shadow = none ∧ 0 < looping.loop.depth ∧ (∀ i, i < 2 → (Tab.get 0 looping.j i).toNat < looping.loop.count.getD i 1 ∧ looping.loop.count.getD i 1 < 2 ^ 32)) ∧
    (regs.cur ≤ 255 ∧ regs.me.shadow = none ∧ regs.me.loop.active = false ∧ regs.me.delay = none ∧ (regs.me.sc 0).toNat % 2 ^ 32 = 0 ∧
      2 ^ 32 ≤ (regs.me.sc 1).toNat % 2 ^ 32 + 1) ∧ (demo (fun _ => looping)).me.loop.active = true := by
  refine ⟨⟨fun c h => by rw [regs_gang c h]; decide +kernel, issues_of _ _ _ (by decide +kernel), issues_of _ _ _ (by decide +kernel)⟩, ?_, ?_, ?_⟩
  · decide +kernel
  · decide +kernel
  · decide +kernel

theorem witness_PredicateAndSystemReads : ∀ i ∈ [Instr.pand 31 1 2, .por 0 1 2, .pxor 3 1 2, .pnot 3 1, .pset 3 3 3, .clock 9, .sysrd 9 0, .sysrd 9 8, .sysrd 9 0x10,
    .sysrd 9 0x1C], kregs.issues .k i := issues_all _ _ _ (by decide +kernel)

theorem witness_ControlResults : kregs.me.shadow = none ∧ ∀ i ∈ [Instr.nop true true 31, .layer 1023, .endTask, .trap 65535], kregs.issues .k i :=
  ⟨by decide +kernel, issues_all _ _ _ (by decide +kernel)⟩

theorem witness_StepInstructionResults : ∀ i ∈ [Instr.steprd 8 0, .steprd 8 1, .steprd 8 8, .steprd 8 9, .steprd 8 24, .steprd 8 25, .steprd 8 29, .stepwr 1 3, .stepwr 8 3,
    .stepwr 9 3, .stepwr 24 3, .curadv 4 7 3, .seqnext 7 15], (graded 0).issues .k i := issues_all _ _ _ (by decide +kernel)

theorem witness_StepInstructionFlags : (kregs.me.occ = some task ∧ Tab.find kregs.launches 1 = some { handle := 0, graphSec := 0, step := true, nodes := [], stepend := false }) ∧
    ∀ i ∈ [Instr.losschk 2 5, .pennon 255 true, .stepend], kregs.issues .k i := ⟨by decide +kernel, issues_all _ _ _ (by decide +kernel)⟩

/-- PAGE_ABSENT (class 3) of the step task, a violation (class 4), and a fault inside the handler. -/
theorem witness_TakingAnException : ((kregs.core 0).shadow = none ∧ faultClass 0x0303 ≠ 4 ∧ kregs.isPreempting 0 = false ∧ (0x0303 : Nat) < 2 ^ 16 ∧ (15 : Nat) < 2 ^ 4 ∧
      (65535 : Nat) < 2 ^ 16 ∧ 2 ^ 52 - 1 < 2 ^ 52 ∧ task.member < 8) ∧ (kregs.core 0).occ = some task ∧ faultClass 0x0401 = 4 ∧ (handling.core 0).shadow.isSome = true := by
  decide +kernel

def served : State := { kregs with session := some sess }

theorem witness_FaultEventPayload : served.session = some sess ∧ (served.core 0).occ = some task ∧ task.launch < 2 ^ 32 ∧ task.node < 2 ^ 32 ∧ 0x0303 < 2 ^ 16 := by
  decide +kernel

/-- A handler that took PAGE_ABSENT of a load, beside the one of `handling`, which took a fault that no access raised. -/
def resends : State :=
  demo (fun k => { k with
    land := [{ id := 7, kind := .load, slot := 4, level := 4, step := true, elems := [], dest := .none, landAt := some 3, since := 0, walk := true, fault := some { code := 0x0303 } }],
    shadow := some ⟨[(3, 0x40)], [], 0, false, none, 0, [], [], { code := 0x0303, data := true, access := some 7 }, none⟩ })

theorem witness_HandlerResults : (∃ h, handling.me.shadow = some h ∧ h.taken.access = none ∧ h.taken.code ≠ fcTrap) ∧
    (∃ h, resends.me.shadow = some h ∧ h.taken.access = some 7 ∧ h.taken.data = true ∧ h.taken.code ≠ fcTrap ∧ resends.me.land.map (·.id) = [7]) ∧
    handling.me.occ = some task ∧ handling.walk 0x40 = none ∧ handling.me.inPlan 0x40 = false ∧ resends.issues .k .eret ∧
    ∀ i ∈ [Instr.eret, .hrd 4 0, .hrd 4 63, .hrd 4 0x40, .hrd 4 0x44, .hwr 0 1, .hwr 63 1, .hpage 4 3 0, .hpage 4 3 1, .hfreeze 1], handling.issues .k i := by
  refine ⟨⟨_, rfl, by decide +kernel, by decide +kernel⟩, ⟨_, rfl, by decide +kernel, by decide +kernel, by decide +kernel, by decide +kernel⟩, by decide +kernel,
    by decide +kernel, by decide +kernel, issues_of _ _ _ (by decide +kernel), issues_all _ _ _ (by decide +kernel)⟩

theorem witness_PrivilegedOutsideHandler : kregs.cur ≤ 255 ∧ kregs.me.shadow = none ∧ handling.me.shadow.isSome = true ∧ handling.issues .k (.trap 1) :=
  ⟨by decide +kernel, by decide +kernel, by decide +kernel, issues_of _ _ _ (by decide +kernel)⟩

/-- A task of no step graph; words and parcels that do not decode. -/
def plain : State := demo (fun k => { k with occ := some { task with step := false, terminal := false } })

theorem witness_IllegalInstructions : plain.cur ≤ 255 ∧ plain.me.shadow = none ∧ plain.me.isStep = false ∧ (∀ o, plain.me.occ = some o → o.step = false ∨ o.terminal = false) ∧
    (∃ e, decodeSyl .s 0x50000000 = .error e) ∧ (∃ e, decodeHeader 0xD0000001 = .error e ∧ hasMarker 0xD0000001 = true) ∧
    ∃ e, decodeHeader 0 = .error e ∧ hasMarker 0 = false := by
  refine ⟨by decide +kernel, by decide +kernel, by decide +kernel, ?_, ⟨_, rfl⟩, ⟨_, rfl, rfl⟩, _, rfl, rfl⟩
  intro o h
  have hp : plain.me.occ = some { task with step := false, terminal := false } := by decide +kernel
  rw [hp] at h
  exact .inl (by cases h; rfl)

/-! Matrix, memory and engine witnesses. -/

def mxEntry (kind base e0 e1 stride : Nat) : Wide :=
  BitVec.ofNat 512 (base + kind * 2 ^ 64 + e0 * 2 ^ 96 + e1 * 2 ^ 128 + 2 ^ 160 + 2 ^ 192 + stride * 2 ^ 224)

def mxs : State :=
  demo (fun k => { k with
    tt := [(1, mxEntry 2 0 64 64 256), (2, mxEntry 2 0x4000 64 64 256), (5, mxEntry 4 0x10000 64 16 128), (6, mxEntry 6 0x8000 32 64 32), (7, mxEntry 5 0xC000 64 64 64)],
    s := [(3, 0)], atag := [(2, 1)] })

theorem witness_MatrixStatusResults : (mxs.me.tag 2 < 4 ∧ mxs.me.reex < 2 ^ 8 ∧ mxs.me.second < 2 ^ 8) ∧
    ∀ i ∈ [Instr.mzero 7, .mcksum 2 63, .mstat 2 63], mxs.issues .mx i := ⟨by decide +kernel, issues_all _ _ _ (by decide +kernel)⟩

def pairOf (o : MmaOp) : Option (Nat × Nat × Nat) :=
  pairing (tKind (Tab.get 0 mxs.me.tt o.tA)) (tKind (Tab.get 0 mxs.me.tt o.tB)) (32 * (o.kn + 1))

theorem witness_MatrixMultiplyResults : (pairOf ⟨2, 1, 2, 1, 0, 0, 0, 0, true, false⟩ = some (1, 4, 32) ∧ pairOf ⟨2, 6, 7, 0, 0, 0, 3, 0, true, true⟩ = some (2, 0, 2)) ∧
    (∀ n, (mxs.me.accVal n).length = 4096) ∧ mxs.me.shadow = none ∧ mxs.me.pend = [] ∧ mxs.issues .mx (.mma ⟨2, 1, 2, 1, 0, 0, 0, 0, true, false⟩) ∧
    mxs.issues .mx (.mmau ⟨2, 6, 7, 0, 0, 0, 3, 0, true, true⟩ 1) := by
  refine ⟨by decide +kernel, fun n => ?_, by decide +kernel, by decide +kernel, issues_of _ _ _ (by decide +kernel), issues_of _ _ _ (by decide +kernel)⟩
  exact List.length_replicate

theorem witness_MatrixLoadResults : mxs.me.shadow = none ∧ mxs.issues .mx (.mload 3 1 0 0 0) := ⟨by decide +kernel, issues_of _ _ _ (by decide +kernel)⟩

theorem witness_MatrixDrainResults : mxs.me.shadow = none ∧ mxs.issues .mx (.mdrain 2 5 0 0 0 1) := ⟨by decide +kernel, issues_of _ _ _ (by decide +kernel)⟩

/-- A range of one page at level 4, and every window of the core. -/
def oneRange : BitVec 256 := BitVec.ofNat 256 (2 ^ 16 + 2 * 2 ^ 80 + 2 ^ 144 + 15 * 2 ^ 192)

def reach : State :=
  demo (fun k => { k with
    rg := [(0, oneRange)], s := [(4, 0xF000000000000000), (5, 4), (6, 0x10000), (7, 0xF200000000000000), (8, 0xF100000000000000), (9, 0x1FFF8)], p := [(1, 1), (2, 0)],
    lq := [(2, List.replicate 64 1)] })

theorem witness_LoadResults : (∀ x ∈ [((4 : Nat), (0 : Nat)), (8, 1), (7, 2), (6, 4)], levelOf (reach.me.sc x.1) = some x.2) ∧
    ∀ i ∈ [Instr.ld ⟨9, 4, 0, 0, 0, 0, 3⟩, .ld ⟨9, 8, 0, 0, 0, 0, 0⟩, .ld ⟨9, 7, 0, 0, 1023, 0, 3⟩, .ld ⟨9, 6, 0, 0, 0, 0, 3⟩, .ld ⟨9, 9, 0, 0, 0, 0, 3⟩, .vld ⟨9, 4, 0, 0, 0, 1, 2⟩,
      .vld ⟨9, 4, 0, 1, 0, 2, 2⟩, .vlds ⟨9, 6, 5, 0, 0, 1, 2⟩, .vgath ⟨9, 4, 0, 0, 0, 1, 3⟩, .lsld ⟨9, 5, 0, 0, 0, 0, 2⟩], reach.issues .ld i :=
  ⟨by decide +kernel, issues_all _ _ _ (by decide +kernel)⟩

theorem witness_StoreResults : ∀ i ∈ [Instr.st ⟨9, 4, 0, 0, 0, 0, 3⟩, .st ⟨9, 9, 0, 0, 0, 0, 3⟩, .vst ⟨9, 4, 0, 0, 0, 1, 2⟩, .vst ⟨9, 4, 0, 1, 0, 2, 2⟩, .vsts ⟨9, 6, 5, 0, 0, 1, 2⟩,
    .vscat ⟨1534, 4, 0, 0, 0, 1, 3⟩, .lsst ⟨1534, 5, 0, 0, 0, 0, 2⟩], reach.issues .st i := issues_all _ _ _ (by decide +kernel)

theorem witness_AtomicResults : levelOf (reach.me.sc 4) = some 0 ∧ (levelOf (reach.me.sc 6) = some 4 ∧ 2 ≤ 4) ∧
    ∀ i ∈ [Instr.aadd ⟨9, 4, 0, 0, 0, .gang⟩, .amin ⟨9, 4, 0, 0, 0, .die⟩, .amax ⟨9, 6, 0, 0, 0, .dev⟩, .aand ⟨9, 6, 0, 0, 0, .grp⟩, .aor ⟨9, 4, 0, 0, 0, .gang⟩,
      .axor ⟨9, 4, 0, 0, 0, .gang⟩, .aswap ⟨9, 7, 0, 0, 0, .gang⟩, .acas ⟨9, 4, 5, 0, 0, .gang⟩, .afadd ⟨9, 4, 0, 0, 0, .gang⟩, .aaddNr ⟨9, 4, 0, 0, 0, .gang⟩,
      .aminNr ⟨9, 6, 0, 0, 0, .gang⟩, .amaxNr ⟨9, 4, 0, 0, 0, .gang⟩, .aandNr ⟨9, 4, 0, 0, 0, .gang⟩, .aorNr ⟨9, 4, 0, 0, 0, .gang⟩, .axorNr ⟨9, 4, 0, 0, 0, .gang⟩,
      .aswapNr ⟨9, 4, 0, 0, 0, .gang⟩, .afaddNr ⟨9, 4, 0, 0, 0, .gang⟩], reach.issues .ld i := ⟨by decide +kernel, by decide +kernel, issues_all _ _ _ (by decide +kernel)⟩

/-- Two stores of one core to one byte, and an atomic behind them. -/
def oneStore : Pend := ⟨12, 3, .bytes 0 [(0x10, 7), (0x11, 8)]⟩
def stored : State := demo (fun k => { k with pend := [⟨12, 2, .bytes 0 [(0x10, 5)]⟩, oneStore] })

theorem witness_NearAccessesPerform : (∀ p ∈ stored.me.inFlight, ∀ d off op v cmp nan, p.eff ≠ .atom d off op v cmp nan) ∧
    (∀ x ∈ [((0x10 : Nat), (7 : Byte)), (0x11, 8)], stored.barBusy 0 x.1 = false) ∧ (stored.core 0).mxReads = [] ∧
    ∀ b, b < 8 → stored.barBusy 0 (0x10 + b) = false := by
  refine ⟨?_, by decide +kernel, by decide +kernel, by decide +kernel⟩
  intro p hp d off op v cmp nan
  have hq : stored.me.inFlight = [⟨12, 2, .bytes 0 [(0x10, 5)]⟩, oneStore] := by decide +kernel
  rw [hq] at hp
  simp only [List.mem_cons, List.not_mem_nil, or_false] at hp
  rcases hp with rfl | rfl <;> simp [oneStore]

/-- The lowest misaligned element of a column load is its second. -/
def askew : State := demo (fun k => { k with s := [(4, 0xF000000000000000), (5, 6)], p := [(1, 0x11)] })

def askewLanes : State := demo (fun k => { k with s := [(5, 6)] })
def askewRange : State := demo (fun k => { k with rg := [(0, oneRange)], s := [(6, 0x10000), (5, 6)] })

theorem witness_MisalignedAccess : askew.cur ≤ 255 ∧ askew.me.shadow = none ∧ ∃ r, lsReq askew.me (.vlds ⟨9, 4, 5, 0, 0, 1, 2⟩) = some r ∧
    (∀ x ∈ r.els, levelOf x.2.1 = some 0 ∧ askew.inWindow askew.cur x.2.1 x.2.2 = true) ∧
    (r.els.find? (fun x => x.2.1.toNat % x.2.2 != 0)).map (·.1) = some 1 := by
  refine ⟨by decide +kernel, by decide +kernel, _, rfl, by decide +kernel, by decide +kernel⟩

/-- A misaligned atomic, a lane access whose second lane is misaligned, and a REARM at a misaligned base or of a misaligned length. -/
theorem witness_MisalignedAccess_others : (∃ r, lsReq askew.me (.aadd ⟨9, 4, 0, 4, 0, .gang⟩) = some r ∧
      (∀ x ∈ r.els, levelOf x.2.1 = some 0 ∧ askew.inWindow askew.cur x.2.1 x.2.2 = true) ∧
      (r.els.find? (fun x => x.2.1.toNat % x.2.2 != 0)).isSome = true) ∧
    (∃ r, lsReq askewLanes.me (.lsst ⟨9, 5, 0, 0, 0, 0, 2⟩) = some r ∧ (∀ x ∈ r.els, x.2.1.toNat < 4096) ∧
      (r.els.find? (fun x => x.2.1.toNat % 4 != 0)).isSome = true) ∧
    (levelOf (askewRange.me.sc 6 + BitVec.ofInt 64 16) = some 4 ∧ (askewRange.me.sc 6 + BitVec.ofInt 64 16).toNat % 32 ≠ 0 ∧
      (askewRange.me.sc 5).toNat % 32 ≠ 0) := by
  refine ⟨⟨_, rfl, by decide +kernel, by decide +kernel⟩, ⟨_, rfl, by decide +kernel, by decide +kernel⟩, by decide +kernel⟩

def linked : State := { reach with links := [(2, { Link.reset with state := .active })] }

theorem witness_QueueAndRangeResults : (∀ i ∈ [Instr.lqpop false 9 2, .lqpop true 9 2, .pref ⟨6, 5, 0⟩, .pref ⟨4, 5, 0⟩], linked.issues .ld i) ∧
    (0xF0 * 2 ^ 56 ≤ (linked.me.sc 4 + BitVec.ofInt 64 0).toNat) ∧
    ∀ i ∈ [Instr.lqpsh false 9 2, .lqpsh true 9 2, .flush ⟨6, 0, 0⟩, .discard ⟨6, 5, 0⟩, .rearm ⟨6, 0, 32⟩], linked.issues .st i :=
  ⟨issues_all _ _ _ (by decide +kernel), by decide +kernel, issues_all _ _ _ (by decide +kernel)⟩

def failing : State := { copies with cores := [(0, { copies.me with engB := { Engine.idle with failed := true }, shB := [(2, shape1)] })] }

theorem witness_CopyIssueResults : (copies.me.engA.failed = false ∧ failing.me.engB.failed = true ∧ copies.me.engA.queue.length < 2 ^ 9) ∧
    copies.issues .ca (.copy ⟨.a, 2, 6, 7, 0⟩) ∧ failing.issues .cb (.copy ⟨.b, 2, 6, 7, 0⟩) ∧
    ∀ i ∈ [Instr.shw .b 15 56 0xFF, .ttw 255 56 0xFF, .kShr 9 .a 2 7, .kShr 9 .a 0 8, .kShr 9 .b 0 9, .ttr 9 6 7], copies.issues .k i :=
  ⟨by decide +kernel, issues_of _ _ _ (by decide +kernel), issues_of _ _ _ (by decide +kernel), issues_all _ _ _ (by decide +kernel)⟩

/-- An arrival that waits behind an earlier update of the same barrier, and one that applies. -/
def waits : State := demo (fun k => { k with barq := [⟨3, ⟨0, 0x100⟩, .expect 4⟩, ⟨5, ⟨0, 0x100⟩, .arrive 9⟩] })

def heldBack : State :=
  demo (fun k => { k with
    fences := [⟨5, 0, 0, 3, 3⟩],
    land := [{ id := 4, kind := .store, slot := 5, level := 4, step := true, elems := [⟨0, 0x10000, 0x10000, 1, [1], [], false⟩], dest := .none, landAt := none, since := 0, walk := false, fault := none },
      { id := 6, kind := .load, slot := 4, level := 4, step := true, elems := [⟨0, 0x10008, 0x10008, 1, [], [], false⟩], dest := .scalar 1, landAt := some 9, since := 0, walk := false, fault := none }] })

def nmCode : State :=
  { commOf with containers := [(0, { total := 0, got := [], accepted := true, digest := [], plan := [], sections := [.program [0x2100000000000000]], patches := [], ipas := [], binds := [] })] }

theorem witness_BarrierResults : (∀ i ∈ [Instr.binit 20 (.const 131071), .bexpect 20 (.reg 3), .barrive 20 (.const 0), .bwait 22 20 21, .btoken 21 20, .fence 3 1, .fencex 6 0,
      .coll 20 0 2, .nmrun 20 0 0], nmCode.issues .k i) ∧
    (waits.core 0).barq.find? (fun o => o.id == 5) = some ⟨5, ⟨0, 0x100⟩, .arrive 9⟩ ∧ (waits.core 0).mxReads = [] ∧
    (∃ q ∈ (waits.core 0).barq, q.id < 5 ∧ q.bar = ⟨0, 0x100⟩) ∧ (waits.core 0).barq.find? (fun o => o.id == 3) = some ⟨3, ⟨0, 0x100⟩, .expect 4⟩ ∧
    ((heldBack.core 0).land.map (fun a => (a.id, a.open, Nat.land a.kind.mask 3)) = [(4, true, 2), (6, true, 1)] ∧ (heldBack.core 0).fences.map (fun f => (f.ord, f.before, f.after)) = [(5, 3, 3)]) := by
  refine ⟨issues_all _ _ _ (by decide +kernel), by decide +kernel, by decide +kernel, ⟨⟨3, ⟨0, 0x100⟩, .expect 4⟩, ?_⟩, by decide +kernel, by decide +kernel⟩
  decide +kernel

def nmLanes : State := lanesAt 1 2 3

theorem witness_NearMemoryLanes : ∃ x, Tab.find nmLanes.units nmLanes.curUnit = some x ∧ x.run = some 3 ∧ Tab.find nmLanes.runs 3 = some unitRun ∧ unitRun.stopped = false :=
  ⟨_, rfl, rfl, by decide +kernel, rfl⟩

/-- A stream over one mapped, writable page; a second run waits on the unit. -/
def withPages (l : Tab Leaf) (s : State) : State := l.foldl (fun s e => s.putLeaf false e.1 e.2) s

def mapped : Tab Leaf := [(1, { e := BitVec.ofNat 128 (2 ^ 0 + 2 ^ 7 + 2 ^ 8 + 3 * 2 ^ 16), va := 0x10000 })]

def nmRows : State :=
  { withPages mapped State.reset with
    runs := [(3, unitRun), (4, { unitRun with id := 4 })],
    units := [(nmuOf 0x10000, { q := [], run := some 3, row := 0, idx := 4, queue := [4], part := [], undo := [] })], curUnit := nmuOf 0x10000 }

def chkOk : Chk → Option PageRef
  | .ok r => some r
  | _ => none

def chkBad : Chk → Option Nat
  | .fail c => some c
  | _ => none

theorem witness_NearMemoryControl : (∃ x, Tab.find nmRows.units nmRows.curUnit = some x ∧ x.run = some 3 ∧ x.row = 0 ∧ x.queue = [4]) ∧ Tab.find nmRows.runs 3 = some unitRun ∧
    unitRun.stopped = false ∧ unitRun.streams[0]? = some ⟨true, true, 0x1000, 0x10000⟩ ∧
    (let i := nmRows.rowIssuer unitRun nmRows.curUnit 0 0 504
     nmRows.waitOf i.key = none ∧ nmRows.turnAt i.key 0x101F8 = true ∧
      (chkOk (nmRows.pageChk i .read 0x101F8)).map (fun r => r.leaf.type) = some 0 ∧
      (chkOk (nmRows.pageChk i .write 0x101F8)).map (fun r => (r.leaf.type, r.leaf.tier)) = some (0, 0) ∧
      (chkBad (nmRows.pageChk i .read 0x20000)).isSome = true) ∧
    (decide (1 < unitRun.rows) && unitRun.unitOf 1 == nmRows.curUnit) = false ∧ unitRun.unitOf 0 = nmRows.curUnit :=
  ⟨⟨_, rfl, rfl, rfl, rfl⟩, by decide +kernel, rfl, rfl, by decide +kernel, by decide +kernel, by decide +kernel⟩

/-- Accesses at levels 4, 3 and 2 with one unit that nothing holds back. -/
def openAt (level : Nat) (kind : AccKind) (loc : Nat) : Access :=
  { id := 7, kind := kind, slot := 4, level := level, step := true, elems := [⟨0, BitVec.ofNat 64 loc, loc, 8, List.replicate 8 1, [], false⟩], dest := .scalar 1, landAt := some 3, since := 0,
    walk := false, fault := none }

def inFlight (a : Access) : State := withPages mapped (demo (fun k => { k with land := [a] }))

def ready (a : Access) : Bool :=
  decide (((inFlight a).core 0).land.find? (fun b => b.id == a.id) = some a) && decide ((a.elems.find? (fun x => x.idx == 0)).isSome) &&
    !(a.elems.any (fun e => (inFlight a).unitWaits 0 a e ((inFlight a).unitOf a e) || e.done))

def issuerOf (a : Access) : Issuer := ((inFlight a).core 0).issuer 0 true .core (.core 0 a.id 0)

/-- What an access at level 4 needs besides its page: no alias of another type among its elements, its turn, and no copy above its
home; an atomic finds no other that is served before it in its sector. -/
def turns4 (a : Access) (loc : Nat) : Bool :=
  !(a.elems.any (fun e => (inFlight a).aliasElse (issuerOf a) a e)) && (inFlight a).turnAt (issuerOf a).key loc &&
    ((inFlight a).cachedFor (issuerOf a) loc).isNone && ((inFlight a).waitOf (issuerOf a).key).isNone && ((inFlight a).nearLine (issuerOf a) loc).isNone &&
    !((inFlight a).atomWaits (issuerOf a) .slice loc)

/-- The same load with its sector in the line buffer of its core. -/
def copied : State :=
  { inFlight (openAt 4 .load 0x10000) with
    cached := [⟨4, 0x10000 / 32, { e := BitVec.ofNat 128 (2 ^ 0 + 2 ^ 7), va := 0x10000 }, false, List.replicate 32 7⟩] }

/-- An IP page that its task owns, with a sector of it in the die's L2: stores and atomics act on that copy. -/
def ipLeaf : Leaf := { e := BitVec.ofNat 128 (2 ^ 0 + 2 ^ 1 + 2 ^ 2 + 2 ^ 7 + 2 ^ 8 + 3 * 2 ^ 16 + 2 ^ 64), va := 0x10000 }

def nearBy (a : Access) : State :=
  { withPages [(1, ipLeaf)] (inFlight a) with cached := [⟨0, 0x10000 / 32, ipLeaf, true, List.replicate 32 7⟩] }

def nearOk (kind : AccKind) (kd : AKind) : Bool :=
  let s := nearBy (openAt 4 kind 0x10000)
  let i := issuerOf (openAt 4 kind 0x10000)
  (match s.nearLine i 0x10000 with | some x => (x.check i kd).isNone | none => false) && (s.walk 0x10000).isSome && !(s.atomWaits i .slice 0x10000)

/-- An access that has failed, and one of a member that is killed, on an absent page. -/
def hurt : Access := { openAt 4 .load 0x10000 with fault := some { code := 0x0602 } }
def dying : State := demo (fun k => { k with land := [openAt 4 .load 0x20000], killed := true, stopped := true })

def onPage (kind : AccKind) (kd : AKind) (loc : Nat) : Option PageRef :=
  chkOk ((inFlight (openAt 4 kind loc)).pageChk (issuerOf (openAt 4 kind loc)) kd loc)

theorem witness_AccessesPerform : (∀ a ∈ [openAt 4 .load 0x10000, openAt 4 .store 0x10000, openAt 4 (.atomic .add .gang 1 0 0 false) 0x10000, openAt 4 .load 0x20000,
      openAt 2 .load 0x100, openAt 2 .store 0x100, openAt 3 .store 0x100, openAt 3 (.atomic .cas .die 1 0 0 true) 0x100], ready a = true) ∧
    (∀ a ∈ [openAt 4 .load 0x10000, openAt 4 .store 0x10000, openAt 4 (.atomic .add .gang 1 0 0 false) 0x10000], turns4 a 0x10000 = true) ∧
    ((copied.cachedFor (issuerOf (openAt 4 .load 0x10000)) 0x10000).map (fun x => (x.leaf.get 7 7, x.leaf.type)) = some (1, 0)) ∧
    ((onPage .load .read 0x10000).map (fun r => (r.leaf.type, r.leaf.v)) = some (0, false)) ∧ ((onPage .store .write 0x10000).map (fun r => r.leaf.type) = some 0) ∧
    ((onPage (.atomic .add .gang 1 0 0 false) .atomic 0x10000).isSome = true) ∧ onPage .load .read 0x20000 = none ∧
    (nearOk .store .write = true ∧ nearOk (.atomic .add .gang 1 0 0 false) .atomic = true) ∧
    ((inFlight hurt).core 0).land = [hurt] ∧ (dying.core 0).killed = true ∧
    chkBad (dying.pageChk ((dying.core 0).issuer 0 true .core (.core 0 7 0)) .read 0x20000) = some fcPageAbsent := by decide +kernel

theorem witness_TentativeWrites : 1 ≤ versions.stepState ∧ versions.stepState ≤ 3 ∧ versions.commitBits.getLsbD (versions.attempt % 4096) = false ∧
    0x2400 % 512 + ([1] : List Byte).length ≤ 512 ∧ 0x25FF % 512 + ([1] : List Byte).length ≤ 512 := by decide +kernel

/-! Witnesses of the events' statements. -/

/-- A core frozen since the machine's start, with a load of a mapped page that is due. -/
def slowOn (l : Tab Leaf) (a : Access) : State :=
  { withPages l (demo (fun k => { k with land := [a], now := 3, waits := [(0, 0)] })) with time := 200000000 }

def slow (a : Access) : State := slowOn mapped a

/-- The same on a write-once page with no sector written, whose read has waited there since the start. -/
def unwritten : State :=
  { slowOn [(1, { e := BitVec.ofNat 128 (2 ^ 0 + 2 ^ 2 + 2 ^ 7 + 3 * 2 ^ 16), va := 0x10000 })] (openAt 4 .load 0x10000) with
    waiting := [⟨issuerOf (openAt 4 .load 0x10000), .read, 0x10000, 8, 7, 0, none⟩] }

/-- A task frozen under a cause on the syllable of one slot. -/
def atSyl (head cause : Nat) (sl : Slot) (i : Instr) : State :=
  match encodeSyl sl i with
  | some w =>
    let s := State.reset.withFetchWord 96 (head + w * 2 ^ 32)
    { s with turns := [], time := 200000000, cores := [(0, { s.core 0 with waits := [(cause, 0)], tt := mxs.me.tt, s := [(3, 0xF000000000000000), (4, 1)] })] }
  | none => State.reset

/-- What the next bundle of core 0 waits for. -/
def waitsOf (s : State) : List (Nat × Nat × Nat) :=
  match s.beforeIssue 0 with
  | some (first, t) => (match t.ready first (s.gang first) false with | .waits ws => ws.map (fun w => (w.1, slotNo w.2.1, w.2.2)) | _ => [])
  | none => []

def waitsOn (id : Nat) : Access :=
  { id := id, kind := .bwait ⟨0, 0x100⟩ 1, slot := 8, level := 0, step := true, elems := [], dest := .none, landAt := some 3, since := 0, walk := false, fault := none }

def paging : State :=
  { demo (fun k => { k with shadow := some ⟨[], [], 0, false, none, 0, [], [], { code := 0x0303 }, some ⟨4, 9, 0x40000, 0⟩⟩ }) with time := 100000000 }

theorem witness_WaitTimeouts :
    (let a := openAt 4 .load 0x10000
     ((slow a).core 0).land.find? (fun b => b.id == a.id) = some a ∧ a.fault = none ∧ a.kind.mask ≠ 0 ∧ a.elems.find? (fun x => !x.done) = a.elems.head? ∧
      (slow a).lateCause 0 a = 0 ∧ Tab.find ((slow a).core 0).waits 0 = some 0 ∧ 0 + 200000000 ≤ (slow a).time) ∧
    ((unwritten.core 0).land = [openAt 4 .load 0x10000] ∧ (unwritten.core 0).killed = false ∧
      (unwritten.waiting.find? (fun w => w.iss.key == .core 0 7 0)).map (fun w => w.wos && w.got.isNone && decide (w.since + 1000000 ≤ unwritten.time)) =
        some true) ∧
    ((atSyl 0xD0800000 3 .ld (.lqpop false 9 2)).core 0).shadow = none ∧ waitsOf (atSyl 0xD0800000 3 .ld (.lqpop false 9 2)) = [(0, 4, 3)] ∧
    waitsOf (atSyl 0xD1000000 2 .mx (.mload 3 1 0 3 4)) = [(0, 3, 2)] ∧
    ((slow (waitsOn 7)).core 0).land = [waitsOn 7] ∧ (slow (waitsOn 7)).barPassed ⟨0, 0x100⟩ 1 = false ∧
    (paging.me.shadow.bind (·.wait) = some ⟨4, 9, 0x40000, 0⟩ ∧ paging.walk 0x40000 = none) := by
  refine ⟨?_, ?_, ?_, ?_, ?_, ?_, ?_, ?_⟩ <;> decide +kernel

/-- A copy of one piece that engine A holds, and one with a second copy behind it. -/
def moving : State := ran (.copy ⟨.a, 2, 6, 7, 0⟩) copies
def behind : State := ran (.copy ⟨.a, 2, 6, 7, 0⟩) { moving with turns := [] }

/-- The same copy with a source at level 4 that no range of the core holds. -/
def lostSource : State :=
  { moving with cores := [(0, { moving.core 0 with engA := { (moving.core 0).engA with queue := (moving.core 0).engA.queue.map (fun q => { q with tS := q.tS ||| (4#512 <<< 57) }) } })] }

/-- A copy whose write to another device is out. -/
def crossing : State :=
  { moving with cores := [(0, { moving.core 0 with engA := { (moving.core 0).engA with queue := (moving.core 0).engA.queue.map (fun q => { q with outst := [⟨1, 0x10000, 32, 0x10000⟩] }) } })] }

def homePages (w : Bool) : State :=
  withPages [(1, { e := BitVec.ofNat 128 (2 ^ 0 + 2 ^ 7 + (if w then 2 ^ 8 else 0) + 3 * 2 ^ 16), va := 0x10000 })] { State.reset with stepState := 2 }

def far : Issuer := ⟨true, 0, 0, 0, .remote, .remote 0 0⟩

/-- A packet whose write has come to its home, and one that wants to read there. -/
def cameWrite (w : Bool) : State := let s := homePages w; { s with remote := [(0, .write ⟨1, 0x10000, [1], 0, .a, true, false, 0⟩ 0)], nextRemote := 1 }
def cameRead : State := let s := homePages true; { s with remote := [(0, .read 1 0x10000 32 true [])], nextRemote := 1 }

theorem witness_CopyEvents :
    ((moving.core 0).engA.queue.map (fun q => (q.next, q.early, q.asked, q.outst)) = [(0, [], [], [])] ∧
      (moving.core 0).engA.queue.map (fun q => (q.emitted, q.flight, q.wrote, decide (q.origin = none))) = [(0, [], [], true)] ∧
      (moving.core 0).engA.queue.map (fun q => (q.failed, nestTotal q.sh, q.bar)) = [(false, 1, none)] ∧
      (moving.core 0).engA.queue.map (fun q => (decide (q.form = .copy), tLevel q.tS, tLevel q.tD, tBase q.tD)) = [(true, 0, 0, 0x4000)] ∧
      (moving.core 0).engA.failed = false ∧ (moving.core 0).killed = false ∧ (moving.core 0).fences = [] ∧ (moving.core 0).mxReads = [] ∧
      (moving.core 0).inFlight = [] ∧ (∀ i, i < 64 → moving.barBusy 0 (0x4000 + i) = false)) ∧
    ((behind.core 0).engA.queue.map (fun q => (q.failed, q.outst, q.asked, q.emitted)) = [(false, [], [], 0), (false, [], [], 0)] ∧
      (behind.core 0).engA.record.getLsbD 16 = false ∧ (behind.core 0).engA.requests < 2048) ∧
    (0x10000 / 32 = (0x10000 + 32 - 1) / 32 ∧ (homePages true).remote = [] ∧ (homePages true).turns = [] ∧
      (cameWrite true).turnAt far.key 0x10000 = true ∧ (chkOk ((cameWrite true).pageChk far .write 0x10000)).map (fun r => r.leaf.type) = some 0 ∧
      (chkBad ((cameWrite false).pageChk far .write 0x10000)).isSome = true ∧
      cameRead.waitOf far.key = none ∧ cameRead.turnAt far.key 0x10000 = true ∧
      (chkOk (cameRead.pageChk far .read 0x10000)).map (fun r => r.leaf.type) = some 0 ∧
      (chkBad (cameRead.pageChk far .read (2 ^ 52))).isSome = true) ∧
    (crossing.core 0).engA.queue.map (fun q => (q.failed, decide (q.origin = none), q.outst)) = [(false, true, [⟨1, 0x10000, 32, 0x10000⟩])] := by
  refine ⟨⟨?_, ?_, ?_, ?_, ?_, ?_, ?_, ?_, ?_, ?_⟩, ⟨?_, ?_, ?_⟩, ⟨?_, ?_, ?_, ?_, ?_, ?_, ?_, ?_, ?_, ?_⟩, ?_⟩ <;> decide +kernel

theorem witness_CopyEvents_failure :
    (lostSource.core 0).engA.queue.map (fun q => (tLevel q.tS, nestTotal q.sh, ((q.sh.extractLsb' 480 12).toNat + 1) % 32, q.emitted, q.failed)) = [(4, 1, 0, 0, false)] ∧
    (lostSource.core 0).engA.queue.map (fun q => match translate 0 (lostSource.core 0).rg (entAddr q.tS (tBase q.tS + sOff q.sh 0)) .read true with | .error _ => true | .ok _ => false) = [true] := by
  refine ⟨?_, ?_⟩ <;> decide +kernel

/-- Two members' sources of one element each, in each kind of collective. -/
theorem witness_CollectiveValues : ([leBytes 4 3, leBytes 4 4] : List (List Byte)).length = 2 ∧
    (∀ kind ∈ [0, 1, 2, 3], ((⟨kind, 4, 0, 0, 0, 1, 1, 0, 0, 0, 0, true⟩ : CollDesc).root < 2 ∧ kind = (⟨kind, 4, 0, 0, 0, 1, 1, 0, 0, 0, 0, true⟩ : CollDesc).kind)) ∧
    (∀ l ∈ ([leBytes 4 3, leBytes 4 4] : List (List Byte)), l.length = 1 * (collType 4).width) := by decide +kernel

/-- A run before its start, with a block at 0x1000 of the scratchpad. -/
def starting (block : List Byte) : State :=
  { withPages mapped (demo (fun k => { k with nmRuns := [3], rg := [(0, oneRange)], sp := Mem.writes [] 0x1000 block })) with
    runs := [(3, { unitRun with started := false, streams := [], rows := 0, params := [], block := 0xF000000000001000 })] }

def goodBlock : List Byte := leBytes 8 (0x10000 + 2 ^ 57 + 2 ^ 58) ++ List.replicate 56 0 ++ leBytes 4 2

def startCode : NmStart → Nat
  | .fail _ code _ _ _ => code
  | .wait _ => 1
  | .go _ _ rows _ => 0x10000 + rows

def descOf (flags : Nat) : List Byte := [0, 4, 0, BitVec.ofNat 8 flags] ++ List.replicate 4 0 ++ leBytes 4 8 ++ List.replicate 4 0 ++ leBytes 8 0x10000 ++ leBytes 8 0x10020 ++ List.replicate 32 0

def gathering (started done : Bool) : State :=
  { withPages mapped (demo (fun k => { k with
      colls := [{ id := 9, desc := 0xF000000000001000, bar := some ⟨0, 0x100⟩, comm := 2, n := 0, stepNo := 7, step := true, since := 0, started := started, block := if started then descOf 0 else [], sig := false, done := done, peers := [], fault := none }],
      rg := [(0, oneRange)], sp := Mem.writes [] 0x1000 (descOf 0) })) with
    comms := [(2, 0x100000010)], time := 100000000 }

def peerTwo : Peer := ⟨1, 0, collTuple 2 (collFields (descOf 0)), 7, List.replicate 32 1⟩

/-- The same collective with its source read and its peer there: before its result, and with it. -/
def gathered (out : Option (List Byte × Bool)) : State :=
  let s := gathering true false
  { s.modCore 0 (fun k => { k with colls := k.colls.map (fun x => { x with peers := [peerTwo] }) }) with
    gathers := [⟨0, 9, 0x10000, 32, [], [], out, 0⟩] }

def collCode : CollStart → Nat
  | .fail _ code _ _ _ => code
  | .wait _ => 1
  | .go _ _ _ _ _ => 0x10000

def sideBytes : Side4 → Nat
  | .ok _ l => l.length
  | _ => 0

def readableSpan : Except Nat Nat → Bool
  | .ok _ => true
  | .error _ => false

theorem witness_NearMemoryRunEvents :
    let b := starting goodBlock
    (b.runs.map (fun e => (e.2.started, e.2.stopped, decide (e.2.fault = none))) = [(false, false, true)] ∧ b.me.fences = [] ∧ b.me.nmRuns = [3]) ∧
    (b.runs.map (fun e => (decide (0xF0 * 2 ^ 56 ≤ e.2.block.toNat), nmParamBad e.2.prog (b.me.sp.reads 0x1000 256))) = [(true, false)] ∧
      ((nmFields (b.me.sp.reads 0x1000 256)).1.filter (·.getLsbD 57)) = [BitVec.ofNat 64 (0x10000 + 2 ^ 57 + 2 ^ 58)] ∧
      (match spanRange b.me.rg 0x10000 1024 .write, translate 0 b.me.rg 0x10000 .read false with | .ok _, .ok (_, i) => i == 0x10000 | _, _ => false) = true ∧
      b.runs.map (fun e => (b.nmPages (b.rowIssuer e.2 0 0 0 0) [⟨true, true, 0x10000, 0x10000⟩] 2).all (fun y => (chkOk y.chk).isSome)) = [true]) ∧
    (b.runs.map (fun e => startCode (b.nmCheck e.2)) = [0x10002] ∧
      (starting []).runs.map (fun e => decide (startCode ((starting []).nmCheck e.2) ∉ [0, 1, 0x0800, 0x10000])) = [true]) ∧
    (let s := { b with runs := [(3, { unitRun with reach := [unitRun.unitOf 0] })] }
     s.mayReach 3 (unitRun.unitOf 0) = true ∧ 0 < unitRun.rows) ∧
    (let s := { b with runs := [(3, unitRun)] }
     Tab.find s.runs 3 = some unitRun ∧ unitRun.started = true ∧ unitRun.reach = [] ∧ ∀ e ∈ s.units, e.2.run ≠ some 3 ∧ 3 ∉ e.2.queue) ∧
    (let r : NmRun := { unitRun with stopped := true }; r.stopped = true) := by
  refine ⟨⟨?_, ?_, ?_⟩, ⟨?_, ?_, ?_, ?_⟩, ⟨?_, ?_⟩, ⟨?_, ?_⟩, ⟨?_, ?_, ?_, ?_⟩, ?_⟩ <;> decide +kernel

theorem witness_CollectiveEvents :
    let g := gathering false false
    (g.me.colls.map (fun x => (x.started, x.done, decide (x.fault = none), x.peers)) = [(false, false, true, [])] ∧
      g.me.killed = false ∧ g.me.fences = [] ∧ 2 ∉ g.halted ∧ g.me.colls.map (·.id) = [9] ∧ g.cores.map (·.1) = [0]) ∧
    (g.me.sp.reads 0x1000 64 = descOf 0 ∧ (collFields (descOf 0)).bad 2 = false ∧ (collFields (descOf 0)).flags = 0 ∧
      (readableSpan (match spanRange g.me.rg 0x10000 32 .read, spanRange g.me.rg 0x10020 32 .write, translate 0 g.me.rg 0x10000 .read false, translate 0 g.me.rg 0x10020 .write false with
        | .ok _, .ok _, .ok _, .ok (_, i) => .ok i | _, _, _, _ => .error 0)) = true ∧
      g.me.colls.map (fun x => (g.collPages (g.collIssuer 0 x 0) 0x10000 0x10000 32 .read false ++ g.collPages (g.collIssuer 0 x 0) 0x10020 0x10020 32 .write false).all
        (fun y => (chkOk y.chk).isSome)) = [true]) ∧
    (g.me.colls.map (fun x => collCode (g.collCheck 0 x)) = [0x10000] ∧ commCount (g.comm 2) = 2 ∧ commRank (g.comm 2) 0 = 0 ∧
      (∀ p ∈ [peerTwo], p.rank ≠ 0 ∧ p.rank < 2 ∧ p.seqNo = 0 ∧ p.tuple = collTuple 2 (collFields (descOf 0)))) ∧
    (let s := gathered none
     s.gathers.find? (fun g => g.core == 0 && g.id == 9) = some ⟨0, 9, 0x10000, 32, [], [], none, 0⟩ ∧
     s.me.colls.map (fun x => (x.started, x.done, collCode (s.collCheck 0 x), s.collBlocked 0 x)) = [(true, false, 0x10000, false)] ∧
     s.me.colls.map (fun x => sideBytes (State.readParts (fun a => s.collIssuer 0 x (a - 0x10000)) 0x10000 0x10000 (partsOf 0x10000 32) s [])) = [32]) ∧
    (let s := gathered (some (List.replicate 32 1, false))
     s.me.colls.map (fun x => collCode (s.collCheck 0 x)) = [0x10000] ∧
     s.me.colls.map (fun x => sideBytes (State.writeParts (fun a => s.collIssuer 0 x (2 ^ 41 + (a - 0x10020))) true 0x10020 0x10020 (List.replicate 32 1) (partsOf 0x10020 32) s [])) = [32]) ∧
    (gathering true true).me.colls.map (·.done) = [true] ∧
    (gathering true false).me.colls.map (fun x => (x.started, x.done, decide (x.since + 100000000 ≤ (gathering true false).time), x.peers)) = [(true, false, true, [])] := by
  refine ⟨⟨?_, ?_, ?_, ?_, ?_, ?_⟩, ⟨?_, ?_, ?_, ?_, ?_⟩, ⟨?_, ?_, ?_, ?_⟩, ⟨?_, ?_, ?_⟩, ⟨?_, ?_⟩, ?_, ?_⟩ <;> decide +kernel

/-! A container of one graph of one node, its launch, and the node in each state. -/

def oneNode (gang : Nat) : NodeRec :=
  { gang := gang, prio := 1, layer := 5, die := 4, terminal := true, entry := 0, entryRegion := 0, tensors := 9, shapesA := 9, shapesB := 9, deps := 0, succ := [], safePoints := 9,
    argRegion := 0xFF, regions := [], argOff := 0, argSize := 0 }

def oneGraph (gang : Nat) : Container :=
  { total := 0, got := [], accepted := true, digest := [], plan := [], sections := [.graph { step := false, terminal := none, nodes := [oneNode gang] }], patches := [], ipas := [], binds := [] }

def nodeIn (st : TaskState) : NodeSt :=
  { state := st, deps := 0, level := 1, order := 0, queuedAt := 0, readyAt := 0, first := 0, reserve := none, askedAt := none, escal := 0, atSafe := false, restored := false, dying := false }

def tasks (gang : Nat) (n : NodeSt) (s : State) : State :=
  { s with containers := [(0, oneGraph gang)], launches := [(0, { handle := 0, graphSec := 0, step := false, nodes := [(0, n)], stepend := false })], time := 2000000 }

/-- A task of launch 0 whose next bundle is a header with SP. -/
def atSafePoint (n : NodeSt) : State := { tasks 1 n (State.reset.withFetchWord 32 (encodeHeader ⟨[], true, false, 0⟩)) with turns := [] }

/-- Core 0 as it ends, and as it stands when its task has been killed. -/
def overNode (f : Core → Core) (n : NodeSt) : State :=
  let s := atSafePoint n
  { s with cores := [(0, f (s.core 0))] }

def savedOne (p : SafeRec) : State :=
  let s := atSafePoint { nodeIn .placed with restored := true }
  { s with cores := [(0, { s.core 0 with begun := false, slots := [(2, (s.core 0).saveOf { launch := 0, node := 0, member := 0, gang := 1, first := 0, step := false, terminal := false, handle := 0 } p 0)] })] }

def noneLive : SafeRec := { off := 0, smap := 0, pmap := 0, amap := 0, vmap := 0 }

/-- Every even core taken: no gang of two fits. -/
def crowded : State :=
  tasks 2 (nodeIn .ready) { State.reset with cores := (List.range 128).map (fun c => (2 * c, { Core.reset with occ := some task })) }

theorem witness_TaskEvents :
    ((∀ st ∈ [TaskState.placed, .running, .preempting, .killed, .ready], (tasks 1 (nodeIn st) State.reset).nodeSt 0 0 = some (nodeIn st)) ∧
      (tasks 1 (nodeIn .placed) State.reset).nodeHome 0 0 = some (oneGraph 1, oneNode 1)) ∧
    ((savedOne noneLive).nodeSt 0 0).map (fun n => (n.restored, decide (n.state = .placed))) = some (true, true) ∧
    ((((savedOne noneLive).core 0).slotOf 0 0).map (·.1) = some 2 ∧ ((savedOne noneLive).core 0).begun = false) ∧
    (let s := atSafePoint (nodeIn .preempting)
     (s.core 0).begun = true ∧ (s.core 0).stopped = false ∧ (s.core 0).ended = false ∧ s.safeReady 0 [0] = true ∧ s.spDue 0 = true) ∧
    (let s := atSafePoint { nodeIn .preempting with atSafe := true }
     s.gangFault [0] = none ∧ (s.core 0).drained = true) ∧
    (let s := overNode (fun k => { k with ended := true }) (nodeIn .running)
     (s.core 0).endDone = true ∧ (s.core 0).engA.record.getLsbD 16 = false ∧ s.ipPages 0 0 = []) ∧
    (let s := overNode (fun k => { k with killed := true, stopped := true }) { nodeIn .killed with dying := true }
     s.ctl = none ∧ s.abortWait = false ∧ s.runs = [] ∧ s.nodeCores 0 0 = [0] ∧ (s.core 0).writesDone = true ∧ (s.core 0).lqHeld = [] ∧ s.heldWrites 0 = false) ∧
    (let s := tasks 1 { nodeIn .ready with level := 0 } State.reset
     s.fits ⟨0, 0, { nodeIn .ready with level := 0 }⟩ (oneNode 1) = some 0) ∧
    (crowded.fits ⟨0, 0, nodeIn .ready⟩ (oneNode 2) = none ∧ crowded.reserved = [] ∧ crowded.fenced = [] ∧
      crowded.chooseSet ⟨0, 0, nodeIn .ready⟩ (oneNode 2) false = none ∧ crowded.chooseSet ⟨0, 0, nodeIn .ready⟩ (oneNode 2) true = none) ∧
    (0 < (nodeIn .ready).level ∧ (nodeIn .ready).queuedAt + 2000000 ≤ (tasks 1 (nodeIn .ready) State.reset).time) ∧
    (let n : NodeSt := { nodeIn .preempting with askedAt := some 0, escal := 2000 }
     n.atSafe = false ∧ 0 + n.escal * 1000 ≤ (tasks 1 n State.reset).time) := by
  refine ⟨⟨?_, ?_⟩, ?_, ⟨?_, ?_⟩, ⟨?_, ?_, ?_, ?_, ?_⟩, ⟨?_, ?_⟩, ⟨?_, ?_, ?_⟩, ⟨?_, ?_, ?_, ?_, ?_, ?_, ?_⟩, ?_, ⟨?_, ?_, ?_, ?_, ?_⟩, ?_, ?_⟩ <;> decide +kernel

/-- The same machine with a task of a greater level number on core 1: its set is the one to ask. -/
def askable : State :=
  let s := tasks 2 (nodeIn .ready) { State.reset with cores := (List.range 128).map (fun c => (2 * c + 1, { Core.reset with occ := some task, begun := true })) }
  { s with cores := Tab.set s.cores 1 { Core.reset with occ := some { task with launch := 7, node := 0, member := 0, gang := 1, first := 1, step := false }, begun := true },
           containers := Tab.set s.containers 3 (oneGraph 1),
           launches := Tab.set s.launches 7 { handle := 3, graphSec := 0, step := false, nodes := [(0, { nodeIn .running with first := 1, level := 2 })], stepend := false } }

theorem witness_TaskEvents_asks : (askable.chooseSet ⟨0, 0, nodeIn .ready⟩ (oneNode 2) false).map (·.1) = some 0 ∧
    askable.fits ⟨0, 0, nodeIn .ready⟩ (oneNode 2) = none := by
  refine ⟨?_, ?_⟩ <;> decide +kernel

/-! Witnesses of the memory side's and the host's statements. -/

/-- IPA page 1 in a tier and frame, with more bits of its entry. -/
def paged (tier more : Nat) (s : State) : State :=
  withPages [(1, { e := BitVec.ofNat 128 (2 ^ 0 + 2 ^ 7 + 2 ^ 8 + tier * 2 ^ 10 + more + 3 * 2 ^ 16), va := 0x10000 })] s

def pageIn (s : State) : Option (Nat × Bool × Nat × Bool) := (s.walk 0x10000).map (fun r => (r.leaf.tier, r.leaf.mov, r.leaf.frame, r.leaf.v))

def low (tier : Nat) : State := paged tier 0 { State.reset with freePages := [(tier, 5), (tier + 1, 1000)], marks := [(tier, 10 + 20 * 2 ^ 32), (2, 100 * 2 ^ 64)] }

def loan (dirIn : Bool) : Transfer := { page := 1, dirIn := dirIn, tier := 2, wos := false, since := 0, got := [], lost := false }

def aHead : FrameHead := { session := 1, seq := 4, reqId := 9, ack := 0, mgmt := false, tagOk := true, headOk := true, payloadOk := true }

theorem witness_MemoryEvents :
    (∀ s ∈ [paged 1 (2 ^ 13) State.reset, paged 0 0 State.reset], s.l2 = [] ∧ s.ctl = none ∧ s.bigLeaves = [] ∧ s.waiting = [] ∧
      (s.walk 0x10000).map (fun r => (r.big, decide (s.wholeOf r = r))) = some (false, true)) ∧
    ((pageIn (paged 1 (2 ^ 13) State.reset) = some (1, true, 3, false)) ∧ Tab.find ({ State.reset with moves := [(1, ⟨0, 9, 0⟩)] } : State).moves 1 = some ⟨0, 9, 0⟩ ∧
      ((0, 9) : Nat × Nat) ≠ (1, 3)) ∧
    (pageIn (paged 0 0 { State.reset with shoots := [⟨.only, [1], aHead, true, [.core 0 7 0]⟩] }) = some (0, false, 3, false)) ∧
    (let s := paged 0 (2 ^ 3) State.reset
     (s.blockPage (3 * 128 + 5)).map (fun r => r.leaf.mov) = some false ∧ mdVal (s.slotMd 389 0) = false) ∧
    (let s := low 0
     (s.walk 0x10000).map (fun r => decide (s.allPages = [r]) && (s.startMove r 1).isSome && decide (homeDie (r.base * 65536) < 4)) = some true ∧
      Tab.get 0 s.freePages 0 < ((Tab.get 0 s.marks 0).extractLsb' 0 32).toNat) ∧
    (let s := paged 1 (200 * 2 ^ 48) State.reset
     (s.walk 0x10000).map (fun r => decide (128 ≤ r.leaf.warm) && (s.startMove r 0).isSome) = some true ∧
      ((Tab.get 0 s.marks 0).extractLsb' 32 32).toNat < Tab.get 0 s.freePages 0) ∧
    (let s : State := { State.reset with time := 100000000, transfers := [(4, loan true)] }
     Tab.find s.transfers 4 = some (loan true) ∧ (loan true).since + 100000000 ≤ s.time ∧ s.lastDecay + 1000000 ≤ s.time) := by
  refine ⟨?_, ⟨?_, ?_, ?_⟩, ?_, ⟨?_, ?_⟩, ⟨?_, ?_⟩, ⟨?_, ?_⟩, ?_, ?_, ?_⟩ <;> decide +kernel

/-- The open session takes a frame. -/
theorem aux_admits (s : State) (h : s.session = some sess) : s.admits aHead sess :=
  ⟨h, ⟨rfl, rfl, rfl⟩, rfl, by decide, by decide, rfl, by decide⟩

def known : Container := oneGraph 1
def atHost : State := { State.reset with session := some sess, containers := [(0, known)] }

theorem witness_HostSettings : atHost.admits aHead sess ∧ atHost.ctl = none ∧ atHost.ctlQueue = [] ∧
    ((0x7D000 : Word).extractLsb' 8 24).toNat ≠ 0 ∧ ((10 + 20 * 2 ^ 32 : BitVec 128).extractLsb' 0 32).toNat < ((10 + 20 * 2 ^ 32 : BitVec 128).extractLsb' 32 32).toNat ∧
    (let s : State := { atHost with links := [(2, { Link.reset with state := .active })] }
     (s.link 2).word.getLsbD 40 = true ∧ (s.link 2).state = .active) ∧ atHost.stepState = 0 ∧ atHost.cores = [] ∧ atHost.replanning = false ∧
    (let c : Container := { known with plan := [⟨0x10000, 65536, 0, 0, 0, 0⟩] }
     c.accepted = true ∧ c.plan[0]?.map (fun p => (p.flags.getLsbD 4, p.type)) = some (false, 0)) := by
  refine ⟨aux_admits _ rfl, ?_, ?_, ?_, ?_, ⟨?_, ?_⟩, ?_, ?_, ?_, ?_, ?_⟩ <;> decide +kernel

theorem witness_FrameAcceptance : State.reset.session = none ∧ atHost.session = some sess ∧
    ¬ ({ aHead with seq := 3 }.seq ∉ sess.seen) ∧
    (aHead.tagOk = true ∧ aHead.headOk = true ∧ aHead.session = sess.id ∧ aHead.seq ∉ sess.seen ∧ sess.highest < aHead.seq + 64) ∧
    ({ sess with replies := [(9, .reply 1 3 9 false 0x40 0 0 [])] } : Session).replies.find? (fun e => e.1 = aHead.reqId) = some (9, .reply 1 3 9 false 0x40 0 0 []) ∧
    (∀ e ∈ sess.replies, e.1 ≠ aHead.reqId) ∧ ({ aHead with payloadOk := false } : FrameHead).payloadOk = false ∧ ({ sess with attested := false } : Session).attested = false := by
  decide +kernel

/-- A page of the host's with a patch point, and a launch. -/
def patched : State :=
  paged 0 0 { atHost with
    containers := [(0, { known with plan := [⟨0x10000, 65536, 0, 0, 0, 0⟩], ipas := [0x10000], patches := [⟨0, 8, 16⟩] })],
    launches := [(5, { handle := 1, graphSec := 0, step := false, nodes := [(0, nodeIn .retired)], stepend := false })] }

def pageReq (tier : Nat) : PageReq := { type := 0, flags := 8, tier := tier, ipa := 0x10000, va := 0x10000, count := 1 }

theorem witness_HostCommands : (patched.waiting = [] ∧ patched.turns.head? = none ∧
      (patched.walk 0x10000).map (fun x => decide (patched.wholeOf x = x)) = some true ∧ patched.bigLeaves = []) ∧ patched.admits aHead sess ∧ patched.ctl = none ∧ patched.ctlQueue = [] ∧
    (sess.lastAt + 10000000000 ≤ ({ patched with time := 10000000000 } : State).time) ∧
    (Tab.find patched.containers 0).map (fun c => (c.accepted, decide (patched.inUse 0 = false), c.patches[0]?.map (fun p => (c.ipas.getD p.plan 0 + p.off, p.size)))) = some (true, true, some (0x10010, 8)) ∧
    Tab.find patched.containers 7 = none ∧
    (chkOk ((patched.took aHead sess).cmdChk .read 0x10010)).map (fun r => (r.leaf.type, r.leaf.v)) = some (0, false) ∧
    (chkOk ((patched.took aHead sess).cmdChk .write 0x10010)).map (fun r => (r.leaf.type, r.leaf.v)) = some (0, false) ∧
    known.sections[0]? = some (.graph { step := false, terminal := none, nodes := [oneNode 1] }) ∧ patched.gangFits 1 = true ∧ known.ipPagesOf (oneNode 1) = [] ∧
    ((pageReq 2).type < 4 ∧ (pageReq 2).tier < 4 ∧ (pageReq 2).flags.toNat < 32 ∧ atHost.leaves = [] ∧ atHost.walk 0x10000 = none) ∧
    ((patched.walk 0x10000).map (fun x => (x.big, x.leaf.type, x.leaf.mov, x.leaf.tier)) = some (false, 0, false, 0)) ∧
    (1 ≤ Tab.get 0 patched.freePages 1 ∧ patched.frames = []) ∧
    (Tab.find patched.launches 9 = none ∧ (Tab.find patched.launches 5).map (fun y => y.nodes.map (fun e => (e.2.dying, decide (e.2.state = .retired)))) = some [(false, true)]) ∧
    (patched.fw.staged = [] ∧ patched.stepState = 0 ∧ atHost.launches = [] ∧ State.reset.containers = []) := by
  refine ⟨⟨?_, ?_, ?_, ?_⟩, aux_admits _ rfl, ?_, ?_, ?_, ?_, ?_, ?_, ?_, ?_, ?_, ?_, ⟨?_, ?_, ?_, ?_, ?_⟩, ?_, ⟨?_, ?_⟩, ⟨?_, ?_⟩, ?_, ?_, ?_, ?_⟩ <;> decide +kernel

/-- A payload of container length whose magic is wrong is refused: the codes are not always 0. -/
theorem witness_HostCommands_magic : ofLe (([0, 0, 0, 0] : List Byte).take 4) ≠ 0x4C535250 ∧ atHost.containerCode [0, 0, 0, 0] ≠ 0 := by decide +kernel

/-- The least container: a header, a table of one section, and a string table of one empty string. Its digest comes from another
implementation of SHAKE256. -/
def least : List Byte := [80, 82, 83, 76, 1, 0, 0, 0, 1, 0, 0, 0, 64, 0, 0, 0, 192, 0, 0, 0, 0, 0, 0, 0, 64, 0, 0, 0, 0, 0, 0, 0, 161, 252, 175, 29, 27, 255, 111, 128, 48, 178, 180, 224, 171, 7, 32, 8, 19, 27, 51, 248, 196, 198, 209, 171, 195, 167, 149, 182, 108, 235, 77, 110, 1, 0, 0, 0, 0, 0, 0, 0, 128, 0, 0, 0, 0, 0, 0, 0, 1, 0, 0, 0, 0, 0, 0, 0, 0, 0, 0, 0, 0, 0, 0, 0, 0, 0, 0, 0, 0, 0, 0, 0, 0, 0, 0, 0, 0, 0, 0, 0, 0, 0, 0, 0, 0, 0, 0, 0, 0, 0, 0, 0, 0, 0, 0, 0, 0, 0, 0, 0, 0, 0, 0, 0, 0, 0, 0, 0, 0, 0, 0, 0, 0, 0, 0, 0, 0, 0, 0, 0, 0, 0, 0, 0, 0, 0, 0, 0, 0, 0, 0, 0, 0, 0, 0, 0, 0, 0, 0, 0, 0, 0, 0, 0, 0, 0, 0, 0, 0, 0, 0, 0, 0, 0, 0, 0, 0, 0, 0, 0]

theorem test_shake256 : shake256 [] 4 = [0x46, 0xB9, 0xDD, 0x2B] := by decide +kernel

theorem witness_HostCommands_accepted : atHost.containerCode least = 0 ∧ least.length = 192 := by decide +kernel


/-! Witnesses of the step group's, the fabric's and the machine's statements. -/

def openReq : OpenReq := { flags := 0, expected := 0, step := 8, seed := 0, cursors := [], counters := [], threshold := 0 }
def treed (bits : Nat) (s : State) : State := { s with tree := s.tree ||| BitVec.ofNat 256 bits }

theorem witness_StepCommands : atHost.admits aHead sess ∧ atHost.stepState = 0 ∧ atHost.tree.getLsbD 17 = false ∧
    ((treed (2 ^ 17 + 2 ^ 16) atHost).tree.getLsbD 17 = true ∧ atHost.lastCommitted.toNat ≤ openReq.step.toNat ∧ atHost.last < 2 ^ 32 - 1 ∧ openReq.flags.toNat < 32 ∧ openReq.flags.getLsbD 4 = false ∧ openReq.expected = 0) ∧
    (∃ s : State, s.admits aHead sess ∧ s.stepState = 6 ∧ s.attempt = 42 ∧ s.abortWait = false) ∧
    (∃ s : State, s.stepState = 5 ∧ s.commitDue = none ∧ s.treeChildren = []) ∧
    Tab.find ({ atHost with verdictLog := [(42, ⟨42, true, 0⟩)] } : State).verdictLog (42 % 4096) = some ⟨42, true, 0⟩ ∧
    (∃ s : State, ∃ w : OpenWait, s.openWait = some w ∧ w.todo = [] ∧ w.found = false) := by
  refine ⟨aux_admits _ rfl, by decide +kernel, by decide +kernel, ⟨by decide +kernel, by decide +kernel, by decide +kernel, by decide +kernel, by decide +kernel, rfl⟩, ?_, ?_, by decide +kernel, ?_⟩
  · exact ⟨{ atHost with stepState := 6, attempt := 42 }, aux_admits _ rfl, rfl, rfl, rfl⟩
  · exact ⟨{ atHost with stepState := 5 }, rfl, rfl, by decide +kernel⟩
  · exact ⟨{ atHost with openWait := some ⟨aHead, openReq, 1, [1], [], false⟩ }, _, rfl, rfl, rfl⟩

/-- A device under device 1 whose one child has voted. -/
def leaf1 : State :=
  { State.reset with
    stepState := 3, attempt := 42, voteReady := true, childVotes := [⟨2, 0, 1⟩], tree := BitVec.ofNat 256 (1 + 2 ^ 17 + 2 ^ 18 + 2 * 2 ^ 32),
    fabric := 0x0011, comms := [], links := [(0, { Link.reset with state := .active }), (1, { Link.reset with state := .active })] }

def halMsg (kind verdict : Nat) : HalMsg := ⟨kind, verdict, 0, 42, 0, true⟩

theorem witness_HalyardEvents :
    (1 ≤ leaf1.stepState ∧ leaf1.stepState ≤ 3 ∧ leaf1.commitDue = none ∧ leaf1.voteReady = true ∧ leaf1.tree.getLsbD 16 = false ∧ leaf1.treeChildren = [2] ∧
      leaf1.childVotes.map (·.src) = [2] ∧ (leaf1.sendPacket 0 1 0 [List.replicate 16 0]).isSome = true) ∧
    (root.tree.getLsbD 16 = true ∧ root.ctl = none ∧ root.launches = [] ∧ root.treeChildren = [1, 2] ∧ root.childVotes.map (·.src) = [1, 2]) ∧
    (let s : State := { root with silenceAt := some 0, time := 5000000 }
     0 + (s.tree.extractLsb' 176 16).toNat * 100000 ≤ s.time) ∧
    ((halMsg 1 0).reservedZero = true ∧ (halMsg 1 0).kind = 1 ∧ (halMsg 1 0).verdict = 0 ∧ (halMsg 1 0).attempt = leaf1.attempt ∧ 2 ∈ leaf1.treeChildren ∧
      (∀ x ∈ ({ leaf1 with childVotes := [] } : State).childVotes, x.src ≠ 2)) ∧
    ((halMsg 2 1).verdict = 1 ∧ 4 ≤ ({ leaf1 with stepState := 4 } : State).stepState ∧ (halMsg 2 2).verdict = 2) ∧
    ((halMsg 3 0).word = 0 ∧ Tab.find leaf1.verdictLog (42 % 4096) = none ∧ leaf1.last64 = []) ∧
    ((halMsg 4 1).verdict ≤ 2 ∧ ({ leaf1 with stepState := 5 } : State).stepState = 5 ∧ (⟨1, 0, 0, 42, 0, false⟩ : HalMsg).reservedZero = false) ∧
    (let s : State := { leaf1 with stepState := 4, links := [], fabric := 0 }
     s.route s.deviceId 1 none = none ∧ s.votedAt + (s.tree.extractLsb' 192 16).toNat * 100000 ≤ s.time) ∧
    (let s : State := { leaf1 with stepState := 5, time := 1000000, commitDue := some ⟨42, true, 0⟩ }
     s.lastQuery + 1000000 ≤ s.time) := by
  refine ⟨⟨?_, ?_, ?_, ?_, ?_, ?_, ?_, ?_⟩, ⟨?_, ?_, ?_, ?_, ?_⟩, ?_, ⟨?_, ?_, ?_, ?_, ?_, ?_⟩, ⟨?_, ?_, ?_⟩, ⟨?_, ?_, ?_⟩, ⟨?_, ?_, ?_⟩, ⟨?_, ?_⟩, ?_⟩ <;> decide +kernel

def flitOf (kind vc seqNo ack : Nat) : Flit :=
  (⟨BitVec.ofNat 128 (vc * 2 ^ 24 + kind * 2 ^ 27 + 2 ^ 30 + 2 ^ 31 + 2 ^ 48 + 8 * 2 ^ 64), List.replicate 64 1⟩ : Flit).seal seqNo ack

def linkUp (f : Link → Link) : State :=
  { demo id with links := [(2, f { Link.reset with state := .active })], time := 5000, flows := [(flowKey 0 5, { Link.reset with state := .active })] }

def waitingFor (f : Flit) : Link → Link := fun l => { l with unacked := [(f, f)] }

theorem witness_LinkEvents :
    ((linkUp id).link 2).state = .active ∧ (flitOf 0 4 0 0).good = true ∧ (⟨0, []⟩ : Flit).good = false ∧ (State.reset.link 2).state ≠ .active ∧
    ((flitOf 0 4 0 0).kind = 0 ∧ (flitOf 0 4 0 0).seqNo = 0 ∧ (flitOf 0 4 1 0).seqNo ≠ 0 ∧ ((linkUp id).link 2).again = [] ∧ ((linkUp id).link 2).unacked = []) ∧
    (((linkUp id).link 2).mode 4 = 0 ∧ (flitOf 0 4 0 0).vc = 4 ∧ (flitOf 0 4 0 0).dst = (linkUp id).deviceId ∧ ((linkUp id).core 0).begun = true ∧ (flitOf 0 4 0 0).len = 8 ∧
      (flitOf 0 7 0 0).vc = 7) ∧
    (let l := (linkUp (fun l => { l with word := l.word ||| 0x200 })).link 2
     l.mode 4 = 2 ∨ l.mode 4 = 1 ∨ l.mode 4 = 3) ∧
    ((flitOf 1 0 0 0).kind = 1 ∧ ((linkUp (waitingFor (flitOf 0 1 0 0))).link 2).unacked.map (fun e => (e.1.seqNo, e.2.vc)) = [(0, 1)] ∧ (flitOf 1 0 0 0).ack = 0) ∧
    ((flitOf 2 0 0 9).kind = 2 ∧ (flitOf 2 0 0 9).ack = 9) ∧
    ((flitOf 4 4 0 0).kind = 4 ∧ Tab.get [] ((linkUp (fun l => { l with rxGroup := [(4, [flitOf 0 4 0 0])] })).link 2).rxGroup 4 = [flitOf 0 4 0 0]) ∧
    ((State.reset.link 2).state = .train ∧ laneGroup 0 = some (0, 0) ∧ laneGroup 0x1111 = none ∧ laneGroup 0x00FF = some (1, 1)) ∧
    ((State.reset.link 2).word.getLsbD 40 = true) ∧
    ((linkUp (waitingFor (flitOf 0 1 0 0))).link 2).lastAck + 2000 ≤ 5000 ∧
    (Tab.find ((linkUp (fun l => { l with groupAt := [(4, 0)], txGroup := [(4, [flitOf 0 4 0 0])] })).link 2).groupAt 4 = some 0) ∧
    16 ≤ ((linkUp (fun l => { l with tagFails := 16 })).link 2).tagFails ∧
    ((flitOf 3 0 0 0).good = true ∧ (flitOf 3 0 0 0).kind = 3 ∧ (State.reset.link 2).owed = [] ∧ (State.reset.link 2).closing = [] ∧
      (State.reset.link 2).disagree < 3 ∧ 4 ≤ ({ State.reset.link 2 with disagree := 4 } : Link).disagree) ∧
    (∃ k, Tab.get 0 ((linkUp id).link 2).rxKey 4 ≤ k ∧ k ≤ ((linkUp id).link 2).keyNo) ∧
    ((∀ c, ((State.reset.core c).engA.queue = [] ∧ (State.reset.core c).engB.queue = [] ∧ (State.reset.core c).colls = [])) ∧
      ((linkUp id).link 2).state = .active) ∧
    (((linkUp id).link (flowKey 1 5)).state = .active ∧ flowKey (5 % 2) 5 = flowKey 1 5) := by
  refine ⟨?_, ?_, ?_, ?_, ⟨?_, ?_, ?_, ?_, ?_⟩, ⟨?_, ?_, ?_, ?_, ?_, ?_⟩, ?_, ⟨?_, ?_, ?_⟩, ⟨?_, ?_⟩, ⟨?_, ?_⟩, ⟨?_, ?_, ?_, ?_⟩, ?_, ?_, ?_, ?_, ⟨?_, ?_, ?_, ?_, ?_, ?_⟩, ⟨0, ?_, ?_⟩, ⟨fun _ => ⟨rfl, rfl, rfl⟩, ?_⟩, ?_, ?_⟩ <;> decide +kernel

def warmed : State := { State.reset with power := 0x03200064, time := 86400000000000, clocks := [(0, 1600), (1, 900), (2, 800), (3, 1600)] }

theorem witness_PowerAndReset :
    (warmed.lastTick + 100000 ≤ warmed.time ∧ warmed.boardHold = false ∧ warmed.thermalHold = [] ∧ ∀ e ∈ [0, 1, 2, 3], 800 ≤ warmed.clockOf e) ∧
    ((warmed.power.extractLsb' 0 16).toNat * 1000 = 100000 ∧ (warmed.power.extractLsb' 16 16).toNat = 800) ∧
    (3 ∉ warmed.thermalHold ∧ warmed.replanning = false ∧ warmed.lastPlan + 86400000000000 ≤ warmed.time) ∧
    ((warmed.board.extractLsb' 0 16).toNat * 100 < 50000 ∧ 30000 < (warmed.board.extractLsb' 16 16).toNat) ∧
    (let s : State := { warmed with boardHold := true, boardOkSince := some 0 }
     0 + 1000000000 ≤ s.time) ∧
    (State.reset.fw.stagedFull = false ∧ ({ State.reset.fw with stagedFull := true } : Firmware).stagedFull = true) := by
  refine ⟨⟨?_, ?_, ?_, ?_⟩, ⟨?_, ?_⟩, ⟨?_, ?_, ?_⟩, ⟨?_, ?_⟩, ?_, ?_, ?_⟩ <;> decide +kernel

/-- A transfer that lacks one byte, and one that leaves the device. -/
def lent (tier : Nat) (dirIn : Bool) (got : Tab Byte) : State :=
  paged tier (2 ^ 13) { atHost with moves := [(1, ⟨0, 9, 0⟩)], transfers := [(4, { loan dirIn with got := got })] }

theorem witness_PortEvents : atHost.admits aHead sess ∧ (Tab.find atHost.transfers 4 = none) ∧
    ({ sess with period := 3 } : Session).period ≠ 0 ∧
    (pageIn (lent 2 true []) = some (2, true, 3, false) ∧ (Tab.find (lent 2 true []).transfers 4).map (fun x => (x.page, x.dirIn, x.wos)) = some (1, true, false)) ∧
    (let g : Tab Byte := (List.range 64).map (fun k => (k, 7))
     Tab.keys g = (List.range 64) ∧ ∀ k, k < 8 → Tab.find g (64 + k) = none) ∧
    (pageIn (lent 0 false []) = some (0, true, 3, false) ∧ (lent 0 false []).ctl = none ∧ (loan false).tier = 2) ∧ (lent 2 true []).l2 = [] := by
  refine ⟨aux_admits _ rfl, ?_, ?_, ⟨?_, ?_⟩, ⟨?_, ?_⟩, ⟨?_, ?_, ?_⟩, ?_⟩ <;> decide +kernel

def stepped (s : State) : Option State :=
  match step s with
  | .next t => some t
  | _ => none

/-- A parcel fetched, or none. -/
def parcel (s : State) (k : Nat) : Option Nat :=
  match s.parcelAt 0 (s.core 0).pc k with
  | .ok a => some a
  | _ => none

theorem witness_MemoryStaysCanonical : (State.reset.withFetchWord 32 0xD0000000).memOk = true ∧
    (stepped (State.reset.withFetchWord 32 0xD0000000)).map (fun t => (t.core 0).now) = some 1 := by
  refine ⟨?_, ?_⟩ <;> decide +kernel

/-- A task of one core whose bundle holds LI s9, 5 in the S slot. -/
def oneLi : State := State.reset.withFetchWord 64 (encodeHeader ⟨[.s], false, false, 0⟩ + 0x2A240005 * 2 ^ 32)

theorem witness_StepRunsDecoded :
    ((oneLi.core 0).occ.map (fun o => (o.first, o.gang)) = some (0, 1) ∧ (oneLi.core 0).begun = true ∧ (oneLi.core 0).stopped = false ∧ (oneLi.core 0).ended = false ∧
      (oneLi.core 0).shadow = none ∧ oneLi.memberFault 0 = none ∧ oneLi.lateNow 0 = [] ∧ (oneLi.core 0).isTarget = false) ∧
    (let t := oneLi.landAll [0]
     let k := t.core 0
     decodeHeader (encodeHeader ⟨[.s], false, false, 0⟩) = .ok ⟨[.s], false, false, 0⟩ ∧ sylParcels .s 0x2A240005 = [0x2A240005] ∧
     decodeSyl .s 0x2A240005 = .ok (.li 9 5) ∧ firstIll k [(.s, .li 9 5)] = none ∧ placeFault k k.delay.isSome [(.s, .li 9 5)] = none ∧ k.cond 0 = true ∧
     t.operandFault 0 .s (.li 9 5) = none ∧ t.waitCause 0 (entriesOf k (.li 9 5)) (.li 9 5) = none) ∧
    (parcel (oneLi.landAll [0]) 0 = some (encodeHeader ⟨[.s], false, false, 0⟩) ∧ parcel (oneLi.landAll [0]) 1 = some 0x2A240005) ∧
    nmLanes.curUnit = 0 ∧ (nmLanes.unit 0).run = some 3 := by
  refine ⟨⟨?_, ?_, ?_, ?_, ?_, ?_, ?_, ?_⟩, ⟨?_, ?_, ?_, ?_, ?_, ?_, ?_, ?_⟩, ⟨?_, ?_⟩, ?_, ?_⟩ <;> decide +kernel

theorem witness_EncodingRoundTrip : (Instr.add 9 1 2).wf = true ∧ encodeSyl .s (.add 9 1 2) ≠ none ∧
    (Instr.copy ⟨.b, 1, 3, 4, 0⟩).wf = true ∧ encodeSyl .cb (.copy ⟨.b, 1, 3, 4, 0⟩) = some 0x0040C100 ∧
    (Instr.nfma ⟨4, 1, 2, 3, false⟩).wf = true ∧ encodeNM (.nfma ⟨4, 1, 2, 3, false⟩) = some 0x1310108300000000 ∧ 31 < 32 := by
  decide +kernel

/-! Witnesses of the clauses on gangs and bundles of several slots, on landings, and on what readings and requests leave. -/

/-- A gang of two whose bundle has LI s9, 5 in the S slot and FENCE in the K slot, guarded by p1, which holds on member 1 alone or on none. -/
def duo (second : Nat) (p1 : Bool) : State :=
  let s := State.reset.withFetchWord 96 (encodeHeader ⟨[.s, .k], false, false, 1⟩ + second * 2 ^ 32 + 0x250C3000 * 2 ^ 64)
  let o : Occ := { launch := 0, node := 0, member := 0, gang := 2, first := 0, step := false, terminal := false, handle := 0 }
  { s with cores := [(0, { s.core 0 with occ := some o }),
      (1, { Core.reset with occ := some { o with member := 1 }, begun := true, p := if p1 then [(1, 1)] else [] })] }

def duoSyls : List (Slot × Instr) := [(.s, .li 9 5), (.k, .fence 3 3)]

/-- Whether a bundle of two syllables meets what the issue asks of the members on which its guard holds. -/
def duoReady (s : State) (on : List Nat) : Bool :=
  let t := s.landAll [0, 1]
  decide (([0, 1] : List Nat).filter (fun m => (t.core m).cond 1) = on) &&
    duoSyls.all (fun e => !(ctxBad (t.core 0) e.2)) && (placeFault (t.core 0) (t.core 0).delay.isSome duoSyls).isNone &&
    on.all (fun m => duoSyls.all (fun e => (t.operandFault m e.1 e.2).isNone && (t.waitCause m 0 e.2).isNone))

theorem witness_StepRunsDecoded_gang :
    (let s := duo 0x2A240005 true
     s.gang 0 = [0, 1] ∧ ((s.core 0).occ.map (fun o => (o.first, o.gang)) = some (0, 2) ∧ (s.core 0).begun = true ∧ (s.core 0).ended = false) ∧
     ∀ m ∈ [0, 1], (s.core m).shadow = none ∧ (s.core m).lqHeld = [] ∧ s.memberFault m = none ∧ s.lateNow m = []) ∧
    ((List.range 3).map (parcel ((duo 0x2A240005 true).landAll [0, 1])) =
        [some (encodeHeader ⟨[.s, .k], false, false, 1⟩), some 0x2A240005, some 0x250C3000] ∧
      decodeSyl .s 0x2A240005 = .ok (.li 9 5) ∧ decodeSyl .k 0x250C3000 = .ok (.fence 3 3) ∧
      duoReady (duo 0x2A240005 true) [1] = true ∧ duoReady (duo 0x2A240005 false) [] = true) ∧
    (parcel ((duo 0x50000000 true).landAll [0, 1]) 1 = some 0x50000000 ∧ ∃ e, decodeSyl .s 0x50000000 = .error e) ∧
    (let s := atSafePoint (nodeIn .preempting)
     (s.landAll [0]).safeReady 0 [0] = true ∧ decodeHeader (encodeHeader ⟨[], true, false, 0⟩) = .ok ⟨[], true, false, 0⟩) := by
  refine ⟨⟨?_, ⟨?_, ?_, ?_⟩, ?_⟩, ⟨?_, ?_, ?_, ?_, ?_⟩, ⟨?_, _, rfl⟩, ?_, ?_⟩ <;> decide +kernel

/-- Results in flight, two of them due, of which the later one is in the register of the first. -/
def landing : State :=
  demo (fun k => { k with
    now := 3, pend := [⟨3, 1, .scalar 4 5⟩, ⟨3, 2, .scalar 4 6⟩, ⟨9, 4, .pred 0 1 1⟩], tt := [(2, BitVec.ofNat 512 (2 ^ 480))],
    land := [{ openAt 0 .load 0x100 with landAt := some 3, elems := [⟨0, 0x100, 0x100, 8, [], List.replicate 8 7, true⟩] }] })

/-- A vector load of two elements whose data have come. -/
def loaded : Access :=
  { openAt 4 .load 0x10000 with
    dest := .vector 9 8, elems := [⟨0, 0x10000, 0x10000, 8, [], List.replicate 8 1, true⟩, ⟨63, 0x10008, 0x10008, 8, [], List.replicate 8 2, true⟩] }

theorem witness_ResultsLand :
    (landing.me.shadow = none ∧ (landing.me.pend.filter (fun q => q.due ≤ landing.me.now)).map (·.ord) = [1, 2] ∧ regs.me.pend = []) ∧
    (landing.me.pend.Pairwise (fun x y => x.ord ≤ y.ord) ∧ (Tab.get 0 landing.me.tt 2).getLsbD 480 = true ∧
      (Tab.get 0 landing.me.tt 1).getLsbD 480 = false ∧ landing.me.mxReads = [] ∧ landing.barBusy 0 0x40 = false) ∧
    (parcel oneLi 0).map (fun w => (decodeHeader w).toOption.isSome) = some true ∧
    (landing.me.land.map (fun a => (a.landAt, a.elems.map (·.done))) = [(some 3, [true])] ∧ loaded.kind = .load ∧
      (∀ x ∈ loaded.elems, x.done = true ∧ x.idx < 512 / 8 ∧ x.got.length = 8) ∧ (loaded.elems.map (·.idx)).Nodup) := by
  refine ⟨⟨?_, ?_, ?_⟩, ⟨?_, ?_, ?_, ?_, ?_⟩, ?_, ?_, ?_, ?_, ?_⟩ <;> decide +kernel

theorem witness_HostSettings_more :
    (let w : Word := Link.reset.word ||| 1
     let on : State := { atHost with links := [(2, { Link.reset with state := .active })] }
     let off : State := { atHost with links := [(2, { Link.reset with state := .down })] }
     on.stepState = 0 ∧ w.getLsbD 40 = true ∧ (on.link 2).state = .active ∧ (on.link 2).word.extractLsb' 0 16 ≠ w.extractLsb' 0 16 ∧
       (laneGroup (on.link 2).laneFail.toNat).isSome = true ∧ (off.link 2).state = .down) ∧
    (let s : State := { atHost with readings := { Readings.reset with supply := 30000 } }
     s.boardHold = false ∧ s.readings.supply ≠ 0 ∧ s.readings.supply < (s.board.extractLsb' 16 16).toNat ∧
       atHost.readings.inlet ≤ 100 * (atHost.board.extractLsb' 0 16).toNat ∧ atHost.readings.supply = 0) := by
  decide +kernel

theorem witness_HostCommands_more : patched.held = [] ∧ (∀ e ∈ patched.shoots, e.marked = true) ∧ (pageReq 0).flags.getLsbD 2 = false ∧
    (∀ e ∈ ({ patched with shoots := [⟨.only, [7], aHead, true, []⟩] } : State).shoots, e.marked = true) := by decide +kernel

/-- A committed step whose plan waits, and an attempt that the log holds. -/
def awaiting : State :=
  { atHost with
    stepState := 6, attempt := 42, nextPlan := some { volt := [], freq := [], monitor := [], equal := [(2, 5)] },
    links := [(2, { Link.reset with state := .active })] }
def logged : State := { atHost with stepState := 3, attempt := 42, verdictLog := [(42, ⟨42, true, 0⟩)] }

theorem witness_StepCommands_more : awaiting.admits aHead sess ∧ (awaiting.abortWait = false ∧ awaiting.nextPlan.map (fun p => p.equal.all (fun e => decide (e.1 < 6))) = some true ∧
      (awaiting.link 2).state = .active ∧ Tab.find awaiting.plan.equal 9 = none) ∧
    (1 ≤ logged.stepState ∧ Tab.find logged.verdictLog (logged.attempt % 4096) = some ⟨42, true, 0⟩) ∧
    Tab.find atHost.verdictLog (atHost.attempt % 4096) = none ∧ (root.voteReady && root.allVoted) = true ∧
      ({ root with voteReady := false } : State).voteReady = false := by
  refine ⟨aux_admits _ rfl, ⟨?_, ?_, ?_, ?_⟩, ⟨?_, ?_⟩, ?_, ?_, ?_⟩ <;> decide +kernel

theorem witness_LinkEvents_more :
    ((linkUp id).core 0).occ = some task ∧ (linkUp id).nodeSt task.launch task.node = none ∧
    (let l := (linkUp (fun l => { l with tagFails := 15, rxGroup := [(4, [flitOf 0 4 0 0])] })).link 2
     15 ≤ l.tagFails ∧ laneGroup l.laneFail.toNat ≠ none) ∧
    (State.reset.link 2).sent = false ∧
    (let s : State := { linkUp id with time := 1000000, flows := [(flowKey 0 5, { Link.reset with state := .retrain, sent := true })] }
     let m := s.link (flowKey 0 5)
     m.state ≠ .off ∧ m.state ≠ .down ∧ m.sent = true ∧ m.waiting = [] ∧ m.unacked = [] ∧ m.lastRx + 1000000 ≤ s.time) := by
  decide +kernel

theorem witness_PowerAndReset_more :
    (let limits := (warmed.board.extractLsb' 0 16).toNat
     limits * 100 < 50000 ∧ (30000 ≠ 0 ∧ 30000 < (warmed.board.extractLsb' 16 16).toNat) ∧ (warmed.board.extractLsb' 32 16).toNat < 60000 ∧
       ¬ limits * 100 < warmed.readings.inlet) ∧
    3 ∈ ({ warmed with thermalHold := [3] } : State).thermalHold ∧
    (let s : State := { warmed with replanning := true, links := [(2, { Link.reset with state := .active })] }
     s.replanning = true ∧ s.stepState = 0 ∧ (s.link 2).state = .active) ∧
    (let s : State := { warmed with boardHold := true, boardOkSince := some 0 }
     s.readings.inlet ≤ (s.board.extractLsb' 0 16).toNat * 100 ∧ s.readings.supply = 0) := by
  decide +kernel

theorem witness_PortEvents_more :
    (let s : State := { atHost with host := some ⟨List.replicate 6 2, linkLocal, linkLocal, 40000⟩ }
     s.host.isSome = true ∧ (Out.frame s.session (.event 1 1 1 0x84 [])).isSome = true) := by
  decide +kernel

end Sys2Proof.Tests
end

section
/-! PROOFS. Privileged instructions and TRAP (05 R99). -/

namespace Sys2Proof.Machine

theorem exec_hrd (hd sel : Nat) (s : State) : exec (.hrd hd sel) s = execHrd hd sel s := rfl
theorem exec_hwr (sel ha : Nat) (s : State) : exec (.hwr sel ha) s = execHwr sel ha s := rfl
theorem exec_hpage (hd ha op : Nat) (s : State) : exec (.hpage hd ha op) s = execHpage hd ha op s := rfl
theorem exec_hfreeze (ha : Nat) (s : State) : exec (.hfreeze ha) s = execHfreeze ha s := rfl
theorem exec_eret (s : State) : exec .eret s = execEret s := rfl
theorem exec_trap (n : Nat) (s : State) : exec (.trap n) s = execTrap n s := rfl

/-- A syllable that its context does not admit takes ILL_INSTR, before any check of its operands (05 R88). -/
theorem syl_of_ctxBad (sl : Slot) (i : Instr) (s : State) (body : State → State) (hc : s.cur ≤ 255)
    (hx : ctxBad s.me i = true) :
    syl sl i s body = .next (s.takeFault s.cur { code := fcIllInstr, slot := slotNo sl }) := by
  have hf : firstOf [ctxFault s.me sl i, s.operandFault s.cur sl i] = some (slotFault fcIllInstr (slotNo sl) 0) := by
    rw [ctxFault, hx]; rfl
  unfold syl
  rw [if_neg (by omega)]
  simp only [hf]
  rfl

/-- The five privileged instructions are syllables of the K slot, which only the handler's context admits (05 R99). -/
theorem privileged_syl (s : State) (hd ha sel op : Nat) (hs : s.me.shadow = none) (i : Instr)
    (hi : i ∈ [Instr.hrd hd sel, .hwr sel ha, .hpage hd ha op, .hfreeze ha, .eret]) :
    ∃ body, exec i s = syl .k i s body ∧ ctxBad s.me i = true := by
  simp only [List.mem_cons, List.not_mem_nil, or_false] at hi
  obtain rfl | rfl | rfl | rfl | rfl := hi
  · exact ⟨_, exec_hrd hd sel s, by simp [ctxBad, hs]⟩
  · exact ⟨_, exec_hwr sel ha s, by simp [ctxBad, hs]⟩
  · exact ⟨_, exec_hpage hd ha op s, by simp [ctxBad, hs]⟩
  · exact ⟨_, exec_hfreeze ha s, by simp [ctxBad, hs]⟩
  · exact ⟨_, exec_eret s, by simp [ctxBad, hs]⟩

/-- TRAP names no register, so the handler's context admits it as every other does (05 R99, 18 R354). -/
theorem ctxBad_trap (k : Core) (n : Nat) : ctxBad k (.trap n) = false := by
  cases hs : k.shadow <;> simp [ctxBad, hs, shadowFields]

/-- A TRAP that issues inside the handler takes its exception at once (18 R354). -/
theorem gives_trap_of_shadow (s : State) (n : Nat) (hs : s.me.shadow.isSome = true) :
    s.gives .k (.trap n) (s.takeFault s.cur { code := fcTrap, slot := 8, trapno := n }) :=
  gives_of s .k (.trap n) _ _ (exec_trap n s) (if_pos hs)

end Sys2Proof.Machine

namespace Sys2Proof.Proofs

open Sys2Proof Sys2Proof.Machine

/-- Settles O23: outside the handler the five privileged instructions fail the context check of every syllable, and TRAP
passes it in every context. -/
theorem privilegedOutsideHandler : Obligations.PrivilegedOutsideHandler := by
  intro s hd ha sel op n hc
  refine ⟨fun hs i hi => ?_, ctxBad_trap s.me n, fun h hs => gives_trap_of_shadow s n (by simp [hs])⟩
  obtain ⟨body, he, hx⟩ := privileged_syl s hd ha sel op hs i hi
  rw [he]
  exact syl_of_ctxBad .k i s body hc hx

end Sys2Proof.Proofs
end

section
/-! PROOFS. MZERO, MCKSUM and MSTAT (10 R199, R204, R205). -/

namespace Sys2Proof.Machine

theorem exec_mzero (a : Nat) (s : State) : exec (.mzero a) s = execMzero a s := rfl
theorem exec_mcksum (a sd : Nat) (s : State) : exec (.mcksum a sd) s = execMcksum a sd s := rfl
theorem exec_mstat (a sd : Nat) (s : State) : exec (.mstat a sd) s = execMstat a sd s := rfl

/-! The state that a compute-port instruction leaves (10 R192, R199). -/

/-- A syllable that posts a result and then changes its core leaves every other core as it was. -/
theorem onlyMe_post_modMe (s : State) (lat : Nat) (e : Eff) (f : Core → Core) :
    s.onlyMe ((s.post lat e).modMe f).issued (f (s.me.post lat s.seq e)) := by
  refine ⟨rfl, fun c => ?_⟩
  have hcur : (s.post lat e).cur = s.cur := rfl
  dsimp only
  rw [State.issued_core, State.core_modMe, State.me_post, hcur]
  split
  · rfl
  · next hc => rw [State.post, State.core_modMe, if_neg hc]

/-- What a compute-port instruction that reads no operand does to its core besides the result that it posts: it tags the
accumulator, holds the port for `occ` cycles and adds the record numbered `id` (10 R192). -/
def Core.takePort (k : Core) (id a tag occ lat : Nat) : Core :=
  { k with
    atag := Tab.set k.atag a tag, busyC := k.now + occ
    mx := k.mx ++ [⟨id, k.now + lat, a, false, false, false, false, k.tag a⟩] }

theorem compute_eq_takePort (s : State) (a tag occ lat : Nat) (v : List Word) :
    s.compute a tag occ lat v false false false false [] [] =
      (s.post lat (.acc a v)).modMe (fun k => k.takePort s.seq a tag occ lat) := rfl

/-- A result in flight changes nothing that taking the port reads. -/
theorem takePort_post (k : Core) (id a tag occ lat ord : Nat) (e : Eff) :
    (k.post lat ord e).takePort id a tag occ lat =
      { k.post lat ord e with
        atag := Tab.set k.atag a tag, busyC := k.now + occ
        mx := k.mx ++ [⟨id, k.now + lat, a, false, false, false, false, k.tag a⟩] } := by
  simp only [Core.takePort, Core.tag, Core.post_atag, Core.post_now, Core.post_mx]

theorem onlyMe_compute (s : State) (a tag occ lat : Nat) (v : List Word) :
    s.onlyMe (s.compute a tag occ lat v false false false false [] []).issued
      { s.me.post lat s.seq (.acc a v) with
        atag := Tab.set s.me.atag a tag, busyC := s.me.now + occ
        mx := s.me.mx ++ [⟨s.seq, s.me.now + lat, a, false, false, false, false, s.me.tag a⟩] } := by
  rw [compute_eq_takePort, ← takePort_post]
  exact onlyMe_post_modMe s lat (.acc a v) (fun k => k.takePort s.seq a tag occ lat)

/-! The weighted sum (10 R204). -/

/-- A sum over the first entries of a list, where an entry that the list lacks adds what a zero adds: nothing. -/
theorem sum_zip_range (l : List Word) (m : Nat) (f : Nat → Word → Nat) (hf : ∀ n, f n 0 = 0) :
    (((List.range m).zip l).map (fun c => f c.1 c.2)).sum = ((List.range m).map (fun n => f n (l.getD n 0))).sum := by
  induction l generalizing m f with
  | nil => simp only [List.zip_nil_right, List.map_nil, List.getD_nil, hf, List.map_const', List.sum_replicate, List.sum_nil, smul_zero]
  | cons x r ih =>
    cases m with
    | zero => rfl
    | succ m =>
      have hr := ih m (fun n => f (n + 1)) (fun n => hf (n + 1))
      simp only [List.range_succ_eq_map, List.zip_cons_cons, List.zip_map_left, List.map_cons, List.map_map, List.sum_cons,
        List.getD_cons_zero]
      exact congrArg (f 0 x + ·) hr

/-- The sum that MCKSUM folds over an accumulator's containers. -/
theorem mcksum_eq_sum (m : Nat) (l : List Word) :
    ((List.range m).zip l).foldl (fun n c => n + c.2.toNat * (c.1 + 1)) 0 =
      ((List.range m).map (fun n => (n + 1) * (l.getD n 0).toNat)).sum := by
  rw [← sum_zip_range l m (fun n x => (n + 1) * x.toNat) (fun n => Nat.mul_zero _), List.sum_eq_foldl, List.foldl_map]
  simp only [Nat.mul_comm]

/-! The status word (10 R205). -/

/-- Whether a result in flight writes an accumulator. -/
def Pend.writesAcc (a : Nat) (p : Pend) : Bool :=
  match p.eff with
  | .acc b _ => b == a
  | _ => false

/-- The latest value for an accumulator, once one more result in flight is seen. -/
def Pend.latestAcc (a : Nat) (r : Option (List Word)) (p : Pend) : Option (List Word) :=
  match p.eff with
  | .acc b v => if b = a then some v else r
  | _ => r

theorem Core.chained_eq (k : Core) (a : Nat) : k.chained a = k.pend.foldl (Pend.latestAcc a) none := rfl

theorem Pend.latestAcc_isSome (a : Nat) (r : Option (List Word)) (p : Pend) :
    (p.latestAcc a r).isSome = (p.writesAcc a || r.isSome) := by
  unfold Pend.latestAcc Pend.writesAcc
  cases p.eff with
  | acc b v => by_cases h : b = a <;> simp [h]
  | _ => rfl

theorem foldl_latestAcc_isSome (a : Nat) (l : List Pend) (r : Option (List Word)) :
    (l.foldl (Pend.latestAcc a) r).isSome = (r.isSome || l.any (Pend.writesAcc a)) := by
  induction l generalizing r with
  | nil => simp
  | cons p l ih => rw [List.foldl_cons, ih, Pend.latestAcc_isSome, List.any_cons, Bool.or_comm (p.writesAcc a), Bool.or_assoc]

/-- An accumulator has a chained value where some result in flight writes it (10 R193). -/
theorem Core.chained_isSome (k : Core) (a : Nat) : (k.chained a).isSome = k.pend.any (Pend.writesAcc a) := by
  rw [Core.chained_eq, foldl_latestAcc_isSome]
  rfl

theorem toNat_extractLsb'_ofNat (n p w : Nat) :
    ((BitVec.ofNat 64 n).extractLsb' p w).toNat = n % 2 ^ 64 / 2 ^ p % 2 ^ w := by
  rw [BitVec.extractLsb'_toNat, BitVec.toNat_ofNat, Nat.shiftRight_eq_div_pow]

theorem getLsbD_two_ofNat (n : Nat) : (BitVec.ofNat 64 n).getLsbD 2 = decide (n / 2 ^ 2 % 2 = 1) := by
  rw [BitVec.getLsbD_ofNat, Nat.testBit_eq_decide_div_mod_eq, decide_eq_true (by decide : 2 < 64), Bool.true_and]

/-- Fields that fit their places in a word with the layout of the MSTAT word are what its bits there read. -/
theorem statusWord_fields (t c d x y : Nat) (p : Bool) (ht : t < 4) (hc : c < 2 ^ 8) (hd : d < 2 ^ 8) (hx : x < 2 ^ 16)
    (hy : y < 2 ^ 16) :
    let v : Word := BitVec.ofNat 64 (t + (if p then 4 else 0) + c * 2 ^ 8 + d * 2 ^ 16 + x * 2 ^ 24 + y * 2 ^ 40)
    (v.extractLsb' 0 2).toNat = t ∧ v.getLsbD 2 = p ∧ (v.extractLsb' 8 8).toNat = c ∧ (v.extractLsb' 16 8).toNat = d ∧
      (v.extractLsb' 24 16).toNat = x ∧ (v.extractLsb' 40 16).toNat = y := by
  have hp : (if p then 4 else 0) = 4 * p.toNat := by cases p <;> rfl
  have hp1 : p.toNat ≤ 1 := p.toNat_le
  intro v
  refine ⟨?_, ?pend, ?_, ?_, ?_, ?_⟩
  case pend =>
    rw [getLsbD_two_ofNat, hp]
    have hbit : (t + 4 * p.toNat + c * 2 ^ 8 + d * 2 ^ 16 + x * 2 ^ 24 + y * 2 ^ 40) / 2 ^ 2 % 2 = p.toNat := by omega
    rw [hbit]
    cases p <;> rfl
  all_goals
    rw [toNat_extractLsb'_ofNat, hp]
    omega

/-! The three instructions where they issue. -/

theorem yields_mzero (s : State) (a : Nat) :
    s.yields .mx (.mzero a) (fun t =>
      t = (s.compute a 3 1 14 (List.replicate 4096 0) false false false false [] []).issued) := fun hi =>
  ⟨_, (exec_mzero a s).trans (syl_issues .mx _ s _ hi), rfl⟩

theorem gives_mcksum (s : State) (a sd : Nat) :
    s.gives .mx (.mcksum a sd) (s.post 8 (.scalar sd (BitVec.ofNat 64
      ((List.range 4096).map (fun n => (n + 1) * ((s.me.accVal a).getD n 0).toNat)).sum))) :=
  gives_of s .mx _ _ _ (exec_mcksum a sd s) (by rw [mcksum_eq_sum, State.postS])

theorem gives_mstat (s : State) (a sd : Nat) :
    s.gives .mx (.mstat a sd) (s.post 1 (.scalar sd (BitVec.ofNat 64 (s.me.mstat a)))) :=
  gives_of s .mx _ _ _ (exec_mstat a sd s) rfl

end Sys2Proof.Machine

namespace Sys2Proof.Proofs

open Sys2Proof Sys2Proof.Machine

/-- Settles O25: MZERO is a compute-port result of zeros, MCKSUM folds the weighted sum, and the fields of the MSTAT word
do not overlap. -/
theorem matrixStatusResults : Obligations.MatrixStatusResults := by
  intro s a sd ht hr hs
  refine ⟨fun hi => ?_, gives_mcksum s a sd, _, gives_mstat s a sd, ?_⟩
  · obtain ⟨t, he, rfl⟩ := yields_mzero s a hi
    exact ⟨_, he, onlyMe_compute s a 3 1 14 _⟩
  · obtain ⟨htag, hpend, hrest⟩ := statusWord_fields (s.me.tag a) s.me.reex s.me.second (min 65535 (s.me.busyC - s.me.now))
      (min 65535 (s.me.busyD - s.me.now)) (s.me.chained a).isSome ht hr hs (by omega) (by omega)
    exact ⟨htag, hpend.trans (s.me.chained_isSome a), hrest⟩

end Sys2Proof.Proofs
end
